-- ==== Sys2Proof/Word.lean ====
section
/-! DEFINITION. The word types and their plainest arithmetic (R6, R8). -/

namespace Sys2Proof

/-- A byte of memory. -/
abbrev Byte := BitVec 8
/-- A 32-bit vector register element or instruction word. -/
abbrev W32 := BitVec 32
/-- A 64-bit scalar register. -/
abbrev W64 := BitVec 64

end Sys2Proof
end

