-- ==== Sys2Proof/Config.lean ====
section
/-! DEFINITION. What the spec leaves open and every implementation fixes: free values. Each is opaque, so
nothing can evaluate it and no proof can rest on a value of it. Each is applied to the counter
`State.freeIdx`, which advances at every use (log 3). -/

namespace Sys2Proof.Config

/-- A free natural number. -/
opaque freeNat : Nat → Nat

/-- A free 64-bit value. -/
opaque freeWord : Nat → BitVec 64

/-- A free choice. -/
opaque freeBit : Nat → Bool

/-- Byte i of a string of free bytes, such as a context image's parts (R224). -/
opaque freeByte : Nat → Nat → BitVec 8

/-- A string of free bytes. -/
def freeBytes (x n : Nat) : List (BitVec 8) := (List.range n).map (freeByte x)

/-- What a part has from its manufacture (R424, R429): the bundle in flash, the blown security-version bits, earlier
package resets, the root key hash, the serial, the unique secret, and the hours of wear trend since (log 7). -/
opaque factoryFlash : List (BitVec 8)
opaque factorySvn : Nat
opaque factoryResets : Nat
opaque rootKeyHash : List (BitVec 8)
opaque serial : BitVec 64
opaque uniqueSecret : BitVec 256
opaque factoryHours : Nat

/-- The order of P-256's base point. -/
def curveOrder : Nat := 0xffffffff00000000ffffffffffffffffbce6faada7179e84f3b9cac2fc632551

/-- What the ROM's derivation makes of a secret (R424 names no function), and the private scalar that it gives. -/
opaque derive : BitVec 256 → Nat
def identityScalar (secret : BitVec 256) : Nat := 1 + derive secret % (curveOrder - 1)

/-- HM_ID.COOL: the air variant (R434, R438). -/
opaque air : Bool

/-- The set of the L1 in which a line stands, one of 512 (R2): the spec gives no index. -/
opaque l1Set : Nat → Nat

/-- FE_TDELAY of a partition, in ns (R386). -/
opaque tdelay : Nat → Nat

/-- Pages of a job's code image, by its base, beyond those that its record shows to be in it (R379): the spec gives the front end no
field that holds the image's size (log 60). -/
opaque codePages : BitVec 64 → Nat

/-- 4 KiB blocks of a context image behind its tag table, by the number of its cores (R224, R394): a free number,
below what an image in a 57-bit address space can have (log 21). -/
opaque freeBlocks : Nat → Nat
def imageBlocks (n : Nat) : Nat := min (freeBlocks n) (2 ^ 44)

end Sys2Proof.Config
end

