-- ==== Sys2Proof/Machine/Map.lean ====
section
/-! DEFINITION. Sparse data by key: a list of pairs with strictly rising keys, in one canonical form (no
pair holds the value that an unlisted key reads as). Memory, register files and tables are such lists. -/

namespace Sys2Proof.Machine

/-- Values by key; an unlisted key reads as the map's own default. -/
abbrev FMap (α : Type) := List (Nat × α)

namespace FMap

variable {α : Type}

/-- The value listed at a key. -/
def look : FMap α → Nat → Option α
  | [], _ => none
  | (k, v) :: m, x => if x = k then some v else look m x

/-- The value at a key, `d` when it is not listed. -/
def getD (m : FMap α) (x : Nat) (d : α) : α := (look m x).getD d

/-- Is the key listed? -/
def has (m : FMap α) (x : Nat) : Bool := (look m x).isSome

/-- Lists `v` at a key, keeping the keys strictly rising. -/
def ins : FMap α → Nat → α → FMap α
  | [], x, v => [(x, v)]
  | (k, w) :: m, x, v =>
    if x < k then (x, v) :: (k, w) :: m
    else if x = k then (x, v) :: m
    else (k, w) :: ins m x v

/-- Drops a key. -/
def del : FMap α → Nat → FMap α
  | [], _ => []
  | (k, w) :: m, x => if x = k then del m x else (k, w) :: del m x

/-- Writes `v` at a key of a map whose unlisted keys read as `d`. -/
def put [DecidableEq α] (m : FMap α) (d : α) (x : Nat) (v : α) : FMap α :=
  if v = d then del m x else ins m x v

/-- Changes the value at a key, listing it. -/
def upd (m : FMap α) (x : Nat) (d : α) (f : α → α) : FMap α := ins m x (f (getD m x d))

/-- The keys listed, rising. -/
def keys (m : FMap α) : List Nat := m.map Prod.fst

/-- The values listed, by rising key. -/
def vals (m : FMap α) : List α := m.map Prod.snd

/-- Changes every listed value. -/
def mapV {β : Type} (m : FMap α) (f : Nat → α → β) : FMap β := m.map fun p => (p.1, f p.1 p.2)

/-- Keeps the pairs that satisfy a test. -/
def keep (m : FMap α) (f : Nat → α → Bool) : FMap α := m.filter fun p => f p.1 p.2

/-- Keys strictly above `lo` and strictly rising. -/
def risingFrom : Option Nat → FMap α → Bool
  | _, [] => true
  | none, (k, _) :: m => risingFrom (some k) m
  | some lo, (k, _) :: m => decide (lo < k) && risingFrom (some k) m

/-- The canonical form: keys strictly rising, no pair at the default. -/
def wf [DecidableEq α] (m : FMap α) (d : α) : Bool :=
  risingFrom none m && m.all fun p => decide (p.2 ≠ d)

end FMap

end Sys2Proof.Machine
end

