-- ==== Sys2Proof/Syntax.lean ====
section
/-! DEFINITION. The instruction set: one constructor per row of spec/opcode_table.json, an encoded
instruction with the fields of its word (R231 to R235, R245), or an event with the unit it happens at
and what the outside supplies to it. -/

namespace Sys2Proof

/-- A scalar register s0 to s63 (R232). -/
abbrev SReg := Fin 64
/-- A vector register v0 to v127 (R232). -/
abbrev VReg := Fin 128
/-- A predicate p0 to p7 (R232). -/
abbrev PReg := Fin 8
/-- A buffer-record register b0 to b15 (R232). -/
abbrev BReg := Fin 16
/-- A capsule register c0 to c15 (R232). -/
abbrev CReg := Fin 16
/-- A lookahead count (R239). -/
abbrev La := Fin 16
/-- A core of the package, die in bits 8:7, cluster in bits 6:2, core in bits 1:0 (R33, R54). -/
abbrev CoreId := Fin 512
/-- A cluster of the package, 32 * die + cluster (R411). -/
abbrev ClusterId := Fin 128
/-- A compute die (R1). -/
abbrev DieId := Fin 4
/-- A partition (R2, R411). -/
abbrev PartId := Fin 8
/-- A warp slot of a core: 0 to 63 are warp slots (R26), 64 and 65 the handler slots (R214). -/
abbrev SlotNo := Fin 66
/-- A queue of a partition's front end (R385). -/
abbrev QueueNo := Fin 64
/-- A PCIe function: 0 physical, 1 to 8 virtual (R421). -/
abbrev FuncId := Fin 9

/-- The kinds of access that translation tells apart (R221, R406). -/
inductive AccessKind where
  | read | write | atomic | fetch | tagRead | tagWrite | engineRead | engineWrite
  deriving DecidableEq, Repr

/-- Who sends a coherence request to a heddle die: a die of this package, or a member of its group, whose write brings the line's
bytes as the member leaves them (R142, R414). -/
inductive Requester where
  | die (d : DieId)
  | member (pos : Fin 8) (bytes : List (BitVec 8))
  deriving DecidableEq, Repr

/-- A transfer chunk of another package's SHPUT or SHGET as it arrives here (R339, R395). -/
structure RemoteReq where
  /-- true for SHPUT, false for SHGET -/
  put : Bool
  /-- number of the sending package -/
  pkg : BitVec 12
  /-- identity of the distributed job -/
  djid : BitVec 32
  /-- handle that the remote side names -/
  handle : BitVec 32
  /-- identity of the command (R334) -/
  ident : Nat := 0
  /-- byte offset of the chunk's first byte in the transfer -/
  pos : Nat := 0
  /-- true when this is the first chunk of its command -/
  first : Bool
  /-- lowest byte offset that the whole command touches in the remote record, its signal word included -/
  lowest : Int
  /-- one past the highest byte offset that the whole command touches, its signal word included -/
  highest : Int
  /-- byte offsets of this chunk in the remote record, in transfer order, with SHPUT's bytes -/
  cells : List (Nat × BitVec 8)
  /-- offset of the signal word, sent once every chunk is acknowledged -/
  signal : Option Nat
  deriving DecidableEq, Repr

/-- A Scaskaxon port that comes up: the positions of the members that it reaches, and whether its peer reports the member table of
this package (R418). -/
structure PortUp where
  port : Fin 16
  members : BitVec 8
  same : Bool
  deriving DecidableEq, Repr

/-- One resource's trend as its monitors show it when the recovery core recomputes the hours (R436). -/
structure Trend where
  /-- 1 cluster, 2 stack, 3 port, 4 regulator -/
  kind : BitVec 4
  /-- number of the resource -/
  ident : BitVec 8
  /-- a cluster's ring-oscillator slowdown in ppm; a stack's corrected symbols per hour; a port's eye margin in percent; a regulator's
  efficiency loss in tenths of a point -/
  value : BitVec 16
  /-- a cluster's threshold-monitor margin in mV; a regulator's ripple -/
  margin : BitVec 16
  deriving DecidableEq, Repr

/-- One step of the part: an instruction word's instruction, or an event. -/
inductive Instr where
  /-- R260. Scalar add: s[d] := s[a] + s[b] mod 2^64. -/
  | sadd (d : SReg) (a : SReg) (b : SReg)
  /-- R260. Scalar subtract modulo 2^64. -/
  | ssub (d : SReg) (a : SReg) (b : SReg)
  /-- R260. Scalar multiply, low 64 bits. -/
  | smul (d : SReg) (a : SReg) (b : SReg)
  /-- R260. High half of the signed 128-bit scalar product. -/
  | smulh (d : SReg) (a : SReg) (b : SReg)
  /-- R260. Scalar bitwise AND. -/
  | sand (d : SReg) (a : SReg) (b : SReg)
  /-- R260. Scalar bitwise OR. -/
  | sor (d : SReg) (a : SReg) (b : SReg)
  /-- R260. Scalar bitwise XOR. -/
  | sxor (d : SReg) (a : SReg) (b : SReg)
  /-- R260. Scalar shift left by s[b] mod 64. -/
  | sshl (d : SReg) (a : SReg) (b : SReg)
  /-- R260. Scalar logical shift right. -/
  | sshr (d : SReg) (a : SReg) (b : SReg)
  /-- R260. Scalar arithmetic shift right. -/
  | ssra (d : SReg) (a : SReg) (b : SReg)
  /-- R260. Scalar signed minimum. -/
  | smin (d : SReg) (a : SReg) (b : SReg)
  /-- R260. Scalar signed maximum. -/
  | smax (d : SReg) (a : SReg) (b : SReg)
  /-- R260. Scalar unsigned minimum. -/
  | sminu (d : SReg) (a : SReg) (b : SReg)
  /-- R260. Scalar unsigned maximum. -/
  | smaxu (d : SReg) (a : SReg) (b : SReg)
  /-- R260. Scalar move. -/
  | smov (d : SReg) (a : SReg)
  /-- R260. Scalar bitwise NOT. -/
  | snot (d : SReg) (a : SReg)
  /-- R261. Count leading zero bits of a scalar. -/
  | sclz (d : SReg) (a : SReg)
  /-- R261. Count set bits of a scalar. -/
  | spopc (d : SReg) (a : SReg)
  /-- R261. Signed scalar division truncating toward zero, never trapping. -/
  | sdiv (d : SReg) (a : SReg) (b : SReg)
  /-- R261. Signed scalar remainder. -/
  | srem (d : SReg) (a : SReg) (b : SReg)
  /-- R261. Unsigned scalar division. -/
  | sdivu (d : SReg) (a : SReg) (b : SReg)
  /-- R261. Unsigned scalar remainder. -/
  | sremu (d : SReg) (a : SReg) (b : SReg)
  /-- R261. Selects s[a] or s[b] by the select predicate in the first lane. -/
  | ssel (d : SReg) (a : SReg) (b : SReg)
  /-- R262. Scalar compare equal, written to a predicate in every lane. -/
  | scmpEq (d : PReg) (a : SReg) (b : SReg)
  /-- R262. Scalar compare not equal. -/
  | scmpNe (d : PReg) (a : SReg) (b : SReg)
  /-- R262. Scalar signed less-than. -/
  | scmpLt (d : PReg) (a : SReg) (b : SReg)
  /-- R262. Scalar signed less-or-equal. -/
  | scmpLe (d : PReg) (a : SReg) (b : SReg)
  /-- R262. Scalar signed greater-than. -/
  | scmpGt (d : PReg) (a : SReg) (b : SReg)
  /-- R262. Scalar signed greater-or-equal. -/
  | scmpGe (d : PReg) (a : SReg) (b : SReg)
  /-- R262. Scalar unsigned less-than. -/
  | scmpLtu (d : PReg) (a : SReg) (b : SReg)
  /-- R262. Scalar unsigned less-or-equal. -/
  | scmpLeu (d : PReg) (a : SReg) (b : SReg)
  /-- R262. Scalar unsigned greater-than. -/
  | scmpGtu (d : PReg) (a : SReg) (b : SReg)
  /-- R262. Scalar unsigned greater-or-equal. -/
  | scmpGeu (d : PReg) (a : SReg) (b : SReg)
  /-- R263. Writes WMODE from a scalar after checking it and returns the old value. -/
  | mode (d : SReg) (a : SReg)
  /-- R263. Writes WMODE bits selected by a mask and returns the old value. -/
  | modex (d : SReg) (a : SReg) (b : SReg)
  /-- R263. Reads cr.exec and WMODE into a scalar pair. -/
  | exrd (d : SReg)
  /-- R263. Restores cr.exec (masked by path) and WMODE from a scalar pair. -/
  | exwr (a : SReg)
  /-- R264. Per-lane predicate AND. -/
  | pand (d : PReg) (a : PReg) (b : PReg)
  /-- R264. Per-lane predicate OR. -/
  | por (d : PReg) (a : PReg) (b : PReg)
  /-- R264. Per-lane predicate XOR. -/
  | pxor (d : PReg) (a : PReg) (b : PReg)
  /-- R264. Per-lane predicate NOT. -/
  | pnot (d : PReg) (a : PReg)
  /-- R264. Per-lane predicate move. -/
  | pmov (d : PReg) (a : PReg)
  /-- R264. Gathers a predicate of the active lanes into a scalar mask. -/
  | ptos (d : SReg) (a : PReg)
  /-- R264. Sets a predicate in each active lane from bit l of a scalar. -/
  | stop (d : PReg) (a : SReg)
  /-- R265. Loads a sign-extended 32-bit literal through the fetch path into a scalar. -/
  | ldl (d : SReg) (i : BitVec 18)
  /-- R265. Loads an 8-byte-aligned 64-bit literal into a scalar. -/
  | ldlq (d : SReg) (i : BitVec 18)
  /-- R265. Broadcasts a 32-bit literal to every active lane of a vector register. -/
  | ldlv (d : VReg) (i : BitVec 18)
  /-- R266. Reads a control register into a scalar or, per lane, a vector pair. -/
  | crd (d : Fin 128) (n : BitVec 11)
  /-- R266. Writes a control register field by field by its access codes. -/
  | cwr (a : SReg) (n : BitVec 11)
  /-- R268. Vector integer add, saturating or wrapping. -/
  | vadd (d : VReg) (a : VReg) (b : VReg)
  /-- R268. Vector integer subtract. -/
  | vsub (d : VReg) (a : VReg) (b : VReg)
  /-- R268. Vector integer multiply. -/
  | vmul (d : VReg) (a : VReg) (b : VReg)
  /-- R268. High half of the vector integer product. -/
  | vmulh (d : VReg) (a : VReg) (b : VReg)
  /-- R268. Vector bitwise AND. -/
  | vand (d : VReg) (a : VReg) (b : VReg)
  /-- R268. Vector bitwise OR. -/
  | vor (d : VReg) (a : VReg) (b : VReg)
  /-- R268. Vector bitwise XOR. -/
  | vxor (d : VReg) (a : VReg) (b : VReg)
  /-- R268. Vector shift left. -/
  | vshl (d : VReg) (a : VReg) (b : VReg)
  /-- R268. Vector logical shift right. -/
  | vshr (d : VReg) (a : VReg) (b : VReg)
  /-- R268. Vector arithmetic shift right. -/
  | vsra (d : VReg) (a : VReg) (b : VReg)
  /-- R268. Vector integer minimum. -/
  | vmin (d : VReg) (a : VReg) (b : VReg)
  /-- R268. Vector integer maximum. -/
  | vmax (d : VReg) (a : VReg) (b : VReg)
  /-- R268. Vector integer absolute value. -/
  | vabs (d : VReg) (a : VReg)
  /-- R268. Vector integer negate. -/
  | vneg (d : VReg) (a : VReg)
  /-- R268. Vector bitwise NOT. -/
  | vnot (d : VReg) (a : VReg)
  /-- R268. Vector move. -/
  | vmov (d : VReg) (a : VReg)
  /-- R269. Vector integer multiply-add into the destination. -/
  | vmad (d : VReg) (a : VReg) (b : VReg)
  /-- R269. Vector integer multiply-subtract from the destination. -/
  | vmsb (d : VReg) (a : VReg) (b : VReg)
  /-- R270. Vector count leading zeros. -/
  | vclz (d : VReg) (a : VReg)
  /-- R270. Vector population count. -/
  | vpopc (d : VReg) (a : VReg)
  /-- R270. Vector bit reverse. -/
  | vbrev (d : VReg) (a : VReg)
  /-- R270. Vector bit-field extract. -/
  | vbfx (d : VReg) (a : VReg) (b : VReg)
  /-- R270. Vector bit-field insert. -/
  | vbfi (d : VReg) (a : VReg) (b : VReg)
  /-- R270. Per-lane select by the select predicate. -/
  | vsel (d : VReg) (a : VReg) (b : VReg)
  /-- R271. Vector compare equal into a predicate. -/
  | vcmpEq (d : PReg) (a : VReg) (b : VReg)
  /-- R271. Vector compare not equal. -/
  | vcmpNe (d : PReg) (a : VReg) (b : VReg)
  /-- R271. Vector compare less-than. -/
  | vcmpLt (d : PReg) (a : VReg) (b : VReg)
  /-- R271. Vector compare less-or-equal. -/
  | vcmpLe (d : PReg) (a : VReg) (b : VReg)
  /-- R271. Vector compare greater-than. -/
  | vcmpGt (d : PReg) (a : VReg) (b : VReg)
  /-- R271. Vector compare greater-or-equal. -/
  | vcmpGe (d : PReg) (a : VReg) (b : VReg)
  /-- R271. Vector compare unsigned or unordered less-than. -/
  | vcmpLtu (d : PReg) (a : VReg) (b : VReg)
  /-- R271. Vector compare unsigned or unordered less-or-equal. -/
  | vcmpLeu (d : PReg) (a : VReg) (b : VReg)
  /-- R271. Vector compare unsigned or unordered greater-than. -/
  | vcmpGtu (d : PReg) (a : VReg) (b : VReg)
  /-- R271. Vector compare unsigned or unordered greater-or-equal. -/
  | vcmpGeu (d : PReg) (a : VReg) (b : VReg)
  /-- R271. Floating-point compare unordered. -/
  | vcmpUnord (d : PReg) (a : VReg) (b : VReg)
  /-- R271. Floating-point compare ordered. -/
  | vcmpOrd (d : PReg) (a : VReg) (b : VReg)
  /-- R272. Floating-point add, rounded by WMODE. -/
  | fadd (d : VReg) (a : VReg) (b : VReg)
  /-- R272. Floating-point subtract. -/
  | fsub (d : VReg) (a : VReg) (b : VReg)
  /-- R272. Floating-point multiply. -/
  | fmul (d : VReg) (a : VReg) (b : VReg)
  /-- R272. Floating-point minimum. -/
  | fmin (d : VReg) (a : VReg) (b : VReg)
  /-- R272. Floating-point maximum. -/
  | fmax (d : VReg) (a : VReg) (b : VReg)
  /-- R272. Clears the sign bit. -/
  | fabs (d : VReg) (a : VReg)
  /-- R272. Inverts the sign bit. -/
  | fneg (d : VReg) (a : VReg)
  /-- R272. Writes a one-hot class mask of the operand. -/
  | fclass (d : VReg) (a : VReg)
  /-- R272. Multiplies by 2^k with one rounding. -/
  | fscale (d : VReg) (a : VReg) (b : VReg)
  /-- R272. Rounds to an integral value. -/
  | frnd (d : VReg) (a : VReg)
  /-- R272. Copies the sign from the second operand. -/
  | fcsgn (d : VReg) (a : VReg) (b : VReg)
  /-- R273. Fused multiply-add into the destination. -/
  | ffma (d : VReg) (a : VReg) (b : VReg)
  /-- R273. Fused multiply-subtract. -/
  | ffms (d : VReg) (a : VReg) (b : VReg)
  /-- R273. Fused negative multiply-add. -/
  | fnma (d : VReg) (a : VReg) (b : VReg)
  /-- R274. Converts from WMODE.ST to WMODE.ET. -/
  | fcvt (d : VReg) (a : VReg)
  /-- R274. Converts with a scale of 2^k and one rounding. -/
  | fcvts (d : VReg) (a : VReg) (b : VReg)
  /-- R274. Converts and packs narrow elements into one register. -/
  | vpack (d : VReg) (a : VReg) (b : VReg)
  /-- R274. Unpacks and converts field k of a register. -/
  | vunpk (d : VReg) (a : VReg) (k : Fin 128)
  /-- R275. Approximate reciprocal. -/
  | frcpa (d : VReg) (a : VReg)
  /-- R275. Approximate reciprocal square root. -/
  | frsqa (d : VReg) (a : VReg)
  /-- R275. Approximate 2^x. -/
  | fexp2 (d : VReg) (a : VReg)
  /-- R275. Approximate log2 x. -/
  | flog2 (d : VReg) (a : VReg)
  /-- R275. Approximate sine. -/
  | fsin (d : VReg) (a : VReg)
  /-- R275. Approximate cosine. -/
  | fcos (d : VReg) (a : VReg)
  /-- R275. Approximate hyperbolic tangent. -/
  | ftanh (d : VReg) (a : VReg)
  /-- R276. Correctly rounded division on the divide unit. -/
  | fdiv (d : VReg) (a : VReg) (b : VReg)
  /-- R276. Correctly rounded square root. -/
  | fsqrt (d : VReg) (a : VReg)
  /-- R276. Correctly rounded reciprocal square root. -/
  | frsq (d : VReg) (a : VReg)
  /-- R277. The divide unit writes an FDSQ result 14 or 22 cycles after issue and sets its flags. -/
  | fdsqResult (c : CoreId) (slot : SlotNo)
  /-- R278. Each active lane takes the element of the lane its index names. -/
  | vshuf (d : VReg) (a : VReg) (b : VReg)
  /-- R278. Broadcasts the element of lane s[b]. -/
  | vbcast (d : VReg) (a : VReg) (b : SReg)
  /-- R278. Fixed-tree sum of the active elements into a scalar. -/
  | vredadd (d : SReg) (a : VReg)
  /-- R278. Fixed-tree minimum into a scalar. -/
  | vredmin (d : SReg) (a : VReg)
  /-- R278. Fixed-tree maximum into a scalar. -/
  | vredmax (d : SReg) (a : VReg)
  /-- R278. Inclusive prefix sum over the active lanes. -/
  | vscan (d : VReg) (a : VReg)
  /-- R278. Scalar mask of active lanes whose element is non-zero. -/
  | vballot (d : SReg) (a : VReg)
  /-- R278. Compacts selected active elements into lanes 0 upward and returns their count. -/
  | vcompact (d : VReg) (a : VReg) (b : SReg)
  /-- R278. Writes s[a] + lane number in each active lane. -/
  | vlane (d : VReg) (a : SReg)
  /-- R278. Broadcasts a scalar to each active lane. -/
  | movsv (d : VReg) (a : SReg)
  /-- R278. Moves the element of lane s[b] into a scalar. -/
  | movvs (d : SReg) (a : VReg) (b : SReg)
  /-- R279. Uniform branch by guard condition; traps when divergent. -/
  | bra (i : BitVec 25)
  /-- R279. Divergent branch splitting the warp into paths. -/
  | bdiv (i : BitVec 25)
  /-- R279. Pushes a reconvergence entry. -/
  | rcv (i : BitVec 25)
  /-- R279. Unconditional call with link in s63. -/
  | bsr (i : BitVec 25)
  /-- R244. Branches over a literal pool. -/
  | pool (i : BitVec 25)
  /-- R279. Indirect jump with link. -/
  | jmp (d : SReg) (a : SReg)
  /-- R279. Indirect return. -/
  | rets (a : SReg)
  /-- R43. Branches to the schedule-table class that fits a size, or traps. -/
  | sels (a : SReg)
  /-- R280. Retires the guarded lanes, ending the warp or task when none remain live. -/
  | exit
  /-- R280. Advances the program counter only. -/
  | nop
  /-- R281. Raises the SOFTWARE trap with an 8-bit code. -/
  | trap (c : BitVec 8)
  /-- R282. Resolves each handler lane's origin as resume, skip or kill and retires the lane. -/
  | tres (a : VReg)
  /-- R283. Reads and optionally writes one item of the origin lane. -/
  | trec (d : VReg) (a : VReg) (b : VReg)
  /-- R284. Reads the tick counter. -/
  | tick (d : SReg)
  /-- R284. Reads TAI nanoseconds, fraction and lock. -/
  | tai (d : SReg)
  /-- R319. Sleeps until a tick deadline, trapping on a missed promise. -/
  | waitt (a : SReg)
  /-- R121. A sleeping WAITT reaches its deadline and completes or raises PROMISE_MISSED. -/
  | waittDeadline (c : CoreId) (slot : SlotNo)
  /-- R290. Plain load of a byte, zero-extended. -/
  | ldU8 (d : VReg) (x : VReg) (b : BReg) (l : La)
  /-- R290. Plain load of a byte, sign-extended. -/
  | ldI8 (d : VReg) (x : VReg) (b : BReg) (l : La)
  /-- R290. Plain load of 16 bits, zero-extended. -/
  | ldU16 (d : VReg) (x : VReg) (b : BReg) (l : La)
  /-- R290. Plain load of 16 bits, sign-extended. -/
  | ldI16 (d : VReg) (x : VReg) (b : BReg) (l : La)
  /-- R290. Plain load of 32 bits. -/
  | ld32 (d : VReg) (x : VReg) (b : BReg) (l : La)
  /-- R290. Plain load of 64 bits into a pair. -/
  | ld64 (d : VReg) (x : VReg) (b : BReg) (l : La)
  /-- R290. Plain load of 128 bits into a quad. -/
  | ld128 (d : VReg) (x : VReg) (b : BReg) (l : La)
  /-- R290. Plain store of a byte. -/
  | st8 (d : VReg) (x : VReg) (b : BReg) (l : La)
  /-- R290. Plain store of 16 bits. -/
  | st16 (d : VReg) (x : VReg) (b : BReg) (l : La)
  /-- R290. Plain store of 32 bits. -/
  | st32 (d : VReg) (x : VReg) (b : BReg) (l : La)
  /-- R290. Plain store of 64 bits. -/
  | st64 (d : VReg) (x : VReg) (b : BReg) (l : La)
  /-- R290. Plain store of 128 bits. -/
  | st128 (d : VReg) (x : VReg) (b : BReg) (l : La)
  /-- R291. Acquire load at TEAM scope. -/
  | ldaTeam (d : VReg) (x : VReg) (b : BReg) (l : La)
  /-- R291. Acquire load at CLUSTER scope through acquire_read. -/
  | ldaCluster (d : VReg) (x : VReg) (b : BReg) (l : La)
  /-- R291. Acquire load at DIE scope. -/
  | ldaDie (d : VReg) (x : VReg) (b : BReg) (l : La)
  /-- R291. Acquire load at PACKAGE scope. -/
  | ldaPackage (d : VReg) (x : VReg) (b : BReg) (l : La)
  /-- R291. Acquire load at GROUP scope. -/
  | ldaGroup (d : VReg) (x : VReg) (b : BReg) (l : La)
  /-- R291. Acquire load at SYSTEM scope. -/
  | ldaSystem (d : VReg) (x : VReg) (b : BReg) (l : La)
  /-- R291. Release store at TEAM scope. -/
  | stlTeam (d : VReg) (x : VReg) (b : BReg) (l : La)
  /-- R291. Release store at CLUSTER scope through release_write. -/
  | stlCluster (d : VReg) (x : VReg) (b : BReg) (l : La)
  /-- R291. Release store at DIE scope. -/
  | stlDie (d : VReg) (x : VReg) (b : BReg) (l : La)
  /-- R291. Release store at PACKAGE scope. -/
  | stlPackage (d : VReg) (x : VReg) (b : BReg) (l : La)
  /-- R291. Release store at GROUP scope. -/
  | stlGroup (d : VReg) (x : VReg) (b : BReg) (l : La)
  /-- R291. Release store at SYSTEM scope. -/
  | stlSystem (d : VReg) (x : VReg) (b : BReg) (l : La)
  /-- R296. Waits for a full word, reads it and sets it empty. -/
  | ldfe (d : VReg) (x : VReg) (b : BReg)
  /-- R296. Waits for a full word and reads it, leaving it full. -/
  | ldff (d : VReg) (x : VReg) (b : BReg)
  /-- R296. Waits for an empty word, writes it and sets it full. -/
  | stfe (d : VReg) (x : VReg) (b : BReg)
  /-- R296. Waits for a full word and overwrites it, leaving it full. -/
  | stff (d : VReg) (x : VReg) (b : BReg)
  /-- R296. Reads a word's full/empty tag. -/
  | tagrd (d : VReg) (x : VReg) (b : BReg) (l : La)
  /-- R296. Writes a word's full/empty tag. -/
  | tagwr (d : VReg) (x : VReg) (b : BReg) (l : La)
  /-- R299. Waits for a full scratchpad line, reads it and sets it empty. -/
  | ldc (d : VReg) (x : VReg) (b : BReg)
  /-- R299. Waits for an empty scratchpad line, writes it and sets it full. -/
  | stp (d : VReg) (x : VReg) (b : BReg)
  /-- R300. Reads a scratchpad line's full/empty bit. -/
  | lnrd (d : VReg) (x : VReg) (b : BReg) (l : La)
  /-- R300. Writes a scratchpad line's full/empty bit and wakes sleepers. -/
  | lnwr (d : VReg) (x : VReg) (b : BReg) (l : La)
  /-- R301. Prefetches lines into the L1 without faults. -/
  | pref (x : VReg) (b : BReg) (l : La)
  /-- R301. Writes back dirty bytes of named lines to the slice or host. -/
  | cwb (x : VReg) (b : BReg) (l : La)
  /-- R301. Writes back and drops named lines. -/
  | cinv (x : VReg) (b : BReg) (l : La)
  /-- R302. Drops named lines from the job's instruction and constant caches after earlier CWBs. -/
  | iinv (x : VReg) (b : BReg) (l : La)
  /-- R293. Loads a buffer record from the handle table with checks. -/
  | ldb (d : BReg) (x : SReg) (l : La)
  /-- R294. Derives a narrower record from a source record. -/
  | mkb (d : BReg) (x : SReg) (b : BReg) (l : La)
  /-- R295. Copies a buffer record into four scalars. -/
  | brd (d : SReg) (b : BReg) (l : La)
  /-- R305. Quantises 16-lane groups into SB3 blocks and stores them. -/
  | vqntSb3 (d : VReg) (x : VReg) (b : BReg) (l : La)
  /-- R305. Quantises into SB5 blocks. -/
  | vqntSb5 (d : VReg) (x : VReg) (b : BReg) (l : La)
  /-- R305. Quantises into SB8 blocks. -/
  | vqntSb8 (d : VReg) (x : VReg) (b : BReg) (l : La)
  /-- R306. Converts each lane's F32 to an E4M3 byte in memory. -/
  | vqntE4m3 (d : VReg) (x : VReg) (b : BReg) (l : La)
  /-- R306. Converts each lane's F32 to an E5M2 byte in memory. -/
  | vqntE5m2 (d : VReg) (x : VReg) (b : BReg) (l : La)
  /-- R305. Dequantises SB3 blocks into F32 lanes. -/
  | vdqSb3 (d : VReg) (x : VReg) (b : BReg) (l : La)
  /-- R305. Dequantises SB5 blocks. -/
  | vdqSb5 (d : VReg) (x : VReg) (b : BReg) (l : La)
  /-- R305. Dequantises SB8 blocks. -/
  | vdqSb8 (d : VReg) (x : VReg) (b : BReg) (l : La)
  /-- R306. Loads E4M3 bytes as exact F32. -/
  | vdqE4m3 (d : VReg) (x : VReg) (b : BReg) (l : La)
  /-- R306. Loads E5M2 bytes as exact F32. -/
  | vdqE5m2 (d : VReg) (x : VReg) (b : BReg) (l : La)
  /-- R307. Orders accesses by kind and scope, draining or self-invalidating as needed. -/
  | fence (k : Fin 4) (s : Fin 8)
  /-- R303. Waits for earlier IINVs and discards the fetch buffer. -/
  | fbar
  /-- R309. Atomic add at the home slice or bank, returning the old value. -/
  | atomAdd (d : VReg) (x : VReg) (b : BReg) (l : La)
  /-- R309. Atomic minimum. -/
  | atomMin (d : VReg) (x : VReg) (b : BReg) (l : La)
  /-- R309. Atomic maximum. -/
  | atomMax (d : VReg) (x : VReg) (b : BReg) (l : La)
  /-- R309. Atomic AND. -/
  | atomAnd (d : VReg) (x : VReg) (b : BReg) (l : La)
  /-- R309. Atomic OR. -/
  | atomOr (d : VReg) (x : VReg) (b : BReg) (l : La)
  /-- R309. Atomic XOR. -/
  | atomXor (d : VReg) (x : VReg) (b : BReg) (l : La)
  /-- R309. Atomic exchange. -/
  | atomXchg (d : VReg) (x : VReg) (b : BReg) (l : La)
  /-- R309. Atomic floating-point add, RNE. -/
  | atomFadd (d : VReg) (x : VReg) (b : BReg) (l : La)
  /-- R310. Atomic add with acquire at PACKAGE scope. -/
  | atomaAdd (d : VReg) (x : VReg) (b : BReg) (l : La)
  /-- R310. Acquire atomic minimum. -/
  | atomaMin (d : VReg) (x : VReg) (b : BReg) (l : La)
  /-- R310. Acquire atomic maximum. -/
  | atomaMax (d : VReg) (x : VReg) (b : BReg) (l : La)
  /-- R310. Acquire atomic AND. -/
  | atomaAnd (d : VReg) (x : VReg) (b : BReg) (l : La)
  /-- R310. Acquire atomic OR. -/
  | atomaOr (d : VReg) (x : VReg) (b : BReg) (l : La)
  /-- R310. Acquire atomic XOR. -/
  | atomaXor (d : VReg) (x : VReg) (b : BReg) (l : La)
  /-- R310. Acquire atomic exchange. -/
  | atomaXchg (d : VReg) (x : VReg) (b : BReg) (l : La)
  /-- R310. Acquire atomic floating-point add. -/
  | atomaFadd (d : VReg) (x : VReg) (b : BReg) (l : La)
  /-- R310. Atomic add with release at PACKAGE scope. -/
  | atomlAdd (d : VReg) (x : VReg) (b : BReg) (l : La)
  /-- R310. Release atomic minimum. -/
  | atomlMin (d : VReg) (x : VReg) (b : BReg) (l : La)
  /-- R310. Release atomic maximum. -/
  | atomlMax (d : VReg) (x : VReg) (b : BReg) (l : La)
  /-- R310. Release atomic AND. -/
  | atomlAnd (d : VReg) (x : VReg) (b : BReg) (l : La)
  /-- R310. Release atomic OR. -/
  | atomlOr (d : VReg) (x : VReg) (b : BReg) (l : La)
  /-- R310. Release atomic XOR. -/
  | atomlXor (d : VReg) (x : VReg) (b : BReg) (l : La)
  /-- R310. Release atomic exchange. -/
  | atomlXchg (d : VReg) (x : VReg) (b : BReg) (l : La)
  /-- R310. Release atomic floating-point add. -/
  | atomlFadd (d : VReg) (x : VReg) (b : BReg) (l : La)
  /-- R309. Atomic compare-and-swap with acquire and release, returning value and success flag. -/
  | acas (d : VReg) (x : VReg) (b : BReg) (l : La)
  /-- R310. Atomic add returning nothing. -/
  | aredAdd (d : VReg) (x : VReg) (b : BReg) (l : La)
  /-- R310. Reduction atomic minimum. -/
  | aredMin (d : VReg) (x : VReg) (b : BReg) (l : La)
  /-- R310. Reduction atomic maximum. -/
  | aredMax (d : VReg) (x : VReg) (b : BReg) (l : La)
  /-- R310. Reduction atomic AND. -/
  | aredAnd (d : VReg) (x : VReg) (b : BReg) (l : La)
  /-- R310. Reduction atomic OR. -/
  | aredOr (d : VReg) (x : VReg) (b : BReg) (l : La)
  /-- R310. Reduction atomic XOR. -/
  | aredXor (d : VReg) (x : VReg) (b : BReg) (l : La)
  /-- R310. Reduction atomic exchange. -/
  | aredXchg (d : VReg) (x : VReg) (b : BReg) (l : La)
  /-- R310. Reduction atomic floating-point add. -/
  | aredFadd (d : VReg) (x : VReg) (b : BReg) (l : La)
  /-- R312. Arrives at a hardware barrier and sleeps until its phase completes. -/
  | bar (l : Fin 8) (k : Fin 128)
  /-- R312. Arrives at a barrier without sleeping. -/
  | bara (l : Fin 8) (k : Fin 128)
  /-- R312. Waits for the phase of the warp's latest arrival. -/
  | barw (l : Fin 8) (k : Fin 128)
  /-- R313. Adds expected bytes to a barrier's open phase. -/
  | barx (a : SReg) (l : Fin 8) (k : Fin 128)
  /-- R313. Sets a barrier's expected arrivals and clears its byte counts. -/
  | barinit (a : SReg) (l : Fin 8) (k : Fin 128)
  /-- R314. Allocates a free team barrier with a member mask. -/
  | baralloc (d : SReg) (a : SReg)
  /-- R314. Returns an allocated team barrier to the pool unless busy. -/
  | barfree (d : SReg) (k : Fin 128)
  /-- R315. Memory-barrier arrive and wait on a global cell. -/
  | barmAw (a : SReg)
  /-- R315. Memory-barrier arrive without waiting. -/
  | barmArrive (a : SReg)
  /-- R315. Memory-barrier wait for the phase. -/
  | barmWait (a : SReg)
  /-- R315. Memory-barrier add expected bytes. -/
  | barmBytes (a : SReg)
  /-- R315. Memory-barrier initialise. -/
  | barmInit (a : SReg)
  /-- R316. Synchronises the listed lanes of one warp. -/
  | wsync (a : VReg)
  /-- R317. Arms the warp's watch on one line at TEAM scope. -/
  | monTeam (x : VReg) (b : BReg) (l : La)
  /-- R317. Arms a watch at CLUSTER scope. -/
  | monCluster (x : VReg) (b : BReg) (l : La)
  /-- R317. Arms a watch at DIE scope. -/
  | monDie (x : VReg) (b : BReg) (l : La)
  /-- R317. Arms a watch at PACKAGE scope. -/
  | monPackage (x : VReg) (b : BReg) (l : La)
  /-- R317. Arms a watch at GROUP scope. -/
  | monGroup (x : VReg) (b : BReg) (l : La)
  /-- R317. Arms a watch at SYSTEM scope. -/
  | monSystem (x : VReg) (b : BReg) (l : La)
  /-- R318. Sleeps until the armed watch fires or a deadline passes and writes the reason. -/
  | mwait (d : SReg) (a : SReg)
  /-- R169. A sleeping MWAIT's deadline passes and it wakes with DEADLINE. -/
  | mwaitDeadline (c : CoreId) (slot : SlotNo)
  /-- R321. Reads a closure, checks it and pushes a task at the bobbin's hot end. -/
  | spawn (d : SReg) (a : BReg) (c : SReg) (l : La)
  /-- R322. Sleeps until a future is full and reads value and status. -/
  | join (d : SReg) (a : BReg) (c : SReg)
  /-- R323. Tests a future without waiting. -/
  | ftest (d : SReg) (a : BReg) (c : SReg) (l : La)
  /-- R324. Fills an empty future from a program or reports it already full. -/
  | ffill (d : SReg) (a : BReg) (c : SReg) (l : La)
  /-- R325. Ends a task: waits for its commands, writes back, fills its future and frees its slot. -/
  | tret (a : SReg)
  /-- R327. Enters a capsule by acquiring, adopting or sleeping on its record. -/
  | center (d : SReg) (a : BReg) (b : SReg)
  /-- R330. Capsule arithmetic on c registers, setting CF. -/
  | calu (d : CReg) (a : CReg) (o : Fin 8) (c : CReg)
  /-- R329. Moves a scalar into a capsule register (form 0). -/
  | cmovCs (d : CReg) (a : SReg)
  /-- R329. Moves a capsule register into a scalar (form 1). -/
  | cmovSc (d : SReg) (a : CReg)
  /-- R329. Moves between capsule registers (form 2). -/
  | cmovCc (d : CReg) (a : CReg)
  /-- R329. Loads a sign-extended 12-bit immediate into a capsule register (form 3). -/
  | cmovCi (d : CReg) (i : BitVec 7) (j : BitVec 5)
  /-- R331. Capsule load, from the pending store or as an acquire at the home slice. -/
  | cld (d : CReg) (a : CReg) (w : Fin 4)
  /-- R331. Sets the capsule's pending store without writing memory. -/
  | cst (a : CReg) (w : Fin 4) (v : CReg)
  /-- R332. Capsule forward branch on CF. -/
  | cbr (i : BitVec 25)
  /-- R333. Commits a capsule step at the record's home slice. -/
  | cstep
  /-- R333. Commits the last step and ends the capsule instance. -/
  | cend
  /-- R333. Aborts the capsule instance. -/
  | cabort
  /-- R176. The home slice handles a CENTER acquire request on a capsule record. -/
  | capsuleAcquire (c : CoreId) (slot : SlotNo) (rec save : BitVec 64)
  /-- R177. The owner's core answers a liveness probe as live, gone or foreign. -/
  | capsuleProbe (c : CoreId) (slot : SlotNo)
  /-- R177. The contender receives the probe reply and sleeps or requests adoption. -/
  | capsuleProbeReply (c : CoreId) (slot : SlotNo)
  /-- R176. The home slice grants or refuses an adoption request. -/
  | capsuleAdopt (c : CoreId) (slot : SlotNo)
  /-- R176. The home slice sets an adopted record back to HELD. -/
  | capsuleAdoptionComplete (c : CoreId) (slot : SlotNo)
  /-- R176. The home slice accepts or refuses a CSTEP commit. -/
  | capsuleCommit (c : CoreId) (slot : SlotNo)
  /-- R176. The home slice commits a CEND, delivers to displaced owners and frees the record. -/
  | capsuleEnd (c : CoreId) (slot : SlotNo)
  /-- R176. The home slice handles a CABORT, delivering status 2 and freeing the record. -/
  | capsuleAbortRequest (c : CoreId) (slot : SlotNo)
  /-- R177. A notice that an owner was pre-empted or killed wakes the record's sleepers. -/
  | capsuleDepartureNotice (line : Nat)
  /-- R228. A kill notice ends the instance as CABORT and frees the record. -/
  | capsuleKillNotice (part : PartId) (rec : BitVec 64) (ident : BitVec 48)
  /-- R180. A restored owner's core asks the slice to rebind OWNER to its new identity. -/
  | capsuleRebind (c : CoreId) (slot : SlotNo)
  /-- R337. Issues a tensor copy engine command. -/
  | shcopy (d : SReg) (a : BReg) (c : SReg) (l : La)
  /-- R340. Issues a row gather engine command. -/
  | shgath (d : SReg) (a : BReg) (c : SReg) (l : La)
  /-- R340. Issues a row scatter engine command. -/
  | shscat (d : SReg) (a : BReg) (c : SReg) (l : La)
  /-- R338. Issues a cluster multicast to core scratchpads. -/
  | shmcast (d : SReg) (a : BReg) (c : SReg) (l : La)
  /-- R341. Cancels one of the warp's engine commands at the next chunk boundary. -/
  | shcan (d : SReg) (a : SReg) (l : La)
  /-- R341. Returns a command's status and completed chunks. -/
  | shqry (d : SReg) (a : SReg) (l : La)
  /-- R339. Issues a transfer to another package's record. -/
  | shput (d : SReg) (a : BReg) (c : SReg) (l : La)
  /-- R339. Issues a transfer from another package's record. -/
  | shget (d : SReg) (a : BReg) (c : SReg) (l : La)
  /-- R344. Issues a matrix multiply-accumulate into accumulator registers. -/
  | mma (a : VReg) (f : VReg) (p : SReg) (z : Bool) (l : La)
  /-- R345. The reservation table grants an MMA a pass of the cluster's matrix engine. -/
  | mmaPass (k : ClusterId)
  /-- R345. An MMA's results are written and its reservation entry freed. -/
  | mmaComplete (k : ClusterId)
  /-- R347. Issues an in-stack matrix-vector product command. -/
  | nmv (d : SReg) (a : BReg) (c : SReg) (l : La)
  /-- R106. An engine command checks handle generations and writes one 4 KiB chunk, possibly ending the command. -/
  | engineChunk (c : CoreId) (e : Fin 16)
  /-- R339. A remote package receives and checks an SHPUT or SHGET chunk. -/
  | remoteChunk (req : RemoteReq)
  /-- R121. At tick P an incomplete command is marked missed and given a new promise. -/
  | promiseExpiry (c : CoreId) (e : Fin 16)
  /-- R137. A long-latency instruction completes, writes its destinations and closes its window. -/
  | longLatencyComplete (c : CoreId) (n : Nat)
  /-- R36. A warp whose wait count reaches 256 is promoted to effective priority 4. -/
  | warpPromotion (c : CoreId) (slot : SlotNo)
  /-- R46. After 16 scored completions the power controller steps cluster clocks and clears scores. -/
  | clockBalance (part : PartId)
  /-- R46. A requested cluster clock change takes effect. -/
  | clusterClockChange (k : ClusterId)
  /-- R353. A die's distributor starts an unstarted team on the chosen core once resources are free. -/
  | distributorStartTeam (d : DieId) (j : Nat)
  /-- R84. An idle distributor requests an unstarted team from another die's distributor. -/
  | teamRequest (d : DieId) (j : Nat)
  /-- R61. A watched readiness line changes and the monitor re-reads the tags of its entries. -/
  | readinessMonitorRead (c : CoreId) (line : Nat)
  /-- R63. A ready task's operands are checked and its range entries admitted, or it fails or waits. -/
  | taskAdmission (c : CoreId) (n : Nat)
  /-- R72. The ORIGIN core's dirty lines at SPAWN are written back before staging reads. -/
  | snapshotDrain (c : CoreId) (n : Nat)
  /-- R70. A task obtains staging lines first-fit or ends with STAGE_SIZE. -/
  | stagingAllocate (c : CoreId) (n : Nat)
  /-- R71. The shuttle stages one 4 KiB chunk of a task operand, making the task READY after the last. -/
  | stagingChunk (c : CoreId) (n : Nat)
  /-- R73. A cancelled staging's last chunk in flight completes and its lines are freed. -/
  | stagingCancelComplete (c : CoreId)
  /-- R93. One chunk of a read-write operand is written back at task end. -/
  | writebackChunk (c : CoreId) (slot : SlotNo)
  /-- R77. The hottest spilled entry moves into the inline entries. -/
  | bobbinRefill (c : CoreId)
  /-- R78. The owner dispatches the hottest READY entry into a free task slot. -/
  | taskDispatch (c : CoreId)
  /-- R79. An idle core reserves a slot and sends a steal probe to the next victim. -/
  | stealProbe (c : CoreId)
  /-- R80. A victim's bobbin selects and removes an entry for a thief or replies empty. -/
  | stealRequest (c : CoreId)
  /-- R82. A thief receives a stolen entry or an empty reply. -/
  | stealReply (c : CoreId)
  /-- R82. The 512-tick wait after a failed sweep ends and probing resumes. -/
  | stealSweepWaitExpiry (c : CoreId)
  /-- R85. When all warps, tasks and bobbins are done the job's cores are drained. -/
  | jobEnd (j : Nat)
  /-- R446. After the drains complete the job's end is recorded and its status written. -/
  | jobEndRecord (j : Nat)
  /-- R99. An L1 evicts a line, writing its dirty bytes to the slice. -/
  | l1Eviction (c : CoreId) (line : Nat)
  /-- R143. A die L2 evicts a dirty line and sends its write-back. -/
  | l2Eviction (d : DieId) (line : Nat)
  /-- R143. The home acknowledges a write-back and the evicting cache stops answering snoops. -/
  | writebackAck (d : DieId) (line : Nat)
  /-- R140. A slice receives a heddle snoop and drains recorded cores before the line leaves. -/
  | heddleSnoop (d : DieId) (line : Nat)
  /-- R414. A heddle die handles a coherence request for a line held beyond its home die. -/
  | directoryRequest (q : Requester) (line : Nat) (write : Bool)
  /-- R415. A recall's holders acknowledge and the waiting request proceeds. -/
  | recallComplete (h : Fin 2)
  /-- R415. A recall unanswered for 50 µs puts the region in broadcast mode. -/
  | recallTimeout (h : Fin 2)
  /-- R415. The 1 ms sweep returns broadcast regions to normal mode. -/
  | overflowSweep
  /-- R417. A heddle die is lost and traffic moves to the survivor. -/
  | heddleDieLoss (h : Fin 2)
  /-- R417. A request outstanding at a lost die for 20 µs is resent through the survivor. -/
  | requestResend (d : DieId)
  /-- R417. The directory rebuild completes and DEGRADED is set. -/
  | directoryRebuildComplete
  /-- R418. A port loses lock or fails 16 replays and its traffic moves to other ports. -/
  | scaskaxonPortDown (port : Fin 16)
  /-- R419. A member unreachable for 1 ms is dropped and its held lines poisoned. -/
  | memberUnreachable (pos : Fin 8)
  /-- R123. Scrubbing reads and corrects lines of a stack or scratchpad. -/
  | scrubPass (corrected : Nat) (bad : List Nat)
  /-- R406. A page walk completes, translating or ending in a fault. -/
  | pageWalk (part : PartId) (host : Bool) (va : BitVec 64) (kind : AccessKind) (c : CoreId)
  /-- R221. A page entering the cluster stage is sent as a record to the fault queue when there is room. -/
  | faultRecordSend (part : PartId) (k : Nat)
  /-- R222. A resolved reply wakes the fault's waiters, which replay. -/
  | faultReplyResolved (part : PartId) (num : BitVec 62)
  /-- R222. An unresolvable reply ends the fault's waiters in deferred traps or fault statuses. -/
  | faultReplyUnresolvable (part : PartId) (num : BitVec 62)
  /-- R215. The oldest pending origin of a cause has waited 64 cycles. -/
  | originAgeExpiry (c : CoreId)
  /-- R229. A context's watchdog window passes without a pulse and pre-emption begins. -/
  | watchdogExpiry (j : Nat)
  /-- R223. The context image is written and the slots are freed. -/
  | preemptionComplete (j : Nat)
  /-- R226. Once enough clusters are free the image's clusters are mapped onto them. -/
  | restorePlace (part : PartId) (q : QueueNo)
  /-- R227. Every loaded unit resumes at once with advanced generations. -/
  | restoreResume (part : PartId) (q : QueueNo)
  /-- R385. Setting FE_QCTL.EN enables a queue when LOG2SZ is valid. -/
  | queueEnable (part : PartId) (q : QueueNo) (v : BitVec 64)
  /-- R389. Clearing FE_QCTL.EN disables a queue so it can be reset. -/
  | queueDisable (part : PartId) (q : QueueNo)
  /-- R387. A write index write is refused, merged or discarded wrap-aware. -/
  | feQwidxWrite (part : PartId) (q : QueueNo) (n : BitVec 32)
  /-- R385. A read index write while disabled sets both indices. -/
  | feQridxWrite (part : PartId) (q : QueueNo) (n : BitVec 32)
  /-- R386. FE_JCMD OP 1 pre-empts a job. -/
  | jobPreempt (part : PartId) (job : BitVec 32)
  /-- R359. FE_JCMD OP 2 pre-empts one die of a job as its own context. -/
  | jobPreemptDie (part : PartId) (job : BitVec 32) (d : DieId)
  /-- R228. FE_JCMD OP 3 kills a job. -/
  | jobKill (part : PartId) (job : BitVec 32)
  /-- R394. A LAUNCH packet's job record is checked and the job registered or rejected. -/
  | launch (part : PartId) (q : QueueNo)
  /-- R397. A RESUME packet checks an image and begins its restore. -/
  | resume (part : PartId) (q : QueueNo)
  /-- R391. A WAITW packet holds its queue until a word meets a condition. -/
  | waitw (part : PartId) (q : QueueNo)
  /-- R391. A WAITW's timeout passes and the queue stops. -/
  | waitwTimeout (part : PartId) (q : QueueNo)
  /-- R392. A SIGNAL packet performs its signal operation at the home slice. -/
  | signal (part : PartId) (q : QueueNo)
  /-- R402. A COPY packet starts a front-end copy. -/
  | copy (part : PartId) (q : QueueNo)
  /-- R402. A front-end copy writes its last byte and completes. -/
  | copyComplete (part : PartId) (q : QueueNo)
  /-- R401. A TIMED packet sets the trigger for the packet after it. -/
  | timed (part : PartId) (q : QueueNo)
  /-- R401. At trigger minus FE_TLEAD the following packet is prepared. -/
  | timedPrepare (part : PartId) (q : QueueNo)
  /-- R401. At the trigger the prepared packet is released, or dropped or released late. -/
  | timedRelease (part : PartId) (q : QueueNo)
  /-- R401. Prepared warps first issue at release plus FE_TDELAY. -/
  | timedFirstIssue (part : PartId) (q : QueueNo)
  /-- R390. A FENCE packet completes when every earlier packet of its queue has completed. -/
  | fencePacket (part : PartId) (q : QueueNo)
  /-- R390. A MARK packet writes its record. -/
  | mark (part : PartId) (q : QueueNo)
  /-- R398. While the head is blocked the front end parses and prefetches later packets. -/
  | lookaheadParse (part : PartId) (q : QueueNo)
  /-- R399. A waiting queue is admitted to an active slot. -/
  | queueSlotAdmit (part : PartId) (q : QueueNo)
  /-- R400. A write of FE_TAISET steps or slews the TAI counter. -/
  | taiSet (ns : BitVec 64)
  /-- R400. Every PTMPER ms the front end issues a PTM request. -/
  | ptmRequest
  /-- R400. A PTM result is taken as an offset sample for the discipline. -/
  | ptmSample (off : Int)
  /-- R400. A 1PPS edge is taken as a sample and FE_PPSSEC advances. -/
  | ppsEdge
  /-- R400. No sample for 4 s clears LOCK. -/
  | taiSampleTimeout
  /-- R407. A write of MM_INVAL starts an invalidation of the partition's translations. -/
  | tlbInvalidate (part : PartId) (v : BitVec 64)
  /-- R407. The invalidation completes and BUSY clears. -/
  | invalidationComplete (part : PartId)
  /-- R408. A write of MM_PGINIT starts setting every tag of a physical page. -/
  | pageTagInit (part : PartId) (v : BitVec 64)
  /-- R408. MM_PGINIT completes and PGBUSY clears. -/
  | pageTagInitComplete (part : PartId)
  /-- R410. Setting PT_CTL.EN checks the partition's resources and enables it or records ERR. -/
  | partitionEnable (part : PartId)
  /-- R411. Clearing PT_CTL.EN disables an idle partition and unlocks its RWL fields. -/
  | partitionDisable (part : PartId)
  /-- R412. PT_CTL.RESET starts a partition reset. -/
  | partitionReset (part : PartId)
  /-- R412. The partition reset completes and RSTBUSY clears. -/
  | partitionResetComplete (part : PartId)
  /-- R413. Every 1,024 ticks a die's partition buckets are refilled. -/
  | bucketRefill (d : DieId)
  /-- R418. A write of HD_GROUP forms or reforms the coherence group when no partition is enabled. -/
  | hdGroupWrite (reg : Fin 3) (v : BitVec 64)
  /-- R422. A BAR2 read is performed at the line's home slice. -/
  | bar2Read (fn : FuncId) (off : Nat) (n : Nat)
  /-- R422. A BAR2 write is performed at the line's home slice as a release. -/
  | bar2Write (fn : FuncId) (off : Nat) (bytes : List (BitVec 8))
  /-- R421. A function-level reset resets the function's partition, or all for the physical function. -/
  | functionLevelReset (fn : FuncId)
  /-- R421. The PCIe link goes down; host writes are dropped and partitions keep running. -/
  | pcieLinkDown
  /-- R421. The PCIe link comes up. -/
  | pcieLinkUp
  /-- R423. A host completion returns, acknowledging a CWB of host lines. -/
  | hostCompletion (c : CoreId)
  /-- R429. BT_CMD OP 1 checks a new bundle and writes it to flash. -/
  | bundleUpdate
  /-- R429. The flash write and read-back of a bundle complete. -/
  | updateComplete
  /-- R431. BT_CMD OP 2 starts a signed measurement report. -/
  | measure
  /-- R431. The recovery core writes the signed 256-byte report. -/
  | measurementReport
  /-- R429. BT_CMD OP 3 blows fuses up to the running SVN. -/
  | commitSvn (key : BitVec 16)
  /-- R428. BT_CMD OP 4 starts a package reset. -/
  | packageReset (key : BitVec 16)
  /-- R430. BT_CMD OP 5 supplies a replacement bundle in recovery. -/
  | recoveryBundle
  /-- R427. Power-on starts a package reset. -/
  | powerOn
  /-- R439. The management controller removes module power. -/
  | coldReset
  /-- R426. The ROM checks the flash bundle and proceeds to load or recovery. -/
  | bootVerify
  /-- R427. Firmware configures the treadle, trains HBM4E and PCIe. -/
  | bootLoad (ok : Bool)
  /-- R427. Memory, caches, tags and registers are cleared. -/
  | bootClear
  /-- R427. FE_STAT.READY is set. -/
  | bootReady
  /-- R433. I3C command returning BT_STAT. -/
  | i3cStatus
  /-- R433. I3C command supplying one 4 KiB bundle block. -/
  | i3cImageBlock (num : BitVec 32) (bytes : List (BitVec 8))
  /-- R433. I3C command ending a bundle image and writing it if it passes. -/
  | i3cImageEnd (len : BitVec 32)
  /-- R433. I3C command producing a measurement report. -/
  | i3cMeasure (nonce : List (BitVec 8))
  /-- R433. I3C command resetting the package with the key. -/
  | i3cPackageReset (key : BitVec 16)
  /-- R436. Hourly recomputation of predicted life. -/
  | eolRecompute (trend : List Trend)
  /-- R437. Each 1 ms input-power average is compared with the cap. -/
  | powerSample (vin pin tj : BitVec 16)
  /-- R437. Every 100 µs over cap one cluster is lowered by 50 MHz. -/
  | throttleStep
  /-- R437. Input below 40 V for 1 ms holds the cap at 700 W. -/
  | inputUndervoltage
  /-- R437. Input below 36 V or above 63 V turns off the first stage. -/
  | inputOutOfRange
  /-- R437. A junction at 105 °C lowers that die's clusters. -/
  | thermalThrottle (d : DieId)
  /-- R437. A junction at 125 °C turns off the core rails. -/
  | thermalShutdown
  /-- R440. The treadle fabric pulses the recovery core every 1 ms. -/
  | feHeartbeat
  /-- R440. 1 s without a pulse sets FEHB and raises vectors. -/
  | heartbeatTimeout
  /-- R440. With AUTORST set, a further 1 s triggers a package reset. -/
  | autoReset
  /-- R10. A write to a device register without a row of its own follows its access codes. -/
  | registerWrite (fn : FuncId) (off : Nat) (v : BitVec 64)
  /-- R418. A Scaskaxon port gains lock and comes up, so traffic to the members that it reaches spreads over it again and
  HD_LINK.PORTS shows it. -/
  | scaskaxonPortUp (port : PortUp)
  /-- R418. A received flit fails its CRC and the port replays it, counting consecutive failed replays toward the 16 that take the port down. -/
  | linkLevelReplay (port : Fin 16) (ok : Bool)
  /-- R437. Once the input has held at or above 40 V for 1 s, the 700 W cap hold ends and UNDERV clears. -/
  | inputVoltageHeld
  /-- R401. Preparation of a timed packet completes, and under POLICY 0 a packet already past its trigger is released late at that moment. -/
  | timedPreparationComplete (part : PartId) (q : QueueNo)
  deriving DecidableEq, Repr

end Sys2Proof
end

