-- ==== Sys2Proof/Machine/State.lean ====
section
/-! DEFINITION. Everything the spec gives the machine, as plain data. -/

namespace Sys2Proof.Machine

/-- The states of a warp slot (R28). SAVED is the state of a slot in a context image (`SavedSlot`); the
slot itself is then FREE. -/
inductive SlotState where
  | free | active | asleep | held | saved
  deriving DecidableEq, Repr

/-- An entry of the reconvergence stack (R39). -/
structure StkEntry where
  rpc : W64 := 0
  saved : W64 := 0
  psaved : W64 := 0
  ptgt : W64 := 0
  pmask : W64 := 0
  pvalid : Bool := false
  deriving DecidableEq, Repr

/-- The registers of a warp that programs name (R16, R17, R101). Unlisted registers hold zero; s0 is never
listed (R2). A predicate is a mask of lanes. -/
structure Regs where
  /-- s0 to s63 -/
  s : FMap W64 := []
  /-- lane `l` of v`k` at key 64 * k + l -/
  v : FMap W32 := []
  /-- p1 to p7, bit l for lane l; p0 is true in every lane (R2) -/
  p : FMap W64 := []
  /-- b0 to b15, 32 bytes each (R101) -/
  b : FMap (BitVec 256) := []
  /-- c0 to c15 -/
  c : FMap W64 := []
  deriving DecidableEq, Repr

/-- What a warp is, fixed at its start (R17, R22, R30 to R34). -/
structure Ident where
  /-- partition of the job (R33) -/
  part : Nat := 0
  /-- the job's number in `State.jobs` -/
  job : Nat := 0
  /-- W, the job's lanes per warp (R17) -/
  width : Nat := 16
  /-- 0 loader, 1 computer, 2 storer, 3 task (R22) -/
  role : BitVec 2 := 0
  /-- allotment code (R22) -/
  allot : BitVec 2 := 0
  /-- the role's priority (R22) -/
  prio : BitVec 2 := 0
  /-- a handler warp (R214) -/
  handler : Bool := false
  /-- a task warp (R21) -/
  task : Bool := false
  /-- index in the team (R31) -/
  twarp : Nat := 0
  /-- warps in the team minus one (R31) -/
  twn : Nat := 0
  /-- the team spans a pair of cores (R18) -/
  pair : Bool := false
  /-- cr.team (R32) -/
  team : W64 := 0
  /-- cr.grid (R32) -/
  grid : W64 := 0
  /-- linear index t of the team (R20), which names the team on its core -/
  teamIdx : Nat := 0
  deriving DecidableEq, Repr

/-- Control state of a warp: pc, mode, masks and divergence (R17, R39, R237, R36). -/
structure Ctl where
  pc : W64 := 0
  wmode : W64 := 0
  exec : W64 := 0
  live : W64 := 0
  path : W64 := 0
  /-- reconvergence stack, top entry first -/
  stk : List StkEntry := []
  /-- the lanes with which the instruction at pc is executed once after a trap (R218) -/
  reexec : Option W64 := none
  /-- lanes of a full/empty operation that are already performed (R204, R297) -/
  done : W64 := 0
  /-- wait count (R36) -/
  wait : Nat := 0
  /-- promoted to effective priority 4 (R36) -/
  promo : Bool := false
  deriving DecidableEq, Repr

/-- Status registers of a warp. -/
structure Stat where
  /-- cr.fstat bits 4:0 (R194) -/
  fstat : BitVec 5 := 0
  /-- cr.mstat (R126) -/
  mstat : W64 := 0
  /-- cr.qstat bits 3:0 (R197) -/
  qstat : BitVec 4 := 0
  /-- cr.rseed bits 31:0 (R190) -/
  rseed : BitVec 32 := 0
  /-- RSR generator state per lane (R189); a lane unlisted holds the state that seed 0 gives (R190) -/
  gen : FMap W32 := []
  deriving DecidableEq, Repr

/-- The trap record of one lane (R209). -/
structure TrapRec where
  cause : Byte := 0
  sub : Byte := 0
  lane : Nat := 0
  defer : Bool := false
  word : W32 := 0
  pc : W64 := 0
  cont : W64 := 0
  d0 : W64 := 0
  d1 : W64 := 0
  d2 : W64 := 0
  tick : W64 := 0
  mask : W64 := 0
  deriving DecidableEq, Repr

/-- What a handler did with an origin lane (R217). -/
inductive Resolution where
  | resume | skip | kill
  deriving DecidableEq, Repr

/-- A page that an access waits for (R220, R221). -/
structure PageReq where
  /-- number of the 4 KiB virtual or bus page -/
  page : Nat := 0
  /-- a page of host space (R97) -/
  host : Bool := false
  kind : AccessKind := .read
  /-- the page is present and its permissions refuse the access -/
  perm : Bool := false
  /-- the lanes whose lines lie on the page -/
  lanes : W64 := 0
  /-- it has entered the filters (R221) -/
  filed : Bool := false
  /-- the tick of the fault, when it was first offered to the filters (R92) -/
  tick : Nat := 0
  /-- the faulting virtual address: the first byte of the access that lies on the page (R92, R209) -/
  va : Nat := 0
  deriving DecidableEq, Repr

/-- A long-latency instruction as its operand-log entry holds it: which operation, and the registers that
its word names (R219, R239). Values 0 to 7 number the fn values of the group (R245). -/
inductive LongOp where
  | load (fn : Fin 7) (d x : VReg) (b : BReg)
  | store (fn : Fin 5) (d x : VReg) (b : BReg)
  | lda (scope : Fin 6) (d x : VReg) (b : BReg)
  | stl (scope : Fin 6) (d x : VReg) (b : BReg)
  /-- LDFE, LDFF, STFE, STFF -/
  | word (fn : Fin 4) (d x : VReg) (b : BReg)
  | tagrd (d x : VReg) (b : BReg)
  | tagwr (d x : VReg) (b : BReg)
  /-- LDC, STP -/
  | line (fn : Fin 2) (d x : VReg) (b : BReg)
  | lnrd (d x : VReg) (b : BReg)
  | lnwr (d x : VReg) (b : BReg)
  /-- PREF, CWB, CINV, IINV -/
  | cache (fn : Fin 4) (x : VReg) (b : BReg)
  | ldb (d : BReg) (x : SReg)
  | mkb (d : BReg) (x : SReg) (b : BReg)
  | brd (d : SReg) (b : BReg)
  | vqnt (fn : Fin 5) (d x : VReg) (b : BReg)
  | vdq (fn : Fin 5) (d x : VReg) (b : BReg)
  /-- group 0 ATOM, 1 ATOMA, 2 ATOML, 3 ARED -/
  | atom (group : Fin 4) (fn : Fin 8) (d x : VReg) (b : BReg)
  | acas (d x : VReg) (b : BReg)
  | mon (scope : Fin 6) (x : VReg) (b : BReg)
  | barm (fn : Fin 5) (a : SReg)
  | spawn (d : SReg) (a : BReg) (c : SReg)
  | join (d : SReg) (a : BReg) (c : SReg)
  | ftest (d : SReg) (a : BReg) (c : SReg)
  | ffill (d : SReg) (a : BReg) (c : SReg)
  | tret (a : SReg)
  /-- SHCOPY, SHGATH, SHSCAT, SHMCAST, SHPUT, SHGET, NMV -/
  | command (fn : Fin 7) (d : SReg) (a : BReg) (c : SReg)
  | shcan (d a : SReg)
  | shqry (d a : SReg)
  | center (d : SReg) (a : BReg) (b : SReg)
  | mma (a f : VReg) (p : SReg) (z : Bool)
  deriving DecidableEq, Repr

/-- An operand-log entry (R219): a long-latency instruction that has issued and is not complete. -/
structure LogEntry where
  /-- number of the entry in its warp, counting issues -/
  num : Nat := 0
  op : LongOp := .load 0 0 0 0
  word : W32 := 0
  pc : W64 := 0
  wmode : W64 := 0
  /-- active lanes -/
  active : W64 := 0
  /-- lanes of a full/empty operation already performed (R204) -/
  done : W64 := 0
  /-- the warp's registers at issue, from which the instruction's operands are read (R241) -/
  regs : Regs := {}
  la : Nat := 0
  /-- instructions of the window issued so far (R240) -/
  used : Nat := 0
  /-- pages waited for; none when the entry is only late (R137) -/
  pages : List PageReq := []
  /-- a page was declared unresolvable: the SUB and lanes of the deferred trap, and the faulting address (R222) -/
  dead : Option (Nat × W64 × Nat) := none
  /-- replayed after a resolved fault, so a failed check is a deferred trap (R203) -/
  replay : Bool := false
  /-- the RSR generators as they stood at issue (R189) -/
  gen : FMap W32 := []
  deriving DecidableEq, Repr

/-- The latest trap of a warp and what became of its lanes (R205, R210 to R212, R217, R218). -/
structure Trapped where
  /-- cr.trapmask -/
  mask : W64 := 0
  /-- cr.trappc -/
  pc : W64 := 0
  cause : Byte := 0
  sub : Byte := 0
  defer : Bool := false
  /-- continue PC (R204) -/
  cont : W64 := 0
  /-- the trapping instruction is warp-uniform (R258) -/
  uniform : Bool := false
  /-- lanes active at the trap (R218) -/
  active : W64 := 0
  /-- trap records by lane (R209) -/
  recs : FMap TrapRec := []
  /-- resolutions by lane -/
  res : FMap Resolution := []
  /-- the logged instruction of a deferred trap -/
  entry : Option LogEntry := none
  deriving DecidableEq, Repr

/-- The origin that a handler lane carries (R213), and where it is. -/
structure Origin where
  lane : Nat := 0
  slot : Nat := 0
  sgen : BitVec 21 := 0
  deriving DecidableEq, Repr

/-- A result of the divide unit that is not yet written (R277). -/
structure FdsqResult where
  /-- the elements it writes, as keys 64 * register + lane -/
  keys : List Nat := []
  /-- their values; an unlisted one is zero -/
  vals : FMap W32 := []
  /-- the destination registers -/
  dests : List Nat := []
  exc : BitVec 5 := 0
  deriving DecidableEq, Repr

/-- A hardware barrier (R156): a team barrier in a core's pool by 128 * team + number, a cluster barrier of a
job by cluster and number, a grid barrier of a job. -/
inductive BarRef where
  | team (core key : Nat)
  | cluster (job k n : Nat)
  | grid (job n : Nat)
  deriving DecidableEq, Repr

/-- State of a hardware barrier (R158). -/
structure Barrier where
  /-- team barriers: members by team-warp index -/
  memb : BitVec 128 := 0
  exp : Nat := 0
  arr : Nat := 0
  /-- team barriers: members that have arrived in the open phase -/
  amask : BitVec 128 := 0
  bexp : Nat := 0
  barr : Nat := 0
  ph : Bool := false
  ovf : Bool := false
  /-- the slots whose arrivals the open phase has counted, in the order in which it counted them (R45) -/
  arrs : List Nat := []
  deriving DecidableEq, Repr

/-- The watch of a warp (R168, R169). -/
inductive WatchState where
  | armed | fired | lost
  deriving DecidableEq, Repr

structure Watch where
  line : Nat := 0
  scope : Nat := 0
  st : WatchState := .armed
  /-- order of registration -/
  seq : Nat := 0
  /-- the page's tree (host?), an address in it, and the entry that translated it, for R169 -/
  host : Bool := false
  va : Nat := 0
  entry : Option W64 := none
  deriving DecidableEq, Repr

/-- What a sleeping warp waits for (R28, R44). -/
inductive Wait where
  | none
  /-- a barrier's phase; `held` when its arrival is still to be counted, `waits` when it then waits for the
  phase that it counts in; `ph` the phase it waits for the end of (R159, R160) -/
  | barrier (b : BarRef) (held waits ph : Bool)
  /-- a barrier cell's PH differs from the value at the arrival (R165) -/
  | cell (va : Nat) (ph : Bool)
  /-- the armed watch fires or the deadline passes; scalar d receives the reason (R169) -/
  | watch (d : Nat) (deadline : W64)
  /-- a tick; the word of the WAITT (R170) -/
  | tick (deadline : W64) (word : W32)
  /-- a task's end: write-back and fill (R325) -/
  | finish
  /-- JOIN: the status word's tag of the cell at an address becomes full (R87) -/
  | future (va : Nat)
  /-- CENTER: OWNER or STATE of a record differs from what it was, or a notice of departure comes (R177) -/
  | record (va lock : Nat)
  /-- CENTER, whose record and save area these are; the warp is ACTIVE and its answer is on its way: 0 acquire requested,
  1 owner probed, 2 live, 3 gone, 4 foreign, 5 adoption requested, 6 adopted; with OWNER and STATE as they were read, and
  the destination (R177) -/
  | contend (phase lock : Nat) (rec save : W64) (d : Nat)
  /-- CSTEP 0, CEND 1 or CABORT 2 of an ACTIVE warp: requested, or accepted with its intent still to be applied (R176) -/
  | commit (op : Nat) (accepted : Bool)
  /-- a displaced owner waits for its save area (R179) -/
  | area (va : W64)
  /-- SHCAN: the command ends (R341) -/
  | command (id : Nat)
  /-- lanes of a full/empty word operation wait for changes of these lines (R297) -/
  | words (lines : List Nat)
  /-- LDC (`full`) or STP waits for the bit of a scratchpad line; `seq` orders arrivals (R116, R299) -/
  | line (line : Nat) (full : Bool) (seq : Nat)
  deriving DecidableEq, Repr

/-- What the shuttle keeps of one of a warp's 32 latest commands (R335, R341). -/
structure CmdStat where
  id : Nat := 0
  /-- 0 SHCOPY to 6 NMV, as in `Cmd.kind` -/
  kind : Fin 7 := 0
  promise : Nat := 0
  /-- status code; 0 while it runs -/
  code : Nat := 0
  chunks : Nat := 0
  deriving DecidableEq, Repr

/-- States of a task in a bobbin (R59). -/
inductive TaskSt where
  | waiting | staging | ready
  deriving DecidableEq, Repr

/-- A task as a bobbin holds it (R53, R59, R66, R74). -/
structure TaskEntry where
  /-- the model's number of the task -/
  key : Nat := 0
  /-- the closure's 128 bytes, ORIGIN written -/
  line : List Byte := []
  /-- parent number and own admission number (R66); 0 for none -/
  parent : Nat := 0
  adm : Nat := 0
  st : TaskSt := .waiting
  /-- what the monitor's latest read of each readiness word found (R62) -/
  seen : BitVec 4 := 0
  /-- order in which it became ready on its core (R65) -/
  order : Option Nat := none
  /-- operand records read at admission (R63) -/
  recs : List (BitVec 256) := []
  /-- the snapshot drain has run (R72) -/
  drained : Bool := false
  /-- core-space offsets of the staged blocks (R70), once allocated -/
  blocks : List Nat := []
  /-- staging progress: operand, and its chunks written (R71) -/
  op : Nat := 0
  chunk : Nat := 0
  /-- the shuttle entry that stages it, and the place of its staging in the order of commands (R122) -/
  entry : Option Nat := none
  began : Nat := 0
  pages : List PageReq := []
  /-- the request that was declared unresolvable -/
  dead : Option PageReq := none
  /-- steals, saturating at 15, and whether one crossed dies (R95) -/
  nsteal : BitVec 4 := 0
  xdie : Bool := false
  /-- the slot that its thief reserved (R79) -/
  bound : Option Nat := none
  /-- lines that the ORIGIN core held dirty at its SPAWN (R72) -/
  marks : List Nat := []
  deriving DecidableEq, Repr

/-- How a task ends: write-back, then the fill (R93, R325). `unheld`: some destination page does not translate yet, so its
lines are still to be claimed (R122). -/
structure Finish where
  /-- fill the future with this value and status -/
  fill : Bool := true
  unheld : Bool := false
  val : W64 := 0
  status : Nat := 0
  /-- write-back progress: operand, and its chunks written -/
  op : Nat := 0
  chunk : Nat := 0
  pages : List PageReq := []
  /-- the request that was declared unresolvable -/
  dead : Option PageReq := none
  deriving DecidableEq, Repr

/-- The task that a task warp runs (R94, R95). -/
structure RunTask where
  e : TaskEntry := {}
  /-- the core whose bobbin dispatched it -/
  home : Nat := 0
  fin : Option Finish := none
  deriving DecidableEq, Repr

/-- The hidden capsule state of a warp (R173, R326). -/
structure Capsule where
  record : W64 := 0
  save : W64 := 0
  /-- return address -/
  ret : W64 := 0
  /-- CENTER's destination scalar -/
  dest : Nat := 0
  /-- committed steps -/
  step : Nat := 0
  /-- instructions of the current step -/
  count : Nat := 0
  /-- pending store: address, width code, value -/
  store : Option (W64 × Nat × W64) := none
  cf : Bool := false
  /-- first instruction of the code: ENTRY's address -/
  entry : W64 := 0
  /-- lane in which it acts (R174) -/
  lane : Nat := 0
  /-- the record is lost: the warp waits for its save area (R179) -/
  lost : Bool := false
  /-- the identity that the warp had when its context was saved, until the slice has answered its rebind (R180) -/
  rebind : Option Nat := none
  /-- pages that its next access waits for, and that a page was declared unresolvable (R208) -/
  pages : List PageReq := []
  dead : Bool := false
  deriving DecidableEq, Repr

/-- A store through cluster space to another core's scratchpad, or to die space, that its bank has not performed (R148). -/
structure FarStore where
  slot : Nat := 0
  place : Nat := 0
  bytes : List Byte := []
  deriving DecidableEq, Repr

/-- A warp slot, and the warp in it (R26 to R28). -/
structure Warp where
  st : SlotState := .free
  /-- slot generation (R27) -/
  gen : BitVec 21 := 0
  id : Ident := {}
  regs : Regs := {}
  ctl : Ctl := {}
  stat : Stat := {}
  trap : Trapped := {}
  wait : Wait := .none
  /-- the word that it issued last or tries to issue (model) -/
  word : W32 := 0
  /-- the warp's watch (R168) -/
  watch : Option Watch := none
  /-- arrived bits of cluster and of grid barriers, by number (R158) -/
  arrC : BitVec 16 := 0
  arrG : BitVec 16 := 0
  /-- cluster and grid barriers that the warp's team has not joined yet (R161) -/
  lateC : BitVec 16 := 0
  lateG : BitVec 16 := 0
  /-- the task that it runs (R94) -/
  task : Option RunTask := none
  /-- its capsule state, while active (R173), and cr.capst.ADOPT (R328) -/
  cap : Option Capsule := none
  adopted : Bool := false
  /-- the warp's latest commands, newest first (R335) -/
  hist : List CmdStat := []
  /-- cr.shstat (R348) -/
  shstat : W64 := 0
  /-- cr.mxstat.RPL (R350); the log entry of the warp's latest MMA, when it had lanes -/
  mxrpl : Bool := false
  lastMma : Option Nat := none
  /-- stack of the latest NMV's W (R352) -/
  nmvStack : BitVec 3 := 0
  /-- PH of barrier cells at the warp's arrivals since its last wake, by address (R165) -/
  cells : FMap Bool := []
  /-- fetch buffer: lines as they stood before an IINV, each with how many of the next issued words may still be read from
  it; and how many words the latest IINV reaches (R304) -/
  fbuf : List (Nat × List Byte × Nat) := []
  stale : Nat := 0
  /-- pages that the fetch of its next word or literal waits for (R220) -/
  fetch : List PageReq := []
  /-- that page was declared unresolvable: SUB and page -/
  fetchDead : Option (Nat × Nat) := none
  /-- long-latency instructions issued and not complete, oldest first (R219, R240) -/
  log : List LogEntry := []
  /-- number of the next log entry -/
  logNum : Nat := 0
  /-- results of the divide unit not yet written, oldest first -/
  fdsq : List FdsqResult := []
  /-- a handler warp's origins by lane (R213) -/
  origins : FMap Origin := []
  /-- uncorrectable register elements (R445): lane l of v`k` at 64 * k + l, half h of s`k` at 8192 + 2 * k + h -/
  bad : FMap Bool := []
  deriving DecidableEq, Repr

/-- A pending origin of a core (R215). -/
structure PendingOrigin where
  cause : Byte := 0
  origin : Origin := {}
  tick : Nat := 0
  deriving DecidableEq, Repr

/-- The caches of a core (R99, R304, R396). Lines are named by place (see `State.mem`). -/
structure L1 where
  /-- dirty bytes of global and host lines by place -/
  dirty : FMap Byte := []
  /-- clean copies of lines: 128 bytes each -/
  clean : FMap (List Byte) := []
  /-- instruction cache lines (R304) -/
  icache : FMap (List Byte) := []
  /-- constant cache: lines of the job's argument block (R396) -/
  const : FMap (List Byte) := []
  /-- poisoned 8-byte words of dirty bytes (R123, R445) -/
  poison : FMap Bool := []
  /-- bytes of poisoned words that stores have written since (R445) -/
  fresh : FMap Bool := []
  deriving DecidableEq, Repr

/-- An MMA in its cluster's reservation table (R344, R345): the operands are fixed at issue, so the rows that it
will write are held with it. -/
structure MmaEntry where
  core : Nat := 0
  slot : Nat := 0
  sgen : BitVec 21 := 0
  /-- its operand-log entry -/
  num : Nat := 0
  /-- first accumulator register and how many -/
  acc : Nat := 0
  n : Nat := 0
  /-- the warp's effective priority at issue (R345) -/
  prio : Nat := 0
  /-- lanes that take part -/
  lanes : W64 := 0
  /-- the accumulator rows, as keys 64 * register + lane; an unlisted one is zero -/
  rows : FMap W32 := []
  /-- granted a pass of the engine -/
  passed : Bool := false
  deriving DecidableEq, Repr

/-- The fields of a command's descriptor and the records it copied (R334, R336, R340, R346). -/
structure CmdDesc where
  src : BitVec 256 := 0
  dst : BitVec 256 := 0
  idx : BitVec 256 := 0
  /-- element bytes, or row bytes -/
  e : Nat := 1
  soff : Nat := 0
  doff : Nat := 0
  ext : List Nat := []
  sstr : List Int := []
  dstr : List Int := []
  /-- SHMCAST: cores, and the receiving barrier (level, number, cell) -/
  mask : Nat := 0
  level : Nat := 0
  number : Nat := 0
  xword : Nat := 0
  /-- SHPUT, SHGET: remote package, and the offset of the signal word -/
  rpkg : Nat := 0
  sig : Option Nat := none
  /-- rows: index offset, count, pitches -/
  ioff : Nat := 0
  count : Nat := 0
  spitch : Int := 0
  dpitch : Int := 0
  /-- NMV: vectors, accumulate, formats, scales, elements of a row, pitches of W, x and y -/
  nv : Nat := 1
  add : Bool := false
  wfmt : Nat := 0
  xfmt : Nat := 0
  scale : Int := 0
  k : Nat := 16
  wpitch : Nat := 0
  xpitch : Nat := 0
  ypitch : Nat := 0
  yoff : Nat := 0
  deriving DecidableEq, Repr

/-- A command entry of a core's shuttle (R334). -/
structure Cmd where
  /-- 0 SHCOPY, 1 SHGATH, 2 SHSCAT, 3 SHMCAST, 4 SHPUT, 5 SHGET, 6 NMV -/
  kind : Fin 7 := 0
  slot : Nat := 0
  sgen : BitVec 21 := 0
  /-- the issuing warp's identity -/
  ident : Ident := {}
  id : Nat := 0
  promise : Nat := 0
  /-- latest P2 of a missed command (R121) -/
  missed : Option Nat := none
  /-- the tick of its promise has passed before its end, and the miss is counted (R121, R126) -/
  counted : Bool := false
  d : CmdDesc := {}
  /-- the index list, once read (R340) -/
  rows : Option (List Nat) := none
  /-- chunks completed -/
  chunks : Nat := 0
  /-- SHCAN has stopped it (R341) -/
  cancel : Bool := false
  /-- pages that its next chunk waits for -/
  pages : List PageReq := []
  dead : Bool := false
  /-- it has been accepted: its descriptor is read and its destination owned (R136); else the entry is held for an
  instruction that waits in the operand log (R334) -/
  ready : Bool := true
  /-- order in which commands issued (model) -/
  order : Nat := 0
  /-- pieces of the next chunk already delivered: a multicast delivers a line at a time (R338) -/
  part : Nat := 0
  /-- some destination page does not translate yet, so its lines are still to be claimed (R122) -/
  unheld : Bool := false
  deriving DecidableEq, Repr

/-- An outstanding steal probe (R79 to R82). -/
structure Steal where
  /-- the task slot that the thief reserved -/
  slot : Nat := 0
  /-- the place held for the reply is an inline entry -/
  inl : Bool := true
  /-- the core probed -/
  victim : Nat := 0
  /-- the request has been granted, and what the reply carries -/
  reply : Option (Option TaskEntry) := none
  deriving DecidableEq, Repr

/-- An admitted task's range in the range table (R63). -/
structure RangeEntry where
  part : Nat := 0
  job : Nat := 0
  adm : Nat := 0
  lo : Nat := 0
  hi : Nat := 0
  wr : Bool := false
  deriving DecidableEq, Repr

/-- A device fill of a future or a delivery to a save area that waits for a page (R90, R178). -/
structure Fill where
  part : Nat := 0
  job : Nat := 0
  /-- the core that makes it -/
  core : Nat := 0
  cell : W64 := 0
  val : W64 := 0
  status : Nat := 0
  /-- the closure's entry word, for a future; none for a save area -/
  word : Option W64 := none
  /-- the task's admission number, whose range entries are released after the fill (R68); 0 for none -/
  adm : Nat := 0
  /-- the core's fault-record area, which outlives its job here (R90) -/
  area : Nat := 0
  pages : List PageReq := []
  dead : Bool := false
  deriving DecidableEq, Repr

/-- A notice of departure that is marked as a kill, on its way to a record (R228). -/
structure KillNotice where
  part : Nat := 0
  job : Nat := 0
  /-- the record's address, the departed identity, and the core that sends the notice -/
  va : Nat := 0
  ident : Nat := 0
  core : Nat := 0
  pages : List PageReq := []
  dead : Bool := false
  deriving DecidableEq, Repr

/-- A core, beside its warp slots. -/
structure Core where
  l1 : L1 := {}
  /-- its L1 TLB: leaves of 4 KiB pages by partition and page (R2, R220) -/
  tlb : FMap W64 := []
  /-- the job that occupies the core (R98, R354) -/
  occ : Option Nat := none
  /-- N, the slice places of the job that occupies the core (R98) -/
  places : Nat := 0
  /-- origins that no handler warp has taken, oldest first (R215) -/
  pend : List PendingOrigin := []
  /-- the pool of 128 team barriers: those in use, by 128 * team + number (R156) -/
  bars : FMap Barrier := []
  /-- the shuttle's command entries by number (R334) -/
  cmds : FMap Cmd := []
  /-- the next command's sequence number (R334) -/
  seq : BitVec 28 := 0
  /-- event counters, by kind -/
  events : FMap Nat := []
  /-- the bobbin: inline entries, hot end first, and the spill ring, hot side first (R74) -/
  bob : List TaskEntry := []
  ring : List TaskEntry := []
  /-- place in the ring of its coldest entry (R74) -/
  ringBase : Nat := 0
  /-- lines of readiness words that the monitor is to read again (R61) -/
  monitor : List Nat := []
  /-- shuttle entries and staged blocks (start and bytes) of cancelled staging (R73) -/
  dying : List (Option Nat × List (Nat × Nat)) := []
  /-- number of fault records written (R91) -/
  faultIdx : Nat := 0
  /-- the outstanding probe, the victims left in the sweep, when the core became idle, and the earliest tick
  of the next sweep (R79, R82) -/
  steal : Option Steal := none
  sweep : Option (List Nat) := none
  idleAt : Option Nat := none
  sweepAt : Nat := 0
  /-- far stores not performed, oldest first (R148) -/
  far : List FarStore := []
  deriving DecidableEq, Repr

/-- A compute die, beside its cores. -/
structure Die where
  /-- lazy-release records of its slices: the cores recorded for a line, each with the scope code of its widest
  release (R128, R139) -/
  recs : FMap (List (Nat × Nat)) := []
  /-- host lines whose home it is, in its L2: clean copies and dirty bytes (R99, R100) -/
  hclean : FMap (List Byte) := []
  hdirty : FMap Byte := []
  /-- bytes of poisoned words of these lines that writes have reached since (R445) -/
  hfresh : FMap Bool := []
  /-- the partition in whose ways each of these lines was allocated (R410) -/
  hpart : FMap Nat := []
  /-- its L2 TLB: leaves of 4 KiB pages by partition and page (R2, R220) -/
  tlb : FMap W64 := []
  deriving DecidableEq, Repr

/-- Why a context is being pre-empted: the reason code of R230 and the report's +48 word. -/
structure CtxStop where
  reason : Nat := 0
  info : W64 := 0
  deriving DecidableEq, Repr, Inhabited

/-- One entry of a role table (R22). -/
structure Role where
  warps : Nat := 0
  allot : BitVec 2 := 0
  prio : BitVec 2 := 0
  deriving DecidableEq, Repr

/-- The fields of a job record (R394) that the machine uses, as LAUNCH reads them. -/
structure JobRec where
  code : Nat := 0
  entry : Nat := 0
  width : Nat := 16
  paired : Bool := false
  bal : Bool := false
  ntb : Nat := 0
  gx : Nat := 1
  gy : Nat := 1
  gz : Nat := 1
  /-- loader, computer, storer, task -/
  roles : List Role := []
  teamMasks : List Nat := []
  clusMasks : List Nat := []
  gridMasks : List Nat := []
  lslice : Nat := 0
  stage : Nat := 0
  spill : Nat := 0
  spillBase : Nat := 0
  hbase : Nat := 0
  hcount : Nat := 0
  locthr : W64 := 0
  wdog : Nat := 0
  image : Nat := 0
  imageSz : Nat := 0
  djid : Nat := 0
  deriving DecidableEq, Repr, Inhabited

/-- What a packet leaves behind when it has started: its completion fields (R388, R393). -/
structure Pkt where
  q : Nat := 0
  idx : Nat := 0
  tag : Nat := 0
  intr : Bool := false
  sig : W64 := 0
  sigVal : W64 := 0
  sigOp : Nat := 0
  stat : W64 := 0
  deriving DecidableEq, Repr, Inhabited

/-- Where a job stands (R85, R223, R401, R446). -/
inductive JobPhase where
  | prepared | running | ending | saved
  deriving DecidableEq, Repr, Inhabited

/-- When a job's warps may issue: a prepared launch waits for its release, then for its first issue, a TAI time
in units of 2^-16 ns (R401). -/
inductive Gate where
  | open | shut | from (tai : Nat)
  deriving DecidableEq, Repr, Inhabited

/-- The unstarted teams that a die's distributor holds (R84): of the job's teams whose starting die it is, those
with positions lo to hi - 1 in ascending order; and those that it was given. -/
structure DieTeams where
  lo : Nat := 0
  hi : Nat := 0
  extra : List Nat := []
  /-- its requests have all returned empty -/
  asked : Bool := false
  deriving DecidableEq, Repr, Inhabited

/-- A job (R394). -/
structure Job where
  /-- its number in its partition (R393) -/
  num : Nat := 0
  phase : JobPhase := .running
  gate : Gate := .open
  /-- the packet that its end completes (R393, R397) -/
  pk : Pkt := {}
  /-- lateness in ns of a timed launch (R401) -/
  late : Nat := 0
  /-- argument block: address and bytes (R396) -/
  args : W64 := 0
  argLen : Nat := 0
  /-- the job record's 512 bytes -/
  raw : List Byte := []
  /-- the dies of its partition's clusters, ascending (R26) -/
  onDies : List Nat := []
  /-- cores that it occupies (R354) -/
  cores : List Nat := []
  /-- unstarted teams by die -/
  unst : FMap DieTeams := []
  /-- cores that a die form of pre-emption has taken from it (R47, R359) -/
  past : List Nat := []
  /-- clusters reserved for a prepared launch (R401) -/
  resv : List Nat := []
  part : Nat := 0
  r : JobRec := {}
  /-- the schedule table: maximum size and entry offset of each class (R377, R379) -/
  sched : List (Nat × Nat) := []
  /-- the handler table: entry offset for each cause (R378, R379) -/
  handlers : FMap Nat := []
  /-- admissions made (R66) -/
  adm : Nat := 0
  /-- cluster barriers by 16 * cluster + number, and grid barriers by number (R156) -/
  cbars : FMap Barrier := []
  gbars : FMap Barrier := []
  /-- packages valid in the peer table (R395) -/
  peers : List Nat := []
  /-- tick of the last watchdog pulse (R229) -/
  pulse : Nat := 0
  /-- pre-emption begun (R223), of the job or of its part on one die (R359) -/
  stop : Option CtxStop := none
  dieStop : Option Nat := none
  /-- capsule records still owned by killed warps: core, record address, identity (R228) -/
  orphans : List (Nat × Nat × Nat) := []
  deriving DecidableEq, Repr, Inhabited

/-- A partition's registers: the MM block (R409) and the PT block (R411). -/
structure Partition where
  /-- PT_CTL.EN -/
  en : Bool := false
  /-- PT_STAT.RSTBUSY -/
  rstBusy : Bool := false
  /-- PT_STAT.ERR -/
  err : BitVec 4 := 0
  /-- PT_CLUS0 and PT_CLUS1 -/
  clus : BitVec 128 := 0
  chan : W64 := 0
  l2w : W64 := 0
  dsp : BitVec 32 := 0
  bkt : BitVec 32 := 0
  fn : BitVec 4 := 0
  pwr : BitVec 16 := 0
  /-- PT_CLK.PIN -/
  pin : Bool := false
  /-- PT_CLK.STEP -/
  step : BitVec 5 := 12
  /-- PT_IKEY0 to PT_IKEY3 -/
  ikey : BitVec 256 := 0
  ptbase : W64 := 0
  hptbase : W64 := 0
  inval : W64 := 0
  /-- MM_INVST.BUSY and PGBUSY -/
  invBusy : Bool := false
  pgBusy : Bool := false
  fqbase : W64 := 0
  fqlog2 : BitVec 5 := 4
  fqvec : BitVec 6 := 0
  fqwidx : BitVec 32 := 0
  fqridx : BitVec 32 := 0
  freply : W64 := 0
  dupl : BitVec 16 := 0
  b2err : BitVec 16 := 0
  pginit : W64 := 0
  b2base : W64 := 0
  /-- the error log (R435) -/
  elbase : W64 := 0
  ellog2 : BitVec 4 := 6
  elvec : BitVec 6 := 0
  elwidx : BitVec 32 := 0
  elridx : BitVec 32 := 0
  ellost : BitVec 32 := 0
  /-- FE_JCMD: JOB, OP, DIE, BUSY, with FE_JRES (R386); and the job that a busy command waits for -/
  jcmd : BitVec 37 := 0
  jbusy : Bool := false
  jres : BitVec 2 := 0
  jwait : Nat := 0
  /-- the report queue's registers (R386) -/
  rqbase : W64 := 0
  rqlog2 : BitVec 4 := 0
  rqvec : BitVec 6 := 0
  rqwidx : BitVec 32 := 0
  rqridx : BitVec 32 := 0
  rqlost : BitVec 32 := 0
  /-- FE_TAICTL.SRC and PTMPER (R386) -/
  taiSrc : BitVec 2 := 0
  ptmper : BitVec 8 := 16
  /-- FE_TLEAD -/
  tlead : BitVec 32 := 150000
  /-- number of the latest context image (R224), and of the next fault (R221) -/
  imgNum : Nat := 0
  faultNum : Nat := 0
  /-- scored completions since the last balancing (R45, R46) -/
  scored : Nat := 0
  deriving DecidableEq, Repr

/-! ## The front end (R384 to R402) -/

/-- A WAITW in progress (R391). -/
structure WaitWord where
  idx : Nat := 0
  addr : W64 := 0
  thr : W64 := 0
  /-- 0 FULL, 1 GEU, 2 GE -/
  mode : Nat := 0
  intr : Bool := false
  /-- TAI time, in units of 2^-16 ns, at which its timeout passes -/
  limit : Option Nat := none
  deriving DecidableEq, Repr

/-- How far the packet behind a TIMED packet is prepared (R401). -/
inductive Prep where
  | waiting
  /-- begun; the job that a LAUNCH makes; and how its check ends the packet, when it does: CODE, REASON, DETAIL -/
  | begun (job : Option Nat) (code reason detail : Nat)
  | done (job : Option Nat) (code reason detail : Nat)
  deriving DecidableEq, Repr

/-- The job that a preparation has made. -/
def Prep.job : Prep → Option Nat
  | .waiting => none
  | .begun j _ _ _ => j
  | .done j _ _ _ => j

/-- A TIMED packet whose follower is not released (R401). -/
structure TimedPkt where
  idx : Nat := 0
  /-- the trigger in units of 2^-16 ns -/
  trigger : Nat := 0
  /-- POLICY 1 -/
  drop : Bool := false
  intr : Bool := false
  prep : Prep := .waiting
  deriving DecidableEq, Repr

/-- A queue (R385, R389 to R391, R398, R399). -/
structure Queue where
  /-- FE_QBASE -/
  base : W64 := 0
  /-- FE_QCTL -/
  log2 : BitVec 5 := 0
  en : Bool := false
  vec : BitVec 6 := 0
  widx : BitVec 32 := 0
  ridx : BitVec 32 := 0
  /-- FE_QSTAT: stopped, ERR, KERR, EIDX -/
  stopped : Bool := false
  err : BitVec 8 := 0
  kerr : Bool := false
  eidx : BitVec 32 := 0
  /-- FE_QRPTR -/
  rptr : W64 := 0
  /-- it holds an active slot; it has given one up; the order in which it began to wait for one -/
  slot : Bool := false
  had : Bool := false
  since : Option Nat := none
  /-- parked at a page fault of its WAITW -/
  parked : Bool := false
  waitw : Option WaitWord := none
  timed : Option TimedPkt := none
  /-- indices of packets that have started and are not complete -/
  started : List Nat := []
  /-- pages that the reading of its head waits for, and those declared unresolvable -/
  pages : List PageReq := []
  dead : List PageReq := []
  /-- packets parsed ahead of its head -/
  look : Nat := 0
  deriving DecidableEq, Repr

/-- A front-end copy (R402). -/
structure CopyOp where
  part : Nat := 0
  pk : Pkt := {}
  src : W64 := 0
  dst : W64 := 0
  len : Nat := 0
  /-- its place in the order of commands (R122) -/
  order : Nat := 0
  /-- some destination page does not translate yet, so its lines are still to be claimed -/
  unheld : Bool := false
  /-- bytes moved -/
  pos : Nat := 0
  pages : List PageReq := []
  dead : Bool := false
  deriving DecidableEq, Repr

/-- One write that the front end makes (R386, R392, R393). -/
inductive FeWrite where
  /-- a status record, a MARK record or an FE_QRPTR value -/
  | bytes (addr : W64) (bs : List Byte)
  | signal (op : Nat) (addr val : W64)
  /-- a report of R230, which may be lost -/
  | report (bs : List Byte)
  deriving DecidableEq, Repr

/-- Writes that the front end makes in order, after which a packet is complete. -/
structure FeOp where
  part : Nat := 0
  q : Nat := 0
  idx : Nat := 0
  steps : List FeWrite := []
  /-- the packet completes after the last write, and INTR is set; `strict`: it does not complete when a write fails -/
  ends : Bool := false
  intr : Bool := false
  strict : Bool := false
  /-- the job that has ended, of which a waiting FE_JCMD command learns after the last write (R441) -/
  tells : Option Nat := none
  pages : List PageReq := []
  dead : Bool := false
  deriving DecidableEq, Repr

/-- A context as an image holds it (R224); and the image's bytes as they were written, which a restore compares. -/
structure SavedCtx where
  part : Nat := 0
  num : Nat := 0
  reason : Nat := 0
  job : Nat := 0
  /-- the die of a die form (R359) -/
  die : Option Nat := none
  jb : Job := {}
  /-- used cores -/
  used : List Nat := []
  slots : FMap Warp := []
  cores : FMap Core := []
  /-- scratchpad bytes, line bits and poisoned words by place; the commands say which lines are busy -/
  mem : FMap Byte := []
  lineFull : FMap Bool := []
  poison : FMap Bool := []
  /-- MMAs recorded to issue again -/
  mma : List MmaEntry := []
  bytes : List Byte := []
  /-- a die form whose warps the running job still awaits (R447) -/
  away : Bool := false
  deriving DecidableEq, Repr, Inhabited

/-- A restore after its check (R226). -/
structure Restore where
  part : Nat := 0
  pk : Pkt := {}
  addr : W64 := 0
  ctx : SavedCtx := {}
  /-- saved clusters and the clusters they are placed on -/
  map : Option (List (Nat × Nat)) := none
  /-- a timed RESUME that is not released (R401) -/
  held : Bool := false
  late : Nat := 0
  /-- pages that the writing of STATE waits for; one of them was declared unresolvable -/
  pages : List PageReq := []
  dead : Bool := false
  deriving DecidableEq, Repr

/-- The TAI counter's discipline (R386, R400). -/
structure Tai where
  /-- the partition whose FE_TAICTL was written last, which the discipline follows (model, log 28) -/
  part : Nat := 0
  /-- FE_TAISET, FE_PPSSEC, FE_TOFF -/
  set : W64 := 0
  ppssec : W64 := 0
  toff : W64 := 0
  /-- what is still to be slewed, in units of 2^-16 ns: positive while the counter is behind -/
  slew : Int := 0
  /-- consecutive samples within 20 ns -/
  good : Nat := 0
  /-- tick of the last sample and of the last PTM request -/
  sampled : Nat := 0
  asked : Nat := 0
  /-- a PTM request is unanswered -/
  waiting : Bool := false
  deriving DecidableEq, Repr

/-! ## Fabric, PCIe, boot and health -/

/-- A directory entry (R414): the states of dies 0 to 3 (0 I, 1 S, 2 E, 3 O, 4 M), the members that hold copies. -/
structure DirEntry where
  line : Nat := 0
  dst : List Nat := [0, 0, 0, 0]
  pkgv : BitVec 8 := 0
  pkgw : Bool := false
  /-- the package of PKGW has written the line, which it holds in O or M (R419) -/
  pkgm : Bool := false
  /-- allocation order -/
  age : Nat := 0
  deriving DecidableEq, Repr

/-- A recall in progress at a heddle die, and the request that waits for it (R415). -/
structure Recall where
  victim : Nat := 0
  die : Nat := 0
  line : Nat := 0
  write : Bool := false
  tick : Nat := 0
  /-- the request's sequence number (R416) -/
  seq : Nat := 0
  /-- a member's write: the line's bytes as the member leaves them -/
  bytes : List Byte := []
  deriving DecidableEq, Repr

/-- The reply to a completed cross-die request, as the home slice keeps it (R416): the state granted, and the line. -/
structure Reply where
  seq : Nat := 0
  line : Nat := 0
  write : Bool := false
  state : Nat := 0
  bytes : List Byte := []
  tick : Nat := 0
  deriving DecidableEq, Repr

/-- The heddle dies and the HD block (R414 to R420). -/
structure Heddle where
  up : BitVec 2 := 3
  degraded : Bool := false
  rebuild : Bool := false
  unreach : BitVec 8 := 0
  ports : BitVec 16 := 0
  nRecall : BitVec 32 := 0
  recfail : BitVec 32 := 0
  gmem : BitVec 96 := 0
  b2sel : BitVec 6 := 0
  /-- directory entries -/
  dir : List DirEntry := []
  nextAge : Nat := 0
  recalls : FMap Recall := []
  /-- broadcast regions: 4 KiB region numbers, with the copies of their lines -/
  bcast : FMap (List DirEntry) := []
  /-- entries that were on a lost die and are to be rebuilt -/
  lostDir : List DirEntry := []
  /-- requests outstanding at a lost die, with the tick at which they were sent -/
  lostReq : List Recall := []
  /-- next sequence number by requester, and the replies that each home slice keeps, newest first, by
  16 * (64 * die + slice) + requester: dies 0 to 3, members from 4 on (R416) -/
  seqs : FMap Nat := []
  replies : FMap (List Reply) := []
  /-- positions of members that each port reaches, and the ports whose peers report another member table (R418) -/
  reach : FMap (BitVec 8) := []
  foreign : BitVec 16 := 0
  /-- since which tick no up port has reached a member of the group, by position (R419) -/
  cut : FMap Nat := []
  /-- dirty lines whose write-back is under way, by 4 * line + die (R143) -/
  wbs : List Nat := []
  /-- consecutive failed replays by port (R418) -/
  replays : FMap Nat := []
  /-- milliseconds swept for the overflow table (R415) -/
  swept : Nat := 0
  deriving DecidableEq, Repr

/-- What the recovery core is doing (R429 to R431). -/
inductive BtBusy where
  | idle
  /-- an update, or a recovery bundle: the bytes that are written to flash -/
  | update (bundle : List Byte)
  /-- a measurement: its nonce, and whether it came over I3C -/
  | measure (nonce : List Byte) (i3c : Bool)
  deriving DecidableEq, Repr

/-- The recovery core, the flash and the fuses (R424 to R433). -/
structure Boot where
  stage : BitVec 4 := 1
  err : BitVec 8 := 0
  svn : BitVec 8 := 0
  busy : BtBusy := .idle
  res : BitVec 2 := 0
  updaddr : W64 := 0
  updlen : BitVec 32 := 0
  op : BitVec 4 := 0
  key : BitVec 16 := 0
  nonce : BitVec 256 := 0
  maddr : W64 := 0
  /-- a package reset that waits for the end of an operation (R428) -/
  pending : Bool := false
  /-- the bundle in flash, its hashes as the running image had them -/
  flash : List Byte := Config.factoryFlash
  fwHash : List Byte := []
  bsHash : List Byte := []
  /-- blown bits of the security-version fuses, and the hash of the root key, which no operation writes (R424) -/
  fsvn : Nat := Config.factorySvn
  rootKey : List Byte := Config.rootKeyHash
  /-- the unique secret, which only the ROM reads, and the identity key's private scalar in the ROM's key store, derived from it
  at every package reset (R424) -/
  secret : BitVec 256 := Config.uniqueSecret
  idKey : Nat := Config.identityScalar Config.uniqueSecret
  /-- package resets since manufacture -/
  resets : Nat := Config.factoryResets
  /-- image blocks received over I3C, and the bytes of the last reply -/
  blocks : FMap (List Byte) := []
  reply : List Byte := []
  deriving DecidableEq, Repr

/-- What is powered (R437). -/
inductive Power where
  | on | stageOff | railsOff
  deriving DecidableEq, Repr

/-- The HM block and the power controller (R434 to R440). -/
structure Health where
  power : Power := .on
  underv : Bool := false
  throt : Bool := false
  pinlow : Bool := false
  fehb : Bool := false
  autorst : Bool := false
  vec : BitVec 6 := 0
  cap : BitVec 12 := 1500
  vin : BitVec 16 := 0
  pin : BitVec 16 := 0
  tj : BitVec 16 := 0
  hours : BitVec 32 := 0xFFFFFFFF
  low : BitVec 32 := 0xFFFFFFFF
  high : BitVec 32 := 0xFFFFFFFF
  limiter : BitVec 4 := 0
  limid : BitVec 8 := 0
  /-- HOURS has been below 2,000, and below 500 (R436) -/
  warned : Bool × Bool := (false, false)
  /-- hours of trend since manufacture, each resource's samples by 256 * kind + number, newest first, and the tick of the latest hourly
  recomputation (R436) -/
  trendHours : Nat := Config.factoryHours
  trends : FMap (List (Nat × Nat)) := []
  eolAt : Nat := 0
  csel : BitVec 7 := 0
  /-- DRIFT and VTMARG of each cluster, drift in bits 15:0 -/
  cage : FMap Nat := []
  cerr : W64 := 0
  parr : W64 := 0
  pois : W64 := 0
  wdog : W64 := 0
  hdeg : W64 := 0
  miss : W64 := 0
  /-- the input has been below 40 V, and since when it has been at or above it -/
  okSince : Option Nat := none
  lowSince : Option Nat := none
  /-- since when the average has been 5 % below the cap, and the tick of the last step of a clock -/
  calm : Option Nat := none
  stepped : Nat := 0
  overCap : Bool := false
  /-- the power in W as the controller estimates it since the latest sample: 25 W less for each cluster step (R437, R438) -/
  est : Nat := 0
  /-- clusters lowered, latest first -/
  lowered : List Nat := []
  /-- tick of the front end's last pulse, and the tick at which FEHB was set (R440) -/
  pulse : Nat := 0
  fehbAt : Nat := 0
  deriving DecidableEq, Repr

/-! ## Faults, turns and outcomes -/

/-- A page in a cluster stage or the front-end stage of the fault filters (R221). -/
structure FaultPage where
  part : Nat := 0
  /-- the cluster; 128 for the front end's stage -/
  unit : Nat := 0
  page : Nat := 0
  host : Bool := false
  /-- access union: bit 0 read, 1 write, 2 atomic, 3 fetch, 4 tag, 5 engine -/
  kinds : BitVec 6 := 0
  perm : Bool := false
  /-- cores of the cluster that wait -/
  cores : BitVec 4 := 0
  /-- it is in the stage; else only in the filter of its one core, for want of room in the stage -/
  staged : Bool := true
  waiters : Nat := 0
  tick : Nat := 0
  /-- fault number, once its record is in the fault queue -/
  num : Option Nat := none
  deriving DecidableEq, Repr

/-- An error that a level of storage meets (R123). -/
inductive Upset where
  /-- a correctable error: corrected and counted -/
  | corrected
  /-- an error in a clean line of a cache: it is fetched again, and counted -/
  | parity
  /-- an uncorrectable register element of a warp: `Warp.bad`'s key -/
  | register (c : CoreId) (slot : SlotNo) (key : Fin 8320)
  /-- an uncorrectable word among a core's dirty bytes -/
  | l1 (c : CoreId) (place : Nat)
  /-- an uncorrectable word of a slice's dirty line -/
  | l2 (place : Nat)
  /-- an uncorrectable scratchpad word, or unit of a stack -/
  | memory (place : Nat)
  deriving DecidableEq, Repr

/-- What this package answers to a chunk of another package: a status of R335 (1 while the transfer may go on), and the bytes
that a SHGET asked for, with their offsets in the record (R339). -/
structure RemoteAns where
  pkg : BitVec 12 := 0
  code : Nat := 1
  cells : List (Nat × Byte) := []
  deriving DecidableEq, Repr

/-- Which agent moves next: an event, or the issue of one warp. -/
inductive Turn where
  | event (i : Instr)
  | issue (c : CoreId) (slot : SlotNo)
  /-- the front end's copy engine moves the next chunk of a queue's oldest copy -/
  | copy (part : PartId) (q : QueueNo)
  /-- the bank performs a core's n-th far store (R148) -/
  | far (c : CoreId) (n : Nat)
  /-- a level of storage meets an error (R123) -/
  | upset (u : Upset)
  deriving DecidableEq, Repr

/-- Why the machine stops: no rule of the spec stops it, so there is none. -/
inductive Fault where
  deriving DecidableEq, Repr

/-- Why an instruction has no meaning here. -/
inductive Refusal where
  /-- Raised by an arm of `exec` whose instruction has no meaning yet. Safe: nothing is claimed of it. -/
  | notModelled (mnemonic : String)
  /-- Raised by an event whose occasion, as the spec gives it, is not at hand in this state: the event does
  not happen, so there is no step to describe. Safe: the machine never does it here. -/
  | notEnabled (event : String)
  deriving DecidableEq, Repr

/-- The whole machine. -/
structure State where
  /-- warp slots by key 128 * core + slot; an unlisted slot is FREE with generation 0 (log 5) -/
  slots : FMap Warp := []
  /-- the warp that issues in this step: core and slot (model) -/
  cur : Nat × Nat := (0, 0)
  /-- the word that issues in this step (model) -/
  curWord : W32 := 0
  /-- cores by number (R33); an unlisted core is as after reset -/
  cores : FMap Core := []
  /-- compute dies -/
  dies : FMap Die := []
  /-- partitions -/
  parts : FMap Partition := []
  /-- every byte of memory by place (log 10): a device physical address (R403); 2^58 + a bus address (R97);
  2^59 + 2^19 * core + offset in a core scratchpad; 2^60 + 2^25 * (4 * partition + die) + offset in a partition's share of
  a die scratchpad (log 29). A global
  byte here is the one value that slices read (R142). An unlisted byte reads as zero -/
  mem : FMap Byte := []
  /-- full tags of words, by place of the word (R117); unlisted is empty -/
  tags : FMap Bool := []
  /-- full bits of core-scratchpad lines, by place (R115); unlisted is empty -/
  lineFull : FMap Bool := []
  /-- poisoned units by place: aligned 8-byte words, 4-byte words of a scratchpad (R445) -/
  poison : FMap Bool := []
  /-- lines that engines own and have not written, with the engines' keys in the order of their claims: commands, staging
  and write-back transfers, copies, and commands of saved contexts (R122) -/
  owned : FMap (List Nat) := []
  /-- reservation tables of the clusters' matrix engines, oldest entry first (R345) -/
  mma : FMap (List MmaEntry) := []
  /-- the range table on H0, in order of entry (R63 to R67) -/
  ranges : List RangeEntry := []
  /-- device fills and deliveries that wait for pages (R90, R178) -/
  fills : List Fill := []
  /-- notices of departure sent to capsule records' slices: lines of the records (R177) -/
  notices : List Nat := []
  /-- notices marked as kills (R228) -/
  kills : List KillNotice := []
  /-- jobs of the owners of capsule records, by owner identity (R177) -/
  capJobs : FMap Nat := []
  /-- numbers given to tasks so far, and to readiness (model) -/
  taskSeq : Nat := 0
  /-- HD_GROUP: POS 0, MEMB 0b1, PKG 0 (R420) -/
  group : W64 := 8
  /-- chunks and requests sent to other packages, oldest first (R339) -/
  sent : List RemoteReq := []
  /-- answers given to other packages' chunks, oldest first (R339) -/
  answers : List RemoteAns := []
  /-- MSI-X messages sent to the host: function and vector, oldest first (R423) -/
  msix : List (Nat × Nat) := []
  /-- pages in the fault filters, in order of entry (R221) -/
  faults : List FaultPage := []
  /-- lines written or invalidated at their slice or bank in this step (model) -/
  touched : List Nat := []
  /-- scratchpad lines whose full/empty bit changed in this step, and lines that an engine gave up (model) -/
  touchedBits : List Nat := []
  /-- lines stored to in a core's L1 in this step, with the core (model) -/
  touchedL1 : List (Nat × Nat) := []
  /-- jobs by the model's number -/
  jobs : FMap Job := []
  /-- cr.tick (R285) -/
  tick : Nat := 0
  /-- TAI time in units of 2^-16 ns (R284, R286) -/
  tai : Nat := 0
  /-- TAI lock (R284), and the discipline -/
  taiLock : Bool := false
  taiD : Tai := {}
  /-- FE_STAT.READY and LOST -/
  feReady : Bool := false
  feLost : Bool := false
  /-- queues by 64 * partition + queue -/
  queues : FMap Queue := []
  copies : List CopyOp := []
  /-- front-end writes under way -/
  feOps : List FeOp := []
  /-- context images written, and restores under way -/
  saves : List SavedCtx := []
  restores : List Restore := []
  /-- number of the next job (model) -/
  nextJob : Nat := 0
  /-- clusters' clocks, in steps of 50 MHz above 900 MHz (R411); 12 where unlisted. Changes requested, and scores
  (R45, R46) -/
  clocks : FMap Nat := []
  clockReq : FMap Nat := []
  scores : FMap Int := []
  /-- bandwidth tokens by 8 * die + partition (R413); and whether this step's requests exceed them (model) -/
  buckets : FMap Nat := []
  /-- refills made by die: one more than the number of the latest period of 1,024 ticks (model, R413) -/
  refills : FMap Nat := []
  short : Bool := false
  /-- PCIe link up (R421) -/
  pcie : Bool := false
  /-- what the latest BAR2 read returned (R422) -/
  bar2 : List Byte := []
  hd : Heddle := {}
  bt : Boot := {}
  hm : Health := {}
  /-- MSI-X table of the functions (R421), by 2048 * function + byte offset -/
  msixTab : FMap Byte := []
  /-- the pending-bit array, by 64 * function + vector (R421) -/
  msixPba : FMap Bool := []
  /-- ticks that the next steps take; one where none is listed (model, log 8) -/
  dts : List Nat := []
  /-- the next step without an agenda looks for an event first (model, log 2) -/
  eventTurn : Bool := false
  /-- number of free values used so far (model, log 3) -/
  freeIdx : Nat := 0
  /-- number of sleeps, watches and commands so far, which orders arrivals at a line, registrations and owners (model) -/
  waitSeq : Nat := 0
  /-- the second warp that a core has chosen for its arithmetic cycle, by core, until it issues (model, R37) -/
  cycle : FMap Nat := []
  /-- which agents move next (model, log 2) -/
  turns : List Turn := []
  /-- whether each next long-latency instruction is performed late in its window (model, log 4) -/
  late : List Bool := []
  /-- whether each next far store is performed after its instruction has gone on (model, log 97) -/
  lags : List Bool := []
  deriving DecidableEq, Repr

/-- The machine right after reset. -/
def State.reset : State := {}

end Sys2Proof.Machine
end

