-- ==== Sys2Proof/Machine/Ops.lean ====
section
/-! DEFINITION. The named operations over registers, warps and traps that every meaning uses. -/

namespace Sys2Proof.Machine

/-! ## Lanes -/

/-- The mask of lanes 0 to w - 1. -/
def laneMask (w : Nat) : W64 := BitVec.ofNat 64 (2 ^ w - 1)

/-- The lanes of a mask below w, rising. -/
def lanesIn (w : Nat) (m : W64) : List Nat := (List.range w).filter fun l => m.getLsbD l

/-- The mask that has only lane l. -/
def laneBit (l : Nat) : W64 := BitVec.ofNat 64 (2 ^ l)

/-- The mask of the listed lanes. -/
def maskOf (ls : List Nat) : W64 := ls.foldl (fun m l => m ||| laneBit l) 0

/-! ## Registers (R2, R16, R17, R101) -/

/-- s[k]; s0 reads as zero (R2). -/
def Regs.rdS (r : Regs) (k : Nat) : W64 := if k = 0 then 0 else r.s.getD k 0

/-- s[k] := x; a write to s0 is discarded (R256). -/
def Regs.wrS (r : Regs) (k : Nat) (x : W64) : Regs :=
  if k = 0 then r else { r with s := r.s.put 0 k x }

/-- Lane l's element of v[k]. -/
def Regs.rdV (r : Regs) (k l : Nat) : W32 := r.v.getD (64 * k + l) 0

/-- v[k][l] := x. -/
def Regs.wrV (r : Regs) (k l : Nat) (x : W32) : Regs := { r with v := r.v.put 0 (64 * k + l) x }

/-- p[k] as a mask of lanes; p0 is true in every lane (R2). -/
def Regs.rdP (r : Regs) (k : Nat) : W64 := if k = 0 then BitVec.allOnes 64 else r.p.getD k 0

/-- p[k][l] := bit l of x in the lanes of m; a write to p0 is discarded (R256). -/
def Regs.wrP (r : Regs) (k : Nat) (m x : W64) : Regs :=
  if k = 0 then r else { r with p := r.p.put 0 k ((r.rdP k &&& ~~~m) ||| (x &&& m)) }

/-- b[k]. -/
def Regs.rdB (r : Regs) (k : Nat) : BitVec 256 := r.b.getD k 0

/-- b[k] := x. -/
def Regs.wrB (r : Regs) (k : Nat) (x : BitVec 256) : Regs := { r with b := r.b.put 0 k x }

/-- c[k]. -/
def Regs.rdC (r : Regs) (k : Nat) : W64 := r.c.getD k 0

/-- c[k] := x. -/
def Regs.wrC (r : Regs) (k : Nat) (x : W64) : Regs := { r with c := r.c.put 0 k x }

/-! ## WMODE (R237) -/

/-- Bits hi to lo of a 64-bit value as a number. -/
def bits (x : W64) (lo n : Nat) : Nat := x.toNat / 2 ^ lo % 2 ^ n

def wmET (m : W64) : Nat := bits m 8 4
def wmST (m : W64) : Nat := bits m 12 4
def wmRM (m : W64) : Nat := bits m 16 3
def wmSAT (m : W64) : Bool := m.getLsbD 19
def wmFTZ (m : W64) : Bool := m.getLsbD 20
def wmIEN (m : W64) : BitVec 5 := BitVec.ofNat 5 (bits m 21 5)
def wmJFT (m : W64) : Bool := m.getLsbD 26

/-- May WMODE hold this value: no reserved bit, no refused code in ET, ST or RM (R237). -/
def wmodeOk (m : W64) : Bool :=
  bits m 27 37 == 0 && wmET m != 15 && wmST m != 15 && decide (wmRM m < 6)

/-- The predicate that a GP or SP field names, inverted by its bit 3 (R237). -/
def Regs.pick (r : Regs) (f : Nat) : W64 :=
  if f / 8 % 2 = 1 then ~~~ (r.rdP (f % 8)) else r.rdP (f % 8)

/-! ## Warps -/

/-- The key of slot k of core c in `State.slots`. -/
def slotKey (c k : Nat) : Nat := 128 * c + k

/-- The warp in slot k of core c. -/
def State.warp (s : State) (c k : Nat) : Warp := s.slots.getD (slotKey c k) {}

/-- Puts a warp into slot k of core c. -/
def State.setWarp (s : State) (c k : Nat) (w : Warp) : State :=
  { s with slots := s.slots.ins (slotKey c k) w }

/-- The warp that issues. -/
def State.cw (s : State) : Warp := s.warp s.cur.1 s.cur.2

/-- Replaces the warp that issues. -/
def State.setCw (s : State) (w : Warp) : State := s.setWarp s.cur.1 s.cur.2 w

/-- Core c. -/
def State.core (s : State) (c : Nat) : Core := s.cores.getD c {}

/-- Replaces core c. -/
def State.setCore (s : State) (c : Nat) (x : Core) : State := { s with cores := s.cores.ins c x }

/-- The guard, read in every lane (R38). -/
def Warp.guard (w : Warp) : W64 := w.regs.pick (bits w.ctl.wmode 0 4)

/-- The active lanes (R38); while an instruction is executed again after a trap, the lanes of R218. -/
def Warp.active (w : Warp) : W64 := w.ctl.reexec.getD (w.ctl.exec &&& w.guard)

/-- The active lanes as a list, rising. -/
def Warp.lanes (w : Warp) : List Nat := lanesIn w.id.width w.active

/-- The lowest active lane; when none is active, the lowest live lane (R256). -/
def Warp.firstLane (w : Warp) : Nat :=
  match lanesIn 64 w.active with
  | l :: _ => l
  | [] => (lanesIn 64 w.ctl.live).headD 0

/-- The select predicate, read in every lane (R256). -/
def Warp.selP (w : Warp) : W64 := w.regs.pick (bits w.ctl.wmode 4 4)

def Warp.rdS (w : Warp) (k : Nat) : W64 := w.regs.rdS k
def Warp.wrS (w : Warp) (k : Nat) (x : W64) : Warp := { w with regs := w.regs.wrS k x }
def Warp.rdV (w : Warp) (k l : Nat) : W32 := w.regs.rdV k l
def Warp.wrV (w : Warp) (k l : Nat) (x : W32) : Warp := { w with regs := w.regs.wrV k l x }
def Warp.wrP (w : Warp) (k : Nat) (m x : W64) : Warp := { w with regs := w.regs.wrP k m x }

/-- pc := x. -/
def Warp.setPc (w : Warp) (x : W64) : Warp := { w with ctl := { w.ctl with pc := x } }

/-- The plain advance of the program counter (R279). -/
def Warp.advance (w : Warp) : Warp := w.setPc (w.ctl.pc + 4)

/-- WMODE := x. -/
def Warp.setMode (w : Warp) (x : W64) : Warp := { w with ctl := { w.ctl with wmode := x } }

/-- Elements that have been written are uncorrectable no more (R445). -/
def Warp.mend (w : Warp) (ks : List Nat) : Warp := { w with bad := ks.foldl FMap.del w.bad }

/-- Vector registers that the warp's allotment holds (R22; R214: 32 in a handler warp). -/
def Warp.vregs (w : Warp) : Nat := if w.id.handler then 32 else 32 * (w.id.allot.toNat + 1)

/-! ## Outcomes of an instruction before it is committed -/

/-- A trap about to be taken: cause and SUB (R206), lanes (every active lane when `none`, R205) and each
lane's DETAIL words (R209). -/
structure TrapInfo where
  cause : Nat := 0
  sub : Nat := 0
  mask : Option W64 := none
  det : FMap (W64 × W64 × W64) := []
  deriving DecidableEq, Repr

/-- Why an instruction does not run to its end now. -/
inductive Stop where
  /-- it raises a trap (R203) -/
  | trap (t : TrapInfo)
  /-- lines that it touches do not translate (R220) -/
  | fault (pages : List PageReq)
  /-- it has issued and completes later: a line that it touches belongs to an engine (R122) -/
  | defer
  /-- it does not issue yet (R35) -/
  | stall
  /-- the warp sleeps (R44) -/
  | sleep (w : Wait)
  /-- it reads a poisoned word at a place (R124) -/
  | poison (place : Nat)
  deriving DecidableEq, Repr

/-- A computation that may stop. -/
abbrev Res := Except Stop

/-- Raises a trap in every active lane. -/
def raise {α : Type} (cause sub : Nat) : Res α := .error (.trap { cause := cause, sub := sub })

/-- Raises a trap in the given lanes. -/
def raiseIn {α : Type} (cause sub : Nat) (mask : W64) : Res α :=
  .error (.trap { cause := cause, sub := sub, mask := some mask })

/-! Cause codes (R206). -/

def ILLEGAL : Nat := 1
def ALIGNMENT : Nat := 2
def BOUNDS : Nat := 3
def ACCESS : Nat := 4
def DIVERGENT_BRANCH : Nat := 5
def MEMBERSHIP_DIVERGENCE : Nat := 6
def FORMAT_DIVERGENCE : Nat := 7
def PROMISE_MISSED : Nat := 8
def CAPSULE_LIMIT : Nat := 9
def CAPSULE_ABORT : Nat := 10
def ARITHMETIC : Nat := 11
def RECONVERGENCE_OVERFLOW : Nat := 12
def SCHEDULE_RANGE : Nat := 13
def SPILL_FULL : Nat := 14
def JOIN_FAULT : Nat := 15
def SOFTWARE : Nat := 16

/-- Traps unless a condition holds. -/
def need (c : Bool) (cause sub : Nat) : Res Unit := if c then .ok () else raise cause sub

/-! ## Decode checks made when a word issues (R236) -/

/-- SUB 3: every named vector register lies below the allotment (R23). -/
def Warp.has (w : Warp) (vs : List Nat) : Res Unit := need (vs.all fun v => decide (v < w.vregs)) ILLEGAL 3

/-- SUB 4: pairs and quads are named by an even register or a multiple of 4 (R233). -/
def aligned (n : Nat) (rs : List Nat) : Res Unit := need (rs.all fun r => r % n == 0) ILLEGAL 4

/-! ## Retiring and trapping -/

/-- The watchdog pulse of a context (R229). -/
def State.pulse (s : State) (j : Nat) : State :=
  match s.jobs.look j with
  | some jb => { s with jobs := s.jobs.ins j { jb with pulse := s.tick } }
  | none => s

/-- What every issue does to its warp: it counts in each open window (R240), ends re-execution (R218), and
the wait count returns to zero (R36). -/
def Warp.issued (w : Warp) : Warp :=
  { w with
    ctl := { w.ctl with reexec := none, wait := 0, promo := false, done := 0 }
    stale := w.stale - 1
    fbuf := (w.fbuf.map fun p => (p.1, p.2.1, p.2.2 - 1)).filter fun p => p.2.2 != 0
    log := w.log.map fun e => { e with used := e.used + 1 } }

/-- The current warp has issued and becomes `w`; its job's watchdog is pulsed. -/
def State.retire (s : State) (w : Warp) : State := (s.setCw w.issued).pulse w.id.job

/-- Begins the pre-emption of a job for a reason of R230, unless one has begun (R223). -/
def State.stopJob (s : State) (j : Nat) (x : CtxStop) : State :=
  match s.jobs.look j with
  | some jb => { s with jobs := s.jobs.ins j { jb with stop := jb.stop <|> some x } }
  | none => s

/-- The lanes that a trap names: those it lists, else every active lane, else the lowest live lane (R205). -/
def Warp.trapLanes (w : Warp) (t : TrapInfo) (active : W64) : W64 :=
  t.mask.getD (if active = 0 then laneBit ((lanesIn 64 w.ctl.live).headD 0) else active)

/-- The trap record of lane l (R209). -/
def trapRec (t : TrapInfo) (mask : W64) (word : W32) (pc cont : W64) (defer : Bool) (tick l : Nat) : TrapRec :=
  let d := t.det.getD l (0, 0, 0)
  { cause := BitVec.ofNat 8 t.cause, sub := BitVec.ofNat 8 t.sub, lane := l, defer := defer, word := word
    pc := pc, cont := cont, d0 := d.1, d1 := d.2.1, d2 := d.2.2
    tick := BitVec.ofNat 64 tick, mask := mask }

/-- The warp as the taking of a trap leaves it: HELD, its trap registers written (R203 to R205, R210 to
R212), a record for each trapped lane (R209). An instruction that traps as it issues has issued, so the wait count returns to zero
(R36). -/
def Warp.trapped (w : Warp) (t : TrapInfo) (uniform : Bool) (active : W64) (word : W32) (pc cont : W64)
    (entry : Option LogEntry) (tick : Nat) : Warp :=
  let mask := w.trapLanes t active
  { w with
    st := .held
    wait := .none
    ctl :=
      { w.ctl with
        reexec := none
        wait := if entry.isSome then w.ctl.wait else 0
        promo := entry.isSome && w.ctl.promo }
    trap :=
      { mask := mask, pc := pc, cause := BitVec.ofNat 8 t.cause, sub := BitVec.ofNat 8 t.sub
        defer := entry.isSome, cont := cont, uniform := uniform, active := active
        recs := (lanesIn 64 mask).map fun l => (l, trapRec t mask word pc cont entry.isSome tick l)
        res := [], entry := entry } }

/-- TAKING AN EXCEPTION. The warp in slot k of core c stops at `pc` and becomes HELD; each trapped lane
enters the core's pending list as one origin (R203, R205, R215). A trap of a handler warp is not
compacted: its context is stopped with HANDLER_TRAP (R217). -/
def State.takeTrap (s : State) (c k : Nat) (t : TrapInfo) (uniform : Bool) (active : W64) (word : W32)
    (pc cont : W64) (entry : Option LogEntry) : State :=
  let w := s.warp c k
  if w.id.handler then
    s.stopJob w.id.job
      { reason := 4, info := BitVec.ofNat 64 (t.cause + 2 ^ 8 * (pc.toNat / 4)) }
  else
    let w' := w.trapped t uniform active word pc cont entry s.tick
    let new := (lanesIn 64 w'.trap.mask).map fun l =>
      ({ cause := BitVec.ofNat 8 t.cause, origin := { lane := l, slot := k, sgen := w.gen }
         tick := s.tick } : PendingOrigin)
    let cr := s.core c
    (s.setWarp c k w').setCore c { cr with pend := cr.pend ++ new }

/-- A trap of the instruction that issues. Inside an open window it is delivered only when every earlier
long-latency instruction has completed; until then the instruction waits (R204). Results that the divide unit still
owes are written first, since a handler reads the registers (R217). -/
def State.trapNow (s : State) (t : TrapInfo) (uniform : Bool) (cont : W64) : State :=
  let w := s.cw
  if w.log.isEmpty && w.fdsq.isEmpty then
    s.takeTrap s.cur.1 s.cur.2 t uniform w.active s.curWord w.ctl.pc cont none
  else s

/-- A warp falls asleep on a condition; its wait count stays at zero (R28, R44). -/
def Warp.slept (w : Warp) (x : Wait) : Warp :=
  { w with st := .asleep, wait := x, ctl := { w.ctl with wait := 0, promo := false } }

/-- The current warp goes to sleep on a condition (R28, R44); its instruction issues again on waking. -/
def State.sleepNow (s : State) (x : Wait) : State := s.setCw (s.cw.slept x)

/-- Takes one free number. -/
def State.takeNat (s : State) : Nat × State :=
  (Config.freeNat s.freeIdx, { s with freeIdx := s.freeIdx + 1 })

/-- Takes one free choice. -/
def State.takeBit (s : State) : Bool × State :=
  (Config.freeBit s.freeIdx, { s with freeIdx := s.freeIdx + 1 })

/-- Takes one free word. -/
def State.takeWord (s : State) : W64 × State :=
  (Config.freeWord s.freeIdx, { s with freeIdx := s.freeIdx + 1 })

/-- The physical address of a place: a place of device memory is one; for a word of a scratchpad, of host memory or of a
register the spec gives none, and it is a free value (log 100). -/
def State.physical (s : State) (place : Nat) : W64 × State :=
  if place < 2 ^ 58 then (BitVec.ofNat 64 place, s) else s.takeWord

/-- A job is stopped by an uncorrectable error at a place (R124). -/
def State.poisonJob (s : State) (j place : Nat) : State :=
  let (pa, s) := s.physical place
  s.stopJob j { reason := 2, info := pa }

/-- The job of the current warp is stopped by an uncorrectable error (R124). -/
def State.poisonNow (s : State) (place : Nat) : State := s.poisonJob s.cw.id.job place

/-- What a stop of the current instruction makes of the machine. -/
def State.stopNow (s : State) (uniform : Bool) : Stop → State
  | .trap t => s.trapNow t uniform (s.cw.ctl.pc + 4)
  | .sleep x => s.sleepNow x
  | .poison p => s.poisonNow p
  | .fault _ => s
  | .defer => s
  | .stall => s

/-- Commits an instruction that changes only its own warp. -/
def commitW (s : State) (uniform : Bool) (r : Res Warp) : Host.Outcome State Fault Refusal :=
  match r with
  | .ok w => .next (s.retire w)
  | .error e => .next (s.stopNow uniform e)

/-- Commits an instruction that may change the whole machine; the result's current warp is as the
instruction leaves it. -/
def commitS (s : State) (uniform : Bool) (r : Res State) : Host.Outcome State Fault Refusal :=
  match r with
  | .ok t => .next (t.retire t.cw)
  | .error e => .next (s.stopNow uniform e)

/-! ## Event counters of a core -/

/-- A fill found its future full (R87). -/
def evFillFull : Nat := 0
/-- A command missed its promise (R121). -/
def evMissed : Nat := 1
/-- A delivery or fill wrote nothing (R90, R178). -/
def evFillLost : Nat := 2
/-- A handler lane retired without TRES (R217). -/
def evNoTres : Nat := 3
/-- Bytes of a multicast were counted nowhere (R338). -/
def evBytesLost : Nat := 4

/-- A task met a fault (R89, R91). -/
def evTaskFault : Nat := 5

/-- A counter that stops at its maximum (R434). -/
def satAdd (x : W64) (n : Nat) : W64 := BitVec.ofNat 64 (min (x.toNat + n) (2 ^ 64 - 1))

/-- Counts n events of a kind at a core; missed promises also in HM_MISS (R121, R434). -/
def State.countEvent (s : State) (c ev n : Nat) : State :=
  let cr := s.core c
  let hm := s.hm
  let s := if ev = evMissed then { s with hm := { hm with miss := satAdd hm.miss n } } else s
  s.setCore c { cr with events := cr.events.put 0 ev (cr.events.getD ev 0 + n) }

/-! ## Events -/

/-- An event that happens when its occasion is at hand. -/
def eventIf (c : Bool) (name : String) (s : State) : Host.Outcome State Fault Refusal :=
  if c then .next s else .refused (.notEnabled name)

end Sys2Proof.Machine
end

