-- ==== Sys2Proof/Machine/Operands.lean ====
section
/-! DEFINITION. The operand forms: element types (R182, R183, R257), elements of vector registers (R256),
integer readings and their narrowing. -/

namespace Sys2Proof.Machine

/-! ## Element types, by their WMODE.ET and WMODE.ST codes (R182) -/

/-- bits(T); 0 for the codes that no register holds. -/
def typeBits (t : Nat) : Nat :=
  match t with
  | 0 => 32 | 1 => 32 | 2 => 64 | 3 => 64 | 4 => 32 | 5 => 64 | 6 => 16 | 7 => 16
  | 8 => 8 | 9 => 8 | 13 => 8 | 14 => 8 | _ => 0

/-- Is the integer type signed? -/
def typeSigned (t : Nat) : Bool := t == 0 || t == 2 || t == 13

/-- The set INT of R257. -/
def isInt (t : Nat) : Bool := t ∈ [0, 1, 2, 3, 13, 14]

/-- The set FLT of R257. -/
def isFlt (t : Nat) : Bool := t ∈ [4, 5, 6, 7]

/-- The set MOV of R257, which CVT equals. -/
def isMov (t : Nat) : Bool := isInt t || isFlt t || t == 8 || t == 9

/-- The registers that an element of type T named by v takes (R183). -/
def pairOf (t v : Nat) : List Nat := if typeBits t = 64 then [v, v + 1] else [v]

/-- The execution checks of R257 on an instruction of type T that reads or writes the element registers
`vs`: T is in the accepted set (SUB 5); no register of a pair lies at or above the allotment (SUB 3, R23);
no pair is odd (SUB 4). -/
def Warp.typed (w : Warp) (ok : Bool) (t : Nat) (vs : List Nat) : Res Unit := do
  need ok ILLEGAL 5
  if typeBits t = 64 then do
    w.has (vs.map (· + 1))
    aligned 2 vs

/-! ## Elements (R256) -/

/-- get(v, l, T), as the element's bits. -/
def Regs.get (r : Regs) (v l t : Nat) : Nat :=
  if typeBits t = 64 then (r.rdV v l).toNat + 2 ^ 32 * (r.rdV (v + 1) l).toNat
  else (r.rdV v l).toNat % 2 ^ typeBits t

/-- put(v, l, T, x), x the element's bits; a narrow type zeroes the bits above it (R183). -/
def Regs.set (r : Regs) (v l t x : Nat) : Regs :=
  if typeBits t = 64 then (r.wrV v l (BitVec.ofNat 32 x)).wrV (v + 1) l (BitVec.ofNat 32 (x / 2 ^ 32))
  else r.wrV v l (BitVec.ofNat 32 (x % 2 ^ typeBits t))

def Warp.get (w : Warp) (v l t : Nat) : Nat := w.regs.get v l t
def Warp.set (w : Warp) (v l t x : Nat) : Warp := { w with regs := w.regs.set v l t x }

/-- Writes one element in each of some lanes, every value computed before (R13). -/
def Warp.setLanes (w : Warp) (v t : Nat) (xs : List (Nat × Nat)) : Warp :=
  xs.foldl (fun w p => w.set v p.1 t p.2) w

/-- Computes and writes one element in each active lane; all lanes read before any is written (R13). -/
def Warp.mapLanes (w : Warp) (v t : Nat) (f : Nat → Nat) : Warp :=
  w.setLanes v t (w.lanes.map fun l => (l, f l))

/-! ## Integers (R182, R256) -/

/-- The integer that the low n bits of x read as in two's complement. -/
def toSigned (n x : Nat) : Int :=
  let y := x % 2 ^ n
  if 2 * y < 2 ^ n then (y : Int) else (y : Int) - 2 ^ n

/-- The integer that an element of integer type T reads as. -/
def intOf (t x : Nat) : Int := if typeSigned t then toSigned (typeBits t) x else (x % 2 ^ typeBits t : Nat)

/-- The low n bits of an integer. -/
def lowBits (n : Nat) (x : Int) : Nat := (x % (2 ^ n : Nat)).toNat

/-- The least and greatest values of an integer type. -/
def intMin (t : Nat) : Int := if typeSigned t then -(2 ^ (typeBits t - 1) : Nat) else 0
def intMax (t : Nat) : Int :=
  if typeSigned t then (2 ^ (typeBits t - 1) : Nat) - 1 else (2 ^ typeBits t : Nat) - 1

/-- x clamped to T's range. -/
def clampInt (t : Nat) (x : Int) : Int := max (intMin t) (min (intMax t) x)

/-- wrap(x, T), as bits. -/
def wrapInt (t : Nat) (x : Int) : Nat := lowBits (typeBits t) x

/-- fit(x, T), as bits (R256). -/
def fitInt (sat : Bool) (t : Nat) (x : Int) : Nat :=
  if sat then wrapInt t (clampInt t x) else wrapInt t x

/-- The quotient of a floor division by 2^k. -/
def floorShift (x : Int) (k : Nat) : Int := x / (2 ^ k : Nat)

/-- Leading zero bits of the low n bits of x. -/
def clzBits : Nat → Nat → Nat
  | 0, _ => 0
  | n + 1, x => if x.testBit n then 0 else clzBits n x + 1

/-- Set bits among the low n bits of x. -/
def popBits : Nat → Nat → Nat
  | 0, _ => 0
  | n + 1, x => (if x.testBit n then 1 else 0) + popBits n x

/-- The low n bits of x in reverse order. -/
def revBits : Nat → Nat → Nat
  | 0, _ => 0
  | n + 1, x => (if x.testBit n then 1 else 0) + 2 * revBits n x

/-! ## Displacements (R234) -/

/-- The signed reading of an n-bit displacement, times 4, as a 64-bit address difference. -/
def dispC (i : BitVec 25) : W64 := i.signExtend 64 <<< 2
def dispL (i : BitVec 18) : W64 := i.signExtend 64 <<< 2

end Sys2Proof.Machine
end

