-- ==== Sys2Proof/Machine/Float.lean ====
section
/-! DEFINITION. Floating-point numbers: encodings (R184), exact values, and rounding (R185, R188 to R193).
A finite value is ± m * 2^e exactly. -/

namespace Sys2Proof.Machine

/-- The value of a floating-point operand. -/
inductive FpNum where
  | nan (signalling : Bool)
  | inf (neg : Bool)
  | fin (neg : Bool) (m : Nat) (e : Int)
  deriving DecidableEq, Repr

/-- Fraction and exponent bits of a floating-point type (R184). -/
def fracBits (t : Nat) : Nat :=
  match t with
  | 4 => 23 | 5 => 52 | 6 => 10 | 7 => 7 | 8 => 3 | 9 => 2 | _ => 0

def expBits (t : Nat) : Nat :=
  match t with
  | 4 => 8 | 5 => 11 | 6 => 5 | 7 => 8 | 8 => 4 | 9 => 5 | _ => 0

/-- The exponent bias (R184). -/
def biasOf (t : Nat) : Int := (2 ^ (expBits t - 1) : Nat) - 1

/-- The exponent of the least quantum, 1 - bias - fraction bits. -/
def qminOf (t : Nat) : Int := 1 - biasOf t - fracBits t

/-- The exponent of the quantum of the largest finite value. -/
def qmaxOf (t : Nat) : Int := (if t = 8 then biasOf t + 1 else biasOf t) - fracBits t

/-- The significand of the largest finite value; E4M3's is 1.110 in binary (R184). -/
def maxMant (t : Nat) : Nat := if t = 8 then 14 else 2 ^ (fracBits t + 1) - 1

/-- The sign bit's place. -/
def signAt (t : Nat) : Nat := fracBits t + expBits t

/-- The sign bit's value in an encoding. -/
def signBits (t : Nat) (neg : Bool) : Nat := if neg then 2 ^ signAt t else 0

/-- The canonical NaN (R184). -/
def canonNan (t : Nat) : Nat :=
  if t = 8 then 0x7F
  else (2 ^ expBits t - 1) * 2 ^ fracBits t + 2 ^ (fracBits t - 1)

/-- The encoding of an infinity, for a type that has one. -/
def infBits (t : Nat) (neg : Bool) : Nat := signBits t neg + (2 ^ expBits t - 1) * 2 ^ fracBits t

/-- The encoding of n quanta 2^q, n below 2^(fraction bits + 1) (R184). -/
def packBits (t : Nat) (neg : Bool) (n : Nat) (q : Int) : Nat :=
  signBits t neg + (q - qminOf t).toNat * 2 ^ fracBits t + n

/-- The encoding of the largest finite value. -/
def maxBits (t : Nat) (neg : Bool) : Nat := packBits t neg (maxMant t) (qmaxOf t)

/-- The value of an encoding (R184). A NaN is signalling when its type has signalling NaNs and the leading
fraction bit is clear. -/
def decodeNum (t x : Nat) : FpNum :=
  let f := x % 2 ^ fracBits t
  let e := x / 2 ^ fracBits t % 2 ^ expBits t
  let neg := x.testBit (signAt t)
  if t = 8 then
    if e = 15 ∧ f = 7 then .nan false
    else if e = 0 then .fin neg f (qminOf t)
    else .fin neg (f + 8) (qminOf t + (e - 1 : Nat))
  else if e = 2 ^ expBits t - 1 then
    if f = 0 then .inf neg else .nan (!f.testBit (fracBits t - 1))
  else if e = 0 then .fin neg f (qminOf t)
  else .fin neg (f + 2 ^ fracBits t) (qminOf t + (e - 1 : Nat))

/-- Is the encoding a subnormal number? -/
def isSubnormal (t x : Nat) : Bool :=
  x / 2 ^ fracBits t % 2 ^ expBits t == 0 && x % 2 ^ fracBits t != 0

/-! ## Exceptions, in the order of cr.fstat (R194) -/

abbrev Exc := BitVec 5
def NV : Exc := 1
def DZ : Exc := 2
def OF : Exc := 4
def UF : Exc := 8
def NX : Exc := 16

/-! ## Rounding (R188, R189) -/

/-- m * 2^e, with something more when `sticky`, in quanta 2^q: the rounded count and whether it is inexact.
`draw` is RSR's 24-bit number. -/
def roundAt (rm : Nat) (neg : Bool) (draw m : Nat) (e : Int) (sticky : Bool) (q : Int) : Nat × Bool :=
  let sh := (q - e).toNat
  let n := m * 2 ^ (e - q).toNat
  let lo := n / 2 ^ sh
  let rem := n % 2 ^ sh
  let inex := rem != 0 || sticky
  let up :=
    match rm with
    | 0 => decide (2 * rem > 2 ^ sh) || (decide (2 * rem = 2 ^ sh) && (sticky || lo % 2 == 1))
    | 1 => false
    | 2 => neg && inex
    | 3 => !neg && inex
    | 4 => decide (2 * rem ≥ 2 ^ sh)
    | _ => inex && decide (rem * 2 ^ 24 / 2 ^ sh + draw ≥ 2 ^ 24)
  (if up then lo + 1 else lo, inex)

/-- The exponent of the leading bit of m * 2^e, m positive. -/
def leadExp (m : Nat) (e : Int) : Int := e + Nat.log2 m

/-- Brings a wild exponent into a range beyond every type's, so that no power of two is larger than needed:
what overflows still overflows, what is smaller than every quantum still is (R191). -/
def tameExp (m : Nat) (e : Int) : Nat × Int :=
  if m = 0 then (0, 0)
  else if 5000 < e then (m, 5000)
  else if leadExp m e < -5000 then (1, -5000)
  else (m, e)

/-- What an overflow gives (R191, step 2). -/
def overflowBits (t rm : Nat) (sat neg : Bool) : Nat :=
  if sat then maxBits t neg
  else if t = 8 then canonNan t
  else
    match rm with
    | 1 => maxBits t neg
    | 2 => if neg then infBits t neg else maxBits t neg
    | 3 => if neg then maxBits t neg else infBits t neg
    | _ => infBits t neg

/-- round_to of a finite value (R191 steps 1 and 2), with its exceptions; tininess is detected after
rounding (R194). -/
def roundFin (t rm : Nat) (sat : Bool) (draw : Nat) (neg : Bool) (m0 : Nat) (e0 : Int) (sticky : Bool) :
    Nat × Exc :=
  if m0 = 0 then (signBits t neg, 0)
  else
    let (m, e) := tameExp m0 e0
    let fb := fracBits t
    let qu := leadExp m e - fb
    let q := max qu (qminOf t)
    let (n, inex) := roundAt rm neg draw m e sticky q
    let (nu, _) := roundAt rm neg draw m e sticky qu
    let tiny := decide (qu < qminOf t) && decide (nu < 2 ^ (fb + (qminOf t - qu).toNat))
    if decide (qmaxOf t < q) || (decide (q = qmaxOf t) && decide (maxMant t < n)) then
      (overflowBits t rm sat neg, OF ||| NX)
    else (packBits t neg n q,
      (if inex then NX else 0) ||| (if inex && tiny then UF else 0))

/-- round_to(x, T, rm) (R191), `sat` being WMODE.SAT. An infinity to E4M3 raises no exception, as an infinity raises none to a type
that has one (DEDUCED: log 124). -/
def roundTo (t rm : Nat) (sat : Bool) (draw : Nat) (x : FpNum) (sticky : Bool := false) : Nat × Exc :=
  match x with
  | .nan sig => (canonNan t, if sig then NV else 0)
  | .inf neg =>
    if t = 8 then (if sat then maxBits t neg else canonNan t, 0) else (infBits t neg, 0)
  | .fin neg m e => roundFin t rm sat draw neg m e sticky

/-- Flushes an encoding that is subnormal to a zero of its sign (R193). -/
def flushBits (t x : Nat) : Nat := if isSubnormal t x then signBits t (x.testBit (signAt t)) else x

/-- fin (R256): the value of an operand, subnormals flushed under FTZ. -/
def finNum (ftz : Bool) (t x : Nat) : FpNum := decodeNum t (if ftz then flushBits t x else x)

/-- Rounding mode of arithmetic: RNE under RSR (R188). -/
def arithRm (rm : Nat) : Nat := if rm = 5 then 0 else rm

/-- fres (R256): rounds by WMODE.RM, and flushes a subnormal result under FTZ (R193). -/
def fresNum (mode : W64) (t : Nat) (x : FpNum) (sticky : Bool) (exc : Exc) : Nat × Exc :=
  let (b, e) := roundTo t (arithRm (wmRM mode)) (wmSAT mode) 0 x sticky
  if wmFTZ mode && isSubnormal t b then (flushBits t b, exc ||| e ||| UF ||| NX) else (b, exc ||| e)

/-! ## Exact arithmetic -/

/-- The exceptions of NaN operands: invalid for a signalling one (R185). -/
def nanExc (x : FpNum) : Exc := match x with | .nan true => NV | _ => 0

def isNan (x : FpNum) : Bool := match x with | .nan _ => true | _ => false

/-- The signed value of a finite number in quanta 2^q, q not above its exponent. -/
def scaled (neg : Bool) (m : Nat) (e q : Int) : Int :=
  let v : Int := (m * 2 ^ (e - q).toNat : Nat)
  if neg then -v else v

/-- The exact sum. An exact zero of operands of opposite sign is +0, or -0 under RDN (R273). -/
def addNum (rm : Nat) (x y : FpNum) : FpNum × Exc :=
  match x, y with
  | .nan a, .nan b => (.nan false, nanExc (.nan a) ||| nanExc (.nan b))
  | .nan a, _ => (.nan false, nanExc (.nan a))
  | _, .nan b => (.nan false, nanExc (.nan b))
  | .inf a, .inf b => if a = b then (.inf a, 0) else (.nan false, NV)
  | .inf a, .fin _ _ _ => (.inf a, 0)
  | .fin _ _ _, .inf b => (.inf b, 0)
  | .fin a m e, .fin b n f =>
    let q := if m = 0 then f else if n = 0 then e else min e f
    if m = 0 ∧ n = 0 then (.fin (if a = b then a else rm == 2) 0 0, 0)
    else
      let v := scaled a m (if m = 0 then q else e) q + scaled b n (if n = 0 then q else f) q
      if v = 0 then (.fin (rm == 2) 0 0, 0) else (.fin (decide (v < 0)) v.natAbs q, 0)

def negNum (x : FpNum) : FpNum :=
  match x with
  | .nan a => .nan a
  | .inf a => .inf (!a)
  | .fin a m e => .fin (!a) m e

/-- The exact product. -/
def mulNum (x y : FpNum) : FpNum × Exc :=
  match x, y with
  | .nan a, .nan b => (.nan false, nanExc (.nan a) ||| nanExc (.nan b))
  | .nan a, _ => (.nan false, nanExc (.nan a))
  | _, .nan b => (.nan false, nanExc (.nan b))
  | .inf a, .inf b => (.inf (a != b), 0)
  | .inf a, .fin b m _ => if m = 0 then (.nan false, NV) else (.inf (a != b), 0)
  | .fin a m _, .inf b => if m = 0 then (.nan false, NV) else (.inf (a != b), 0)
  | .fin a m e, .fin b n f => (.fin (a != b) (m * n) (e + f), 0)

/-- x * y + z, exactly; infinity times zero raises invalid whatever z is (R273). -/
def fmaNum (rm : Nat) (x y z : FpNum) : FpNum × Exc :=
  let (p, e) := mulNum x y
  let (r, f) := addNum rm p z
  (r, e ||| f)

/-- Is x below y, for operands that are not NaN? The sign of zero does not count. -/
def ltNum (x y : FpNum) : Bool :=
  match x, y with
  | .inf a, .inf b => a && !b
  | .inf a, .fin _ _ _ => a
  | .fin _ _ _, .inf b => !b
  | .fin a m e, .fin b n f =>
    let q := if m = 0 then f else if n = 0 then e else min e f
    decide (scaled a m (if m = 0 then q else e) q < scaled b n (if n = 0 then q else f) q)
  | _, _ => false

def eqNum (x y : FpNum) : Bool := !isNan x && !isNan y && !ltNum x y && !ltNum y x

def isNegNum (x : FpNum) : Bool :=
  match x with
  | .nan _ => false
  | .inf a => a
  | .fin a _ _ => a

def isZeroNum (x : FpNum) : Bool := match x with | .fin _ 0 _ => true | _ => false

/-- FMIN (R272): -0 below +0; one NaN gives the other operand; a signalling NaN raises invalid. -/
def minNum (x y : FpNum) : FpNum × Exc :=
  let e := nanExc x ||| nanExc y
  if isNan x && isNan y then (.nan false, e)
  else if isNan x then (y, e)
  else if isNan y then (x, e)
  else if ltNum x y || (eqNum x y && isNegNum x) then (x, e) else (y, e)

/-- FMAX (R272). -/
def maxNum (x y : FpNum) : FpNum × Exc :=
  let e := nanExc x ||| nanExc y
  if isNan x && isNan y then (.nan false, e)
  else if isNan x then (y, e)
  else if isNan y then (x, e)
  else if ltNum y x || (eqNum x y && !isNegNum x) then (x, e) else (y, e)

/-- x * 2^k (R272 FSCALE, R274 FCVTS). -/
def scaleNum (x : FpNum) (k : Int) : FpNum :=
  match x with
  | .fin a m e => .fin a m (e + k)
  | x => x

/-- The floor of the square root of x below 4^n, bit by bit. -/
def isqrtLoop : Nat → Nat → Nat → Nat
  | 0, _, r => r
  | n + 1, x, r =>
    let c := r + 2 ^ n
    if c * c ≤ x then isqrtLoop n x c else isqrtLoop n x r

def isqrt (x : Nat) : Nat := isqrtLoop (Nat.log2 x / 2 + 1) x 0

/-- A quotient to at least 130 significant bits, and whether more follows (R276). -/
def quotBits (m n : Nat) : Nat × Int × Bool :=
  let k := 131 + Nat.log2 n
  (m * 2 ^ k / n, -(k : Int), m * 2 ^ k % n != 0)

/-- The square root of m * 2^e to at least 100 bits. -/
def sqrtBits (m : Nat) (e : Int) : Nat × Int × Bool :=
  let odd := e % 2 != 0
  let m' := (if odd then 2 * m else m) * 2 ^ 260
  let e' := (if odd then e - 1 else e) - 260
  let r := isqrt m'
  (r, e' / 2, r * r != m')

/-- 1 / sqrt(m * 2^e) to at least 100 bits. -/
def rsqrtBits (m : Nat) (e : Int) : Nat × Int × Bool :=
  let odd := e % 2 != 0
  let m' := if odd then 2 * m else m
  let e' := if odd then e - 1 else e
  let k := 160 + Nat.log2 m'
  let r := isqrt (2 ^ (2 * k) / m')
  (r, -(k : Int) - e' / 2, r * r * m' != 2 ^ (2 * k))

/-- x / y before rounding (R276). -/
def divNum (x y : FpNum) : FpNum × Bool × Exc :=
  match x, y with
  | .nan a, .nan b => (.nan false, false, nanExc (.nan a) ||| nanExc (.nan b))
  | .nan a, _ => (.nan false, false, nanExc (.nan a))
  | _, .nan b => (.nan false, false, nanExc (.nan b))
  | .inf _, .inf _ => (.nan false, false, NV)
  | .inf a, .fin b _ _ => (.inf (a != b), false, 0)
  | .fin a _ _, .inf b => (.fin (a != b) 0 0, false, 0)
  | .fin a m e, .fin b n f =>
    if n = 0 then
      if m = 0 then (.nan false, false, NV) else (.inf (a != b), false, DZ)
    else if m = 0 then (.fin (a != b) 0 0, false, 0)
    else
      let (r, k, st) := quotBits m n
      (.fin (a != b) r (k + e - f), st, 0)

/-- The square root before rounding (R276). -/
def sqrtNum (x : FpNum) : FpNum × Bool × Exc :=
  match x with
  | .nan a => (.nan false, false, nanExc (.nan a))
  | .inf a => if a then (.nan false, false, NV) else (.inf false, false, 0)
  | .fin a m e =>
    if m = 0 then (.fin a 0 0, false, 0)
    else if a then (.nan false, false, NV)
    else
      let (r, k, st) := sqrtBits m e
      (.fin false r k, st, 0)

/-- The reciprocal square root before rounding (R276). -/
def rsqrtNum (x : FpNum) : FpNum × Bool × Exc :=
  match x with
  | .nan a => (.nan false, false, nanExc (.nan a))
  | .inf a => if a then (.nan false, false, NV) else (.fin false 0 0, false, 0)
  | .fin a m e =>
    if m = 0 then (.inf a, false, DZ)
    else if a then (.nan false, false, NV)
    else
      let (r, k, st) := rsqrtBits m e
      (.fin false r k, st, 0)

/-! ## Integers -/

/-- A finite value rounded to an integer (R192). -/
def roundInt (rm : Nat) (draw : Nat) (neg : Bool) (m0 : Nat) (e0 : Int) : Int × Bool :=
  let (m, e) := tameExp m0 e0
  let (n, inex) := if m = 0 then (0, false) else roundAt rm neg draw m e false 0
  (if neg then -(n : Int) else n, inex)

/-- A floating-point value converted to integer type T (R192). -/
def toIntType (t rm draw : Nat) (x : FpNum) : Nat × Exc :=
  match x with
  | .nan _ => (0, NV)
  | .inf neg => (wrapInt t (if neg then intMin t else intMax t), NV)
  | .fin neg m e =>
    let (v, inex) := roundInt rm draw neg m e
    if v < intMin t ∨ intMax t < v then (wrapInt t (clampInt t v), NV)
    else (wrapInt t v, if inex then NX else 0)

/-- An integer as an exact value. -/
def numOfInt (v : Int) : FpNum := .fin (decide (v < 0)) v.natAbs 0

end Sys2Proof.Machine
end

