-- ==== Sys2Proof/Machine/Flags.lean ====
section
/-! DEFINITION. Flags: the exceptions of an instruction's lanes, cr.fstat and the arithmetic trap (R194, R195),
cr.qstat (R197), cr.mstat (R126), and the RSR generators (R189, R190). -/

namespace Sys2Proof.Machine

/-- All the exceptions of some lanes. -/
def orExc (xs : List (Nat × Exc)) : Exc := xs.foldl (fun a p => a ||| p.2) 0

/-- finish() (R256): the arithmetic trap when a lane has an enabled exception, else every exception is ORed
into cr.fstat. -/
def Warp.finish (w : Warp) (xs : List (Nat × Exc)) : Res Warp :=
  let en := wmIEN w.ctl.wmode
  let bad := xs.filter fun p => p.2 &&& en != 0
  if bad.isEmpty then .ok { w with stat := { w.stat with fstat := w.stat.fstat ||| orExc xs } }
  else raiseIn ARITHMETIC (orExc bad &&& en).toNat (maskOf (bad.map Prod.fst))

/-- Sets flags of cr.qstat (R197). -/
def Warp.qflag (w : Warp) (f : BitVec 4) : Warp :=
  { w with stat := { w.stat with qstat := w.stat.qstat ||| f } }

def QSAT : BitVec 4 := 1
def QNAN : BitVec 4 := 2
def QESC : BitVec 4 := 4
def QUFL : BitVec 4 := 8

/-- ZCNT + n, saturating at 255, and the flag bits set (R126). -/
def mstatAdd (m : W64) (flags : W64) (n : Nat) : W64 :=
  let z := min 255 (bits m 8 8 + n)
  BitVec.ofNat 64 (bits (m ||| flags) 0 8 + 256 * z)

/-- The generator state that a seed gives lane l (R190). -/
def seedGen (seed : BitVec 32) (l : Nat) : W32 :=
  let g := seed ^^^ BitVec.ofNat 32 (0x9E3779B9 * (l + 1))
  if g = 0 then 1 else g

/-- The generator state of lane l. -/
def Warp.genOf (w : Warp) (l : Nat) : W32 := w.stat.gen.getD l (seedGen 0 l)

/-- One advance of a generator (R189). -/
def stepGen (g : W32) : W32 :=
  let g := g ^^^ (g <<< 13)
  let g := g ^^^ (g >>> 17)
  g ^^^ (g <<< 5)

/-- The number that a generator state yields: its bits 31:8. -/
def drawOf (g : W32) : Nat := g.toNat / 256

/-- The state of a lane after n draws. -/
def Warp.genAfter (w : Warp) (l : Nat) : Nat → W32
  | 0 => w.genOf l
  | n + 1 => stepGen (w.genAfter l n)

/-- The n-th draw of a lane, counted from 0. -/
def Warp.drawAt (w : Warp) (l n : Nat) : Nat := drawOf (w.genAfter l (n + 1))

/-- n draws taken in each of some lanes. -/
def Warp.drawn (w : Warp) (ls : List Nat) (n : Nat) : Warp :=
  let g := ls.foldl (fun g l => FMap.put g (seedGen 0 l) l (w.genAfter l n)) w.stat.gen
  { w with stat := { w.stat with gen := g } }

/-- Every lane's generator as a seed leaves it (R190). -/
def seededGens (w : Nat) (seed : BitVec 32) : FMap W32 :=
  (List.range w).foldl (fun g l => FMap.put g (seedGen 0 l) l (seedGen seed l)) []

/-- A write of cr.rseed reseeds every lane (R190). -/
def Warp.reseed (w : Warp) (seed : BitVec 32) : Warp :=
  { w with stat := { w.stat with rseed := seed, gen := seededGens w.id.width seed } }

end Sys2Proof.Machine
end

