-- ==== Sys2Proof/Machine/FloatOps.lean ====
section
/-! DEFINITION. FALU, FFMA and VCMP (R271 to R273). -/

namespace Sys2Proof.Machine

/-- What one lane of a floating-point instruction yields: its result's bits and its exceptions. -/
abbrev LaneRes := Nat × Exc

/-- Writes the lanes' results after finish() (R256). -/
def Warp.floatOut (w : Warp) (d t : Nat) (rs : List (Nat × LaneRes)) : Res Warp := do
  let w' ← w.finish (rs.map fun p => (p.1, p.2.2))
  .ok (w'.setLanes d t (rs.map fun p => (p.1, p.2.1)))

/-- The shape of a floating-point instruction: the accepted types, the element registers checked by R257,
and each active lane's result. -/
def floatOp (set : Nat → Bool) (named elems : List Nat) (d : VReg)
    (f : Warp → Nat → Nat → LaneRes) (s : State) : Host.Outcome State Fault Refusal :=
  let w := s.cw
  let t := wmET w.ctl.wmode
  commitW s false do
    w.has named
    w.typed (set t) t elems
    let w' ← w.floatOut d.val t (w.lanes.map fun l => (l, f w t l))
    .ok w'.advance

/-- The operand in lane l, flushed under FTZ (R272). -/
def Warp.num (w : Warp) (v l t : Nat) : FpNum := finNum (wmFTZ w.ctl.wmode) t (w.get v l t)

/-- fres of an exact value. -/
def Warp.fres (w : Warp) (t : Nat) (r : FpNum × Exc) : LaneRes := fresNum w.ctl.wmode t r.1 false r.2

/-- A result that is one of the operands: written as it is, a NaN as the canonical one (R185). -/
def pickBits (t : Nat) (r : FpNum × Exc) : LaneRes := ((roundTo t 0 false 0 r.1).1, r.2)

def float2 (f : Warp → Nat → FpNum → FpNum → LaneRes) (d a b : VReg) (s : State) :=
  floatOp isFlt [d.val, a.val, b.val] [d.val, a.val, b.val] d
    (fun w t l => f w t (w.num a.val l t) (w.num b.val l t)) s

def execFadd (d a b : VReg) (s : State) :=
  float2 (fun w t x y => w.fres t (addNum (wmRM w.ctl.wmode) x y)) d a b s
def execFsub (d a b : VReg) (s : State) :=
  float2 (fun w t x y => w.fres t (addNum (wmRM w.ctl.wmode) x (negNum y))) d a b s
def execFmul (d a b : VReg) (s : State) := float2 (fun w t x y => w.fres t (mulNum x y)) d a b s
def execFmin (d a b : VReg) (s : State) := float2 (fun _ t x y => pickBits t (minNum x y)) d a b s
def execFmax (d a b : VReg) (s : State) := float2 (fun _ t x y => pickBits t (maxNum x y)) d a b s

/-- The shape of the raw one-source instructions (R272). -/
def floatRaw (f : Nat → Nat → Nat) (d a : VReg) (s : State) :=
  floatOp isFlt [d.val, a.val] [d.val, a.val] d (fun w t l => (f t (w.get a.val l t), 0)) s

def clearSign (t x : Nat) : Nat := x % 2 ^ signAt t
def flipSign (t x : Nat) : Nat := if x.testBit (signAt t) then x - 2 ^ signAt t else x + 2 ^ signAt t

def execFabs (d a : VReg) (s : State) := floatRaw clearSign d a s
def execFneg (d a : VReg) (s : State) := floatRaw flipSign d a s

/-- The one-hot class mask of an encoding (R272). -/
def classMask (t x : Nat) : Nat :=
  match decodeNum t x with
  | .nan true => 2 ^ 8
  | .nan false => 2 ^ 9
  | .inf true => 2 ^ 0
  | .inf false => 2 ^ 7
  | .fin neg m _ =>
    if m = 0 then (if neg then 2 ^ 3 else 2 ^ 4)
    else if isSubnormal t x then (if neg then 2 ^ 2 else 2 ^ 5)
    else if neg then 2 ^ 1 else 2 ^ 6

/-- FCLASS writes one 32-bit register whatever T is (R272). -/
def execFclass (d a : VReg) (s : State) : Host.Outcome State Fault Refusal :=
  let w := s.cw
  let t := wmET w.ctl.wmode
  commitW s false do
    w.has [d.val, a.val]
    w.typed (isFlt t) t [a.val]
    .ok (w.mapLanes d.val 1 fun l => classMask t (w.get a.val l t)).advance

/-- FSCALE reads k from a single register whatever T is (R272). -/
def execFscale (d a b : VReg) (s : State) :=
  floatOp isFlt [d.val, a.val, b.val] [d.val, a.val] d
    (fun w t l =>
      let x := w.num a.val l t
      w.fres t (if isNan x then .nan false else scaleNum x (w.rdV b.val l).toInt, nanExc x)) s

/-- An encoding rounded to an integral value of its type; inexact is not raised (R272 FRND). -/
def rndNum (rm : Nat) (x : FpNum) : FpNum × Exc :=
  match x with
  | .nan sig => (.nan false, nanExc (.nan sig))
  | .inf a => (.inf a, 0)
  | .fin a m e => if 0 ≤ e then (.fin a m e, 0) else (.fin a (roundInt rm 0 a m e).1.natAbs 0, 0)

def execFrnd (d a : VReg) (s : State) :=
  floatOp isFlt [d.val, a.val] [d.val, a.val] d
    (fun w t l => pickBits t (rndNum (arithRm (wmRM w.ctl.wmode)) (w.num a.val l t))) s

def execFcsgn (d a b : VReg) (s : State) :=
  floatOp isFlt [d.val, a.val, b.val] [d.val, a.val, b.val] d
    (fun w t l =>
      (clearSign t (w.get a.val l t) + signBits t ((w.get b.val l t).testBit (signAt t)), 0)) s

/-- The shape of FFMA (R273): z is the destination's old element. -/
def float3 (f : Nat → FpNum → FpNum → FpNum → FpNum × Exc) (d a b : VReg) (s : State) :=
  floatOp isFlt [d.val, a.val, b.val] [d.val, a.val, b.val] d
    (fun w t l =>
      w.fres t (f (wmRM w.ctl.wmode) (w.num a.val l t) (w.num b.val l t) (w.num d.val l t))) s

def execFfma (d a b : VReg) (s : State) := float3 (fun rm x y z => fmaNum rm x y z) d a b s
def execFfms (d a b : VReg) (s : State) := float3 (fun rm x y z => fmaNum rm x y (negNum z)) d a b s
def execFnma (d a b : VReg) (s : State) := float3 (fun rm x y z => fmaNum rm (negNum x) y z) d a b s

/-! ## VCMP (R271) -/

/-- The integer comparisons: signed readings for fn 2 to 5 of a signed type, unsigned for fn 6 to 9. -/
def intCmp (fn t x y : Nat) : Bool :=
  let a := intOf t x
  let b := intOf t y
  match fn with
  | 0 => x == y
  | 1 => x != y
  | 2 => decide (a < b)
  | 3 => decide (a ≤ b)
  | 4 => decide (b < a)
  | 5 => decide (b ≤ a)
  | 6 => decide (x < y)
  | 7 => decide (x ≤ y)
  | 8 => decide (y < x)
  | _ => decide (y ≤ x)

/-- The floating-point comparisons. -/
def fltCmp (fn : Nat) (x y : FpNum) : Bool :=
  let u := isNan x || isNan y
  match fn with
  | 0 => eqNum x y
  | 1 => u || !eqNum x y
  | 2 => ltNum x y
  | 3 => ltNum x y || eqNum x y
  | 4 => ltNum y x
  | 5 => ltNum y x || eqNum x y
  | 6 => u || ltNum x y
  | 7 => u || ltNum x y || eqNum x y
  | 8 => u || ltNum y x
  | 9 => u || ltNum y x || eqNum x y
  | 10 => u
  | _ => !u

/-- Invalid: any NaN for fn 2 to 5, a signalling NaN otherwise. -/
def fltCmpExc (fn : Nat) (x y : FpNum) : Exc :=
  if 2 ≤ fn ∧ fn ≤ 5 then (if isNan x || isNan y then NV else 0) else nanExc x ||| nanExc y

/-- VCMP with comparison `fn` (R271). -/
def vecCmp (fn : Nat) (d : PReg) (a b : VReg) (s : State) : Host.Outcome State Fault Refusal :=
  let w := s.cw
  let t := wmET w.ctl.wmode
  commitW s false do
    w.has [a.val, b.val]
    w.typed (isFlt t || isInt t) t [a.val, b.val]
    need (isFlt t || decide (fn < 10)) ILLEGAL 5
    if isFlt t then do
      let num := fun v l => decodeNum t (w.get v l t)
      let w' ← w.finish (w.lanes.map fun l => (l, fltCmpExc fn (num a.val l) (num b.val l)))
      .ok (w'.wrP d.val w.active
        (maskOf (w.lanes.filter fun l => fltCmp fn (num a.val l) (num b.val l)))).advance
    else
      .ok (w.wrP d.val w.active
        (maskOf (w.lanes.filter fun l => intCmp fn t (w.get a.val l t) (w.get b.val l t)))).advance

def execVcmpEq (d : PReg) (a b : VReg) (s : State) := vecCmp 0 d a b s
def execVcmpNe (d : PReg) (a b : VReg) (s : State) := vecCmp 1 d a b s
def execVcmpLt (d : PReg) (a b : VReg) (s : State) := vecCmp 2 d a b s
def execVcmpLe (d : PReg) (a b : VReg) (s : State) := vecCmp 3 d a b s
def execVcmpGt (d : PReg) (a b : VReg) (s : State) := vecCmp 4 d a b s
def execVcmpGe (d : PReg) (a b : VReg) (s : State) := vecCmp 5 d a b s
def execVcmpLtu (d : PReg) (a b : VReg) (s : State) := vecCmp 6 d a b s
def execVcmpLeu (d : PReg) (a b : VReg) (s : State) := vecCmp 7 d a b s
def execVcmpGtu (d : PReg) (a b : VReg) (s : State) := vecCmp 8 d a b s
def execVcmpGeu (d : PReg) (a b : VReg) (s : State) := vecCmp 9 d a b s
def execVcmpUnord (d : PReg) (a b : VReg) (s : State) := vecCmp 10 d a b s
def execVcmpOrd (d : PReg) (a b : VReg) (s : State) := vecCmp 11 d a b s

end Sys2Proof.Machine
end

