-- ==== Sys2Proof/Machine/Divide.lean ====
section
/-! DEFINITION. FDSQ and the divide unit's later write of its results (R276, R277). -/

namespace Sys2Proof.Machine

/-- The elements of a result as register values. -/
def resultVals (d t : Nat) (rs : List (Nat × LaneRes)) : FMap W32 :=
  (rs.foldl (fun (r : Regs) p => r.set d p.1 t p.2.1) { v := [] }).v

/-- What FDIV, FSQRT and FRSQ do at issue: the checks, the arithmetic trap, and the result handed to the
divide unit; registers and cr.fstat are written by `execFdsqResult` (R276, R277). -/
def fdsqOp (named : List Nat) (d : VReg) (f : Warp → Nat → Nat → FpNum × Bool × Exc) (s : State) :
    Host.Outcome State Fault Refusal :=
  let w := s.cw
  let t := wmET w.ctl.wmode
  commitW s false do
    w.has named
    w.typed (isFlt t) t named
    let rs := w.lanes.map fun l =>
      let r := f w t l
      (l, fresNum w.ctl.wmode t r.1 r.2.1 r.2.2)
    let _ ← w.finish (rs.map fun p => (p.1, p.2.2))
    let r : FdsqResult :=
      { keys := w.lanes.flatMap fun l => (pairOf t d.val).map fun v => 64 * v + l
        vals := resultVals d.val t rs, dests := pairOf t d.val, exc := orExc (rs.map fun p => (p.1, p.2.2)) }
    .ok { w.advance with fdsq := w.fdsq ++ [r] }

def execFdiv (d a b : VReg) (s : State) :=
  fdsqOp [d.val, a.val, b.val] d (fun w t l => divNum (w.num a.val l t) (w.num b.val l t)) s
def execFsqrt (d a : VReg) (s : State) := fdsqOp [d.val, a.val] d (fun w t l => sqrtNum (w.num a.val l t)) s
def execFrsq (d a : VReg) (s : State) := fdsqOp [d.val, a.val] d (fun w t l => rsqrtNum (w.num a.val l t)) s

/-- Writes the oldest result of the divide unit and sets its flags (R277). -/
def Warp.writeFdsq (w : Warp) : Warp :=
  match w.fdsq with
  | [] => w
  | r :: rs =>
    let v := r.keys.foldl (fun v k => FMap.put v 0 k (r.vals.getD k 0)) w.regs.v
    { w.mend r.keys with
      regs := { w.regs with v := v }
      stat := { w.stat with fstat := w.stat.fstat ||| r.exc }
      fdsq := rs }

/-- The divide unit writes a result of the warp in a slot (R277). -/
def execFdsqResult (c : CoreId) (slot : SlotNo) (s : State) : Host.Outcome State Fault Refusal :=
  let w := s.warp c.val slot.val
  eventIf (!w.fdsq.isEmpty) "FDSQ_RESULT" (s.setWarp c.val slot.val w.writeFdsq)

end Sys2Proof.Machine
end

