-- ==== Sys2Proof/Machine/Directory.lean ====
section
/-! DEFINITION. Places and lines, the dies that they belong to (R33, R97, R100, R403), and the heddle directory's entries
as data (R142, R414, R415). -/

namespace Sys2Proof.Machine

/-! ## Places -/

def hostBase : Nat := 2 ^ 58
def scratchBase (core : Nat) : Nat := 2 ^ 59 + 2 ^ 19 * core
/-- A partition's share of a die's scratchpad, the first PT_DSP MiB of that die's window as the partition sees it (R410):
each partition's window stands at a base of its own, since the shares of enabled partitions never overlap (log 29). -/
def dieBase (part die : Nat) : Nat := 2 ^ 60 + 2 ^ 25 * (4 * part + die)

/-- The 1 MiB pieces of a die's window that a partition's share holds: is the place in the partition's shares? -/
def dieShareHas (part : Nat) (dsp : BitVec 32) (a : Nat) : Bool :=
  decide (2 ^ 60 ≤ a) && decide ((a - 2 ^ 60) / 2 ^ 27 = part) &&
    decide ((a - 2 ^ 60) % 2 ^ 25 < 2 ^ 20 * (dsp.toNat / 2 ^ (8 * ((a - 2 ^ 60) / 2 ^ 25 % 4)) % 256))

def isGlobalPlace (a : Nat) : Bool := decide (a < 2 ^ 58)
def isHostPlace (a : Nat) : Bool := decide (2 ^ 58 ≤ a) && decide (a < 2 ^ 59)
/-- Is the place cached in L1 (R97)? -/
def isCachedPlace (a : Nat) : Bool := decide (a < 2 ^ 59)
def isCorePlace (a : Nat) : Bool := decide (2 ^ 59 ≤ a) && decide (a < 2 ^ 60)

/-- The core whose scratchpad holds a place of a core's scratchpad. -/
def coreOfPlace (a : Nat) : Nat := (a - 2 ^ 59) / 2 ^ 19

/-- The 128-byte line of a place. -/
def lineOf (a : Nat) : Nat := a / 128 * 128

/-- The aligned poison unit of a place (R445). -/
def unitOf (a : Nat) : Nat := if isCachedPlace a then a / 8 * 8 else a / 4 * 4
def unitLen (a : Nat) : Nat := if isCachedPlace a then 8 else 4

/-! Core numbers (R33). -/
def dieOf (core : Nat) : Nat := core / 128 % 4
def clusterOf (core : Nat) : Nat := core / 4

/-- home_slice (R100): exclusive or of the 6-bit groups of bits 56:8. -/
def homeSlice (pa : Nat) : Nat :=
  ((List.range 9).foldl (fun h k =>
    h ^^^ (pa / 2 ^ (8 + 6 * k) % 2 ^ (min 6 (49 - 6 * k)))) 0) % 64

/-- The home die of a place in global or host space (R100, R403). -/
def homeDie (a : Nat) : Nat := if isHostPlace a then a / 256 % 4 else a / 2 ^ 37 % 4

/-- The die whose L2 holds a core's lines: its own; for a host line the one home die that every die uses (R100). -/
def sliceDie (c line : Nat) : Nat := if isHostPlace line then homeDie line else dieOf c

/-- Is it a line of device memory (R403)? -/
def deviceLine (line : Nat) : Bool := line % 128 == 0 && decide (line < 2 ^ 42) && decide (line % 2 ^ 36 < 48 * 2 ^ 30)

/-! ## Scopes (R128) -/

/-- Does a scope code, taken at core c, cover the warps of core x? -/
def covers (scope c x : Nat) : Bool :=
  match scope with
  | 0 => c == x
  | 1 => clusterOf c == clusterOf x
  | 2 => dieOf c == dieOf x
  | _ => true

/-! ## Directory entries (R414) -/

/-- The region of a line in the overflow table. -/
def region (line : Nat) : Nat := line / 4096

/-- The directory entry of a line. -/
def Heddle.entry (h : Heddle) (line : Nat) : Option DirEntry := h.dir.find? fun e => e.line == line

/-- POS of a place of device memory (R403). -/
def posOf (line : Nat) : Nat := line / 2 ^ 39 % 8

/-- Is any copy held beyond the home die, in the package at a position of the group? Of a line of another member's memory every
die of this package is beyond (R414). -/
def DirEntry.beyond (e : DirEntry) (pos : Nat) : Bool :=
  e.pkgv != 0 || (List.range 4).any fun d => (d != homeDie e.line || posOf e.line != pos) && e.dst.getD d 0 != 0

/-- A line's entry changes; one with no copy beyond the home die is freed (R414). -/
def Heddle.setEntry (h : Heddle) (pos : Nat) (e : DirEntry) : Heddle :=
  { h with dir := h.dir.flatMap fun x => if x.line = e.line then (if e.beyond pos then [e] else []) else [x] }

/-- A line of some entries changes in one die's state. -/
def giveUpIn (d line : Nat) (es : List DirEntry) : List DirEntry :=
  es.map fun e => if e.line = line then { e with dst := e.dst.set d 0 } else e

/-- A die gives a line up: its entry says so, whether it stands in the directory, among those to be rebuilt, or in a broadcast
region (R414, R415, R417). -/
def Heddle.giveUp (h : Heddle) (pos d line : Nat) : Heddle :=
  let h := { h with lostDir := (giveUpIn d line h.lostDir).filter fun e => e.beyond pos
                    bcast := if h.bcast.has (region line) then
                      h.bcast.ins (region line) (giveUpIn d line (h.bcast.getD (region line) [])) else h.bcast }
  match h.entry line with
  | some e => h.setEntry pos { e with dst := e.dst.set d 0 }
  | none => h

/-- The set of a line (R414). -/
def dirSet (pa : Nat) : Nat := (pa / 2 ^ 7 % 2 ^ 20) ^^^ (pa / 2 ^ 27 % 2 ^ 15)

/-- The heddle die that keeps a line's entry: H(home_slice(pa)[0]), or the survivor (R414, R417). -/
def Heddle.dieFor (h : Heddle) (pa : Nat) : Nat :=
  let x := homeSlice pa % 2
  if h.up.getLsbD x then x else 1 - x

/-- The entry as a die's (0 to 3) or a member's (from 4 on) read or write leaves it: a write invalidates every other copy; a read
makes an owner's E or M into S or O, and takes E when no copy is held (R142). PKGW names one package, so an owning member
keeps no ownership beside another member's copy, nor in E beside a die's (R414). -/
def DirEntry.grant (e : DirEntry) (q : Nat) (write : Bool) : DirEntry :=
  let held := e.pkgv != 0 || e.dst.any (· != 0)
  let dst := e.dst.map fun x => if x = 4 then 3 else if x = 2 then 1 else x
  if q < 4 then
    if write then { e with dst := (List.replicate 4 0).set q 4, pkgv := 0, pkgw := false, pkgm := false }
    else if e.dst.getD q 0 ≠ 0 then e
    else { e with dst := dst.set q (if held then 1 else 2), pkgw := e.pkgw && e.pkgm }
  else
    let me := BitVec.ofNat 8 (2 ^ (q - 4))
    if write then { e with dst := List.replicate 4 0, pkgv := me, pkgw := true, pkgm := true }
    else if e.pkgv.getLsbD (q - 4) then e
    else { e with dst := dst, pkgv := e.pkgv ||| me, pkgw := !held, pkgm := false }

/-- The state that an entry gives a requester, as DST codes it: of a member 1 for S, 2 for E, 4 for M. -/
def DirEntry.stateOf (e : DirEntry) (q : Nat) : Nat :=
  if q < 4 then e.dst.getD q 0
  else if !e.pkgv.getLsbD (q - 4) then 0
  else if e.pkgm then 4 else if e.pkgw then 2 else 1

/-- Does the entry already let a die read, or write, the line without a request (R142)? -/
def DirEntry.lets (e : DirEntry) (d : Nat) (write : Bool) : Bool :=
  if write then e.pkgv == 0 && (e.dst.getD d 0 == 4 || e.dst.getD d 0 == 2) else e.dst.getD d 0 != 0

/-- The ways in use in a line's set. -/
def Heddle.ways (h : Heddle) (line : Nat) : List DirEntry :=
  h.dir.filter fun e => dirSet e.line == dirSet line && h.dieFor e.line == h.dieFor line

/-- An entry is allocated for a line and a die. -/
def Heddle.allocate (h : Heddle) (d line : Nat) (write : Bool) : Heddle :=
  { h with dir := h.dir ++ [({ line := line, age := h.nextAge } : DirEntry).grant d write], nextAge := h.nextAge + 1 }

/-- The line's entry as a request leaves it, allocated where the line has none. -/
def Heddle.grantLine (h : Heddle) (pos d line : Nat) (write : Bool) : Heddle :=
  match h.entry line with
  | some e => h.setEntry pos (e.grant d write)
  | none => h.allocate d line write

/-- The entry with the oldest AGE. -/
def oldest : List DirEntry → Option DirEntry
  | [] => none
  | e :: es =>
    match oldest es with
    | some x => if x.age < e.age then some x else some e
    | none => some e

/-- The requester's next sequence number, and its use (R416). -/
def Heddle.nextSeq (h : Heddle) (q : Nat) : Nat × Heddle :=
  (h.seqs.getD q 0, { h with seqs := h.seqs.ins q (h.seqs.getD q 0 + 1) })

/-- Where the home slice of a line keeps a requester's replies. -/
def replyKey (q line : Nat) : Nat := 16 * (64 * homeDie line + homeSlice line) + q

/-- The last 64 completed numbers of a requester at a home slice, with the replies (R416). -/
def Heddle.completed (h : Heddle) (q : Nat) (x : Reply) : Heddle :=
  { h with replies := h.replies.ins (replyKey q x.line) ((x :: h.replies.getD (replyKey q x.line) []).take 64) }

/-- A broadcast region's copies as a request leaves them. -/
def Heddle.bcastGrant (h : Heddle) (d line : Nat) (write : Bool) : Heddle :=
  let es := h.bcast.getD (region line) []
  let e := ((es.find? fun e => e.line == line).getD { line := line }).grant d write
  { h with bcast := h.bcast.ins (region line) ((es.filter fun x => x.line != line) ++ [e]) }

/-- The entry leaves the directory with every copy. -/
def Heddle.drop (h : Heddle) (line : Nat) : Heddle := { h with dir := h.dir.filter fun e => e.line != line }

/-- Must an access to the line wait: its entry is being rebuilt, or a recall of it or for it is under way (R144, R415,
R417)? -/
def Heddle.holds (h : Heddle) (line : Nat) : Bool :=
  (h.lostDir.any fun e => e.line == line) || h.recalls.any fun p => p.2.victim == line || p.2.line == line

end Sys2Proof.Machine
end

