-- ==== Sys2Proof/Machine/Memory.lean ====
section
/-! DEFINITION. Memory by place; slices, L1 and L2 copies; lazy release and the acquire drain (R99, R100,
R130, R139 to R142, R445); translation (R403 to R406). -/

namespace Sys2Proof.Machine

/-! ## Bytes -/

/-- The little-endian value of some bytes (R8). -/
def natOf : List Byte → Nat
  | [] => 0
  | b :: bs => b.toNat + 256 * natOf bs

/-- The n low bytes of a value, little-endian. -/
def bytesOf : Nat → Nat → List Byte
  | 0, _ => []
  | n + 1, x => BitVec.ofNat 8 x :: bytesOf n (x / 256)

/-- n bytes of a byte map. -/
def readN (m : FMap Byte) (a : Nat) : Nat → List Byte
  | 0 => []
  | n + 1 => m.getD a 0 :: readN m (a + 1) n

/-- Writes bytes from a place on; zero bytes are not listed. -/
def writeN (m : FMap Byte) (a : Nat) : List Byte → FMap Byte
  | [] => m
  | b :: bs => writeN (m.put 0 a b) (a + 1) bs

/-- Adds an element to a list of distinct ones. -/
def addNew {α : Type} [DecidableEq α] (xs : List α) (x : α) : List α := if x ∈ xs then xs else xs ++ [x]

/-! ## Slices and banks -/

/-- The bytes that a slice or bank holds. -/
def State.read (s : State) (a n : Nat) : List Byte := readN s.mem a n

/-- The little-endian value of n bytes at a slice or bank. -/
def State.readNat (s : State) (a n : Nat) : Nat := natOf (s.read a n)

/-- The poison units that n bytes touch. -/
def unitsOf (a n : Nat) : List Nat :=
  if n = 0 then [] else
  let u := unitLen a
  (List.range ((a + n - 1) / u - a / u + 1)).map fun i => (a / u + i) * u

/-- Does a read of n bytes touch a poisoned unit (R124)? -/
def State.poisoned (s : State) (a n : Nat) : Bool := (unitsOf a n).any fun u => s.poison.getD u false

/-- The poison units that a write of n bytes covers (R445). -/
def coveredUnits (a n : Nat) : List Nat := (unitsOf a n).filter fun u => decide (a ≤ u) && decide (u + unitLen a ≤ a + n)

/-- Poisoned 8-byte words of a cache, and the bytes of them written since, after a write of n bytes: a word whose every byte
is new, by one store or by several merged in the cache, is poisoned no more (R445). -/
def writtenOver (poison fresh : FMap Bool) (a n : Nat) : FMap Bool × FMap Bool :=
  if poison.isEmpty then (poison, fresh)
  else
    let new := ((List.range n).map (a + ·)).filter fun b => poison.has (b / 8 * 8)
    let fresh := new.foldl (fun m b => m.ins b true) fresh
    let whole := fun u => (List.range 8).all fun i => fresh.has (u + i)
    (poison.keep fun u _ => !whole u, fresh.keep fun b _ => !whole (b / 8 * 8))

/-- A write performed at a slice or bank: the bytes, poison cleared in every unit that it covers (R445), and
the line noted for watches (R168). -/
def State.write (s : State) (a : Nat) (bs : List Byte) : State :=
  let n := bs.length
  let full := coveredUnits a n
  { s with
    mem := writeN s.mem a bs
    poison := full.foldl FMap.del s.poison
    touched := if n = 0 then s.touched else addNew (addNew s.touched (lineOf a)) (lineOf (a + n - 1)) }

/-- The full tag of the 8-byte word at a place (R117). -/
def State.tag (s : State) (a : Nat) : Bool := s.tags.getD (a / 8 * 8) false

/-- Sets the tag of the word at a place; the line is noted for watches and readiness (R61, R168). -/
def State.setTag (s : State) (a : Nat) (b : Bool) : State :=
  { s with tags := s.tags.put false (a / 8 * 8) b, touched := addNew s.touched (lineOf a) }

/-! ## Dies -/

def State.die (s : State) (d : Nat) : Die := s.dies.getD d {}
def State.setDie (s : State) (d : Nat) (x : Die) : State := { s with dies := s.dies.ins d x }

def State.part (s : State) (p : Nat) : Partition := s.parts.getD p {}
def State.setPart (s : State) (p : Nat) (x : Partition) : State := { s with parts := s.parts.ins p x }

/-- Has a die a cluster of the partition? -/
def Partition.onDie (p : Partition) (d : Nat) : Bool := bits (p.clus.extractLsb' (32 * d) 64) 0 32 != 0

def Partition.ways (p : Partition) (d : Nat) : Nat := bits p.l2w (16 * d) 16
def Partition.share (p : Partition) (d : Nat) : Nat := bits (p.bkt.zeroExtend 64) (8 * d) 8

/-- Host memory as the device reads it over PCIe: all ones while the link is down (R421). -/
def State.hostRead (s : State) (a n : Nat) : List Byte := if s.pcie then s.read a n else List.replicate n 0xFF

/-- A device write to host memory: dropped while the link is down (R421). -/
def State.hostWrite (s : State) (a : Nat) (bs : List Byte) : State := if s.pcie then s.write a bs else s

/-- A host line as its home slice holds it: the copy that it fetched, merged with its dirty bytes (R99, R130). -/
def State.hostLine (s : State) (line : Nat) : List Byte :=
  let x := s.die (homeDie line)
  let base := (x.hclean.look line).getD (s.hostRead line 128)
  base.zipIdx.map fun p => x.hdirty.getD (line + p.2) p.1

/-- A line as a slice returns it. -/
def State.l2Line (s : State) (line : Nat) : List Byte := if isHostPlace line then s.hostLine line else s.read line 128

/-- The runs of listed bytes with neighbouring places of one line. -/
def runsOf : FMap Byte → List (Nat × List Byte)
  | [] => []
  | (a, b) :: m =>
    match runsOf m with
    | (a', bs) :: rs => if a' = a + 1 ∧ a' % 128 ≠ 0 then (a, b :: bs) :: rs else (a, [b]) :: (a', bs) :: rs
    | [] => [(a, [b])]

/-- A host line's dirty bytes in its home slice are written to host memory, and its copy is dropped. The slice is not written:
no watch on it fires (R168), and a poisoned word travels poisoned (R123). -/
def State.hostFlush (s : State) (line : Nat) : State :=
  let d := homeDie line
  let mine := (s.die d).hdirty.keep fun a _ => lineOf a == line
  let t := (runsOf mine).foldl (fun s r => s.hostWrite r.1 r.2) s
  let x := t.die d
  { t with poison := s.poison, touched := s.touched }.setDie d
    { x with
      hdirty := x.hdirty.keep fun a _ => lineOf a != line
      hfresh := x.hfresh.keep fun a _ => lineOf a != line
      hclean := x.hclean.del line, hpart := x.hpart.del line }

/-- One of n things, freely chosen (log 98). -/
def State.takeOne (s : State) (n : Nat) : Nat × State :=
  (Config.freeNat s.freeIdx % n, { s with freeIdx := s.freeIdx + 1 })

/-- Each of the 16 ways of a die's L2 holds 8 MiB in lines of 128 bytes (R2, R410). -/
def l2WayLines : Nat := 2 ^ 16

/-- The L2 ways of a die in which a partition allocates lines: its own, or with a zero mask those that no enabled partition's mask
names (R410). -/
def State.l2Ways (s : State) (p d : Nat) : Nat :=
  let m := (s.part p).ways d
  if m ≠ 0 then m
  else 65535 - s.parts.foldl (fun m q => if q.2.en then m ||| q.2.ways d else m) 0

/-- How many lines the ways of a mask hold. -/
def waysRoom (m : Nat) : Nat := l2WayLines * ((List.range 16).filter fun i => m.testBit i).length

/-- A host line gets a place in the ways of the partition that asks for it; full ways give up another line, its dirty bytes written
to host memory; which one the spec leaves open (R2, R99, R410; log 98). A partition that no way is left to holds none. -/
def State.l2Room (s : State) (p line : Nat) : State :=
  let d := homeDie line
  let x := s.die d
  let room := waysRoom (s.l2Ways p d)
  if x.hpart.has line || room == 0 then s
  else
    let take := fun (s : State) => s.setDie d { s.die d with hpart := (s.die d).hpart.ins line p }
    if x.hpart.length < room then take s
    else
      let ls := (x.hpart.keep fun _ q => s.l2Ways q d == s.l2Ways p d).keys
      if ls.length < room then take s
      else
        let (i, s) := s.takeOne ls.length
        take (s.hostFlush (ls.getD i 0))

/-- A host line that its home slice fetched stays in its L2 (R99). -/
def State.l2Keep (s : State) (p line : Nat) : State :=
  if isHostPlace line then
    let d := homeDie line
    let s := s.l2Room p line
    let x := s.die d
    if x.hclean.has line || !x.hpart.has line then s
    else s.setDie d { x with hclean := x.hclean.ins line (s.hostRead line 128) }
  else s

/-- Bytes that reach a line's slice for a partition: a global byte its one coherent value, a host byte its home slice, or host
memory when the slice has no place for it. -/
def State.slicePut (s : State) (p a : Nat) (bs : List Byte) : State :=
  if isHostPlace a then
    let d := homeDie a
    let s := s.l2Room p (lineOf a)
    let x := s.die d
    if x.hpart.has (lineOf a) then
      let h := bs.zipIdx.foldl (fun (m : FMap Byte) p => m.ins (a + p.2) p.1) x.hdirty
      let z := writtenOver s.poison x.hfresh a bs.length
      { s.setDie d { x with hdirty := h, hfresh := z.2 } with poison := z.1, touched := addNew s.touched (lineOf a) }
    else s.hostWrite a bs
  else s.write a bs

/-- The bytes that a line's slice reads. -/
def State.sliceRead (s : State) (a n : Nat) : List Byte :=
  if isHostPlace a then ((s.hostLine (lineOf a)).drop (a - lineOf a)).take n else s.read a n

/-! ## Buckets (R413) -/

/-- A request of some bytes takes a token for each 128 bytes from a partition's bucket on a die; when the bucket is short, the
request waits, and this step does not happen. -/
def State.takeTokens (s : State) (d p n : Nat) : State :=
  let k := 8 * d + p
  let have_ := s.buckets.getD k 0
  let want := (n + 127) / 128
  if want ≤ have_ then { s with buckets := s.buckets.put 0 k (have_ - want) } else { s with short := true }

/-- A request at a core's network port. -/
def State.charge (s : State) (c n : Nat) : State :=
  match (s.core c).occ with
  | none => s
  | some j => s.takeTokens (dieOf c) (s.jobs.getD j {}).part n

/-- The partition of the job that occupies a core; of a core that none occupies, the one that has its cluster. -/
def State.corePart (s : State) (c : Nat) : Nat :=
  match (s.core c).occ with
  | some j => (s.jobs.getD j {}).part
  | none => ((List.range 8).find? fun p => (s.part p).clus.getLsbD (c / 4)).getD 0

/-- Written-back lines that leave a core's network port take a token each, as far as there are tokens: a write-back is part of what
caused it and waits no further (R413; log 73). -/
def State.spend (s : State) (d p n : Nat) : State :=
  { s with buckets := s.buckets.put 0 (8 * d + p) (s.buckets.getD (8 * d + p) 0 - n) }

/-- A request to a place: those to core and cluster scratchpads take no tokens. -/
def State.chargeAt (s : State) (c a n : Nat) : State := if isCorePlace a then s else s.charge c n

/-! ## Copies in the caches -/

/-- The lines that an L1 holds (R99). -/
def L1.lines (x : L1) : List Nat := x.dirty.foldl (fun ls p => addNew ls (lineOf p.1)) x.clean.keys

/-- The L1 holds 640 KiB in lines of 128 bytes, in 512 sets of 10 ways (R2). -/
def l1Ways : Nat := 10

/-- The set of a line in an L1; the spec gives no index (log 79). -/
def l1SetOf (line : Nat) : Nat := Config.l1Set line % 512

/-- A drain: the dirty bytes of the lines that a test names leave a core's L1 with their poison, and a clean copy takes
them (R139). Answers the bytes and the poisoned words. -/
def State.takeDirty (s : State) (c : Nat) (f : Nat → Bool) : FMap Byte × FMap Bool × State :=
  let x := s.core c
  let mine := x.l1.dirty.keep fun a _ => f (lineOf a)
  let bad := x.l1.poison.keep fun a _ => f (lineOf a)
  let clean := x.l1.clean.mapV fun line bs =>
    bs.zipIdx.map fun p => mine.getD (line + p.2) p.1
  let l1 := { x.l1 with dirty := x.l1.dirty.keep (fun a _ => !f (lineOf a)), clean := clean
                        poison := x.l1.poison.keep fun a _ => !f (lineOf a)
                        fresh := x.l1.fresh.keep fun a _ => !f (lineOf a) }
  (mine, bad, s.setCore c { x with l1 := l1 })

/-- The words that a list names are poisoned where they now lie; no byte of them is new. -/
def State.poisonAt (s : State) (us : List Nat) : State :=
  { s with poison := us.foldl (fun m u => FMap.put m false u true) s.poison
           dies := s.dies.mapV fun _ x => { x with hfresh := x.hfresh.keep fun b _ => !us.contains (b / 8 * 8) } }

/-- The drains of some of a line's recorded cores on one die. `dr` drains a core; `f` says of each whether it must be
drained, must stay, or may do either (log 99). -/
def State.drainSome (s : State) (dr : State → Nat → State) (d line : Nat) (f : Nat × Nat → Option Bool) : State :=
  ((s.die d).recs.getD line []).foldl (fun s p =>
    let (go, s) := match f p with
      | some b => (b, s)
      | none => s.takeBit
    if go then
      let s := dr s p.1
      let x := s.die d
      let left := (x.recs.getD line []).filter fun q => q.1 != p.1
      s.setDie d { x with recs := if left.isEmpty then x.recs.del line else x.recs.ins line left }
    else s) s

/-- A line's value or ownership leaves the other dies for a request of a scope: they first drain the cores recorded for it
(R140). A release or an acquire that does not cover the other die orders nothing (R129), and its drain may stay away
(R155; log 99). -/
def State.gatherBy (s : State) (dr : State → Nat → State) (line except scope : Nat) : State :=
  ((List.range 4).filter (· != except)).foldl (fun s d =>
    s.drainSome dr d line fun p => if 3 ≤ p.2 ∧ 3 ≤ scope then some true else none) s

/-- Position POS of this package in its group (R418, R420). -/
def State.groupPos (s : State) : Nat := bits s.group 0 3

/-- Is a member at a position of the group, and its package number (R418, R420). -/
def State.groupHas (s : State) (pos : Nat) : Bool := s.group.getLsbD (3 + pos)
def State.packageAt (s : State) (pos : Nat) : Nat := s.hd.gmem.toNat / 2 ^ (12 * pos) % 2 ^ 12

/-- Does an up port reach a member, with coherence traffic: its peer reports this package's member table (R418)? -/
def Heddle.carries (h : Heddle) (pos : Nat) : Bool :=
  (List.range 16).any fun p => h.ports.getLsbD p && !h.foreign.getLsbD p && (h.reach.getD p 0).getLsbD pos

/-- Is a line in this package's memory, or in that of a member that coherence traffic reaches (R403, R418)? -/
def State.reaches (s : State) (line : Nat) : Bool := posOf line == s.groupPos || s.hd.carries (posOf line)

/-- Is the die the line's home (R100, R403)? -/
def State.isHome (s : State) (d line : Nat) : Bool := homeDie line == d && posOf line == s.groupPos

/-- The directory's part of a request that a slice of die d makes for a device line: an entry changes or is allocated; in
a full set the oldest entry is recalled, its copies drained and invalidated (R142, R414, R415). The request waits while
the line's state is not settled (R144). -/
def State.direct (s : State) (dr : State → Nat → State) (d line : Nat) (write : Bool) : State :=
  let hd := s.hd
  let pos := s.groupPos
  if hd.bcast.has (region line) then { s with hd := hd.bcastGrant d line write }
  else if (hd.entry line).isSome || decide ((hd.ways line).length < 16) then { s with hd := hd.grantLine pos d line write }
  else
    match oldest (hd.ways line) with
    | some v =>
      let s := (List.range 4).foldl (fun s e => s.drainSome dr e v.line fun _ => some true) s
      let hd := s.hd
      { s with hd := { hd.drop v.line with nRecall := hd.nRecall + 1 }.grantLine pos d line write
               touched := addNew s.touched v.line }
    | none => s

/-- A cross-die request of a requester, with its sequence number and its reply kept (R416). -/
def State.request (s : State) (dr : State → Nat → State) (q line : Nat) (write : Bool) : State :=
  let (seq, hd) := s.hd.nextSeq q
  let t := { s with hd := hd }.direct dr q line write
  let st := ((t.hd.entry line).map fun e => e.stateOf q).getD 0
  { t with hd := t.hd.completed q { seq := seq, line := line, write := write, state := st, bytes := t.read line 128, tick := t.tick } }

/-- A slice of die d obtains a line, for a write in M or E, for a read in any state (R130, R142): nothing when the die has
it so, or is its home while no copy is held elsewhere. -/
def State.obtainBy (s : State) (dr : State → Nat → State) (d line scope : Nat) (write : Bool) : State :=
  if !isGlobalPlace line then s
  else
    let free := match s.hd.entry line with
      | some e => e.lets d write
      | none => s.isHome d line && !s.hd.bcast.has (region line)
    if s.hd.holds line || (!free && (s.hd.up == 0 || !s.reaches line)) then { s with short := true }
    else if free then
      match s.hd.entry line with
      | some e => if write then { s with hd := s.hd.setEntry s.groupPos (e.grant d true) } else s
      | none => s
    else (s.gatherBy dr line d scope).request dr d line write

/-- The write-back of the dirty bytes of a core's lines that a test names: each line is obtained for writing first, which
may drain cores that other dies recorded for it; the first argument bounds how deep that goes (R139, R140, R142). -/
def State.writeBackN : Nat → State → Nat → (Nat → Bool) → State
  | 0, s, _, _ => s
  | n + 1, s, c, f =>
    let p := s.corePart c
    let (mine, bad, s) := s.takeDirty c f
    let s := if mine.isEmpty then s else s.spend (dieOf c) p (mine.foldl (fun ls q => addNew ls (lineOf q.1)) []).length
    let s := (runsOf mine).foldl (fun s r =>
      (s.obtainBy (fun s x => State.writeBackN n s x fun _ => true) (dieOf c) (lineOf r.1) 3 true).slicePut p r.1 r.2) s
    if bad.isEmpty then s else s.poisonAt bad.keys

/-- A drain inside another takes bytes from a core that still has some; there are 512 cores. -/
def drainDepth : Nat := 512

/-- The dirty bytes of the lines that a test names are written back to the slices of the core's die (R139). -/
def State.writeBack (s : State) (c : Nat) (f : Nat → Bool) : State := State.writeBackN drainDepth s c f

/-- drain(c) (R139). -/
def State.drain (s : State) (c : Nat) : State := s.writeBack c fun _ => true

/-- write_back_dirty(core, line) (R140). -/
def State.writeBackLine (s : State) (c line : Nat) : State := s.writeBack c fun l => l == line

/-- self_invalidate(c): clean bytes leave the L1, dirty bytes stay (R140). -/
def State.selfInvalidate (s : State) (c : Nat) : State :=
  let x := s.core c
  s.setCore c { x with l1 := { x.l1 with clean := [] } }

/-- A line leaves a core's L1, its dirty bytes written back. -/
def State.l1Drop (s : State) (c line : Nat) : State :=
  let s := s.writeBackLine c line
  let x := s.core c
  s.setCore c { x with l1 := { x.l1 with clean := x.l1.clean.del line } }

/-- The drains of a line's recorded cores on one die, but for one (R140). -/
def State.drainRecorded (s : State) (d line : Nat) (keep : Option Nat) : State :=
  s.drainSome State.drain d line fun p => some (some p.1 != keep)

/-- Every core recorded for a line is drained, on every die (R140). -/
def State.drainAll (s : State) (line : Nat) : State := (List.range 4).foldl (fun s d => s.drainRecorded d line none) s

/-- The other dies give a line's value up to a die, their recorded cores drained (R140). -/
def State.gather (s : State) (line except : Nat) : State := s.gatherBy State.drain line except 3

/-- A slice of die d obtains a line for a read or a write (R142). -/
def State.obtain (s : State) (d line : Nat) (write : Bool) : State := s.obtainBy State.drain d line 3 write

/-- A line's home takes it back for an atomic or an engine: no copy stays elsewhere, and watches on those that do not stay fire
(R130, R142, R146, R168). -/
def State.obtainHome (s : State) (line : Nat) : State :=
  let s := if (s.hd.entry line).any fun e => e.beyond s.groupPos then { s with touched := addNew s.touched line } else s
  if !isGlobalPlace line then s.gather line (homeDie line)
  else if posOf line == s.groupPos then s.obtain (homeDie line) line true
  else if !s.hd.carries (posOf line) then { s with short := true }
  else
    let s := s.gather line 4
    { s with hd := s.hd.drop line }

/-- Bytes that a core's die writes at a slice (R130, R142). -/
def State.sliceWrite (s : State) (c a : Nat) (bs : List Byte) : State :=
  (s.obtain (dieOf c) (lineOf a) true).slicePut (s.corePart c) a bs

/-! ## L1 -/

/-- The 128 bytes of a line through a core's L1: its own dirty bytes over its clean copy or the slice's. -/
def State.l1Line (s : State) (c line : Nat) : List Byte :=
  let l1 := (s.core c).l1
  let base := (l1.clean.look line).getD (s.l2Line line)
  base.zipIdx.map fun p => l1.dirty.getD (line + p.2) p.1

/-- A full set of an L1 gives up a line for another; which one the spec leaves open (R2, R99; log 98). -/
def State.l1Room (s : State) (c line : Nat) : State :=
  let x := (s.core c).l1
  if x.clean.length + x.dirty.length < l1Ways then s
  else
    let ls := x.lines
    if decide (line ∈ ls) || decide (ls.length < l1Ways) then s
    else
      let set := ls.filter fun l => l1SetOf l == l1SetOf line
      if set.length < l1Ways then s
      else
        let (i, s) := s.takeOne set.length
        s.l1Drop c (set.getD i 0)

/-- A line allocated in a core's L1 with the slice's bytes. -/
def State.l1Fill (s : State) (c line : Nat) : State :=
  let s := s.l1Room c line
  let x := s.core c
  s.setCore c { x with l1 := { x.l1 with clean := x.l1.clean.ins line (s.l2Line line) } }

/-- A plain load of n bytes of one line in global or host space, and the line allocated unless NOALLOC; a miss fetches
it from the slice of the core's die, which obtains it (R99, R101, R130). -/
def State.l1Read (s : State) (c a n : Nat) (noalloc : Bool) : List Byte × State :=
  let line := lineOf a
  if (s.core c).l1.clean.has line then (((s.l1Line c line).drop (a - line)).take n, s)
  else
    let s := ((s.charge c n).obtain (dieOf c) line false).l2Keep (s.corePart c) line
    (((s.l1Line c line).drop (a - line)).take n, if noalloc then s else s.l1Fill c line)

/-- A plain store to the L1: dirty bytes (R99, R130). -/
def State.l1Write (s : State) (c a : Nat) (bs : List Byte) : State :=
  let s := s.l1Room c (lineOf a)
  let x := s.core c
  let d := bs.zipIdx.foldl (fun (m : FMap Byte) p => m.ins (a + p.2) p.1) x.l1.dirty
  let z := writtenOver x.l1.poison x.l1.fresh a bs.length
  { s.setCore c { x with l1 := { x.l1 with dirty := d, poison := z.1, fresh := z.2 } } with
    touchedL1 := addNew s.touchedL1 (c, lineOf a) }

/-- A core's L1 copy of a line takes newly written bytes (R139). -/
def State.l1Update (s : State) (c a : Nat) (bs : List Byte) : State :=
  let x := s.core c
  let n := bs.length
  let line := lineOf a
  let d := x.l1.dirty.keep fun k _ => !(decide (a ≤ k) && decide (k < a + n))
  let clean :=
    match x.l1.clean.look line with
    | none => x.l1.clean
    | some old => x.l1.clean.ins line (old.zipIdx.map fun p =>
        if a ≤ line + p.2 ∧ line + p.2 < a + n then bs.getD (line + p.2 - a) 0 else p.1)
  let z := writtenOver x.l1.poison x.l1.fresh a n
  s.setCore c { x with l1 := { x.l1 with dirty := d, clean := clean, poison := z.1, fresh := z.2 } }

/-! ## Lazy release (R139, R140) -/

/-- release_write's record or drain (R139), for each line written, with the scope of the release. -/
def State.releaseRecord (s : State) (c line scope : Nat) : State :=
  let d := sliceDie c line
  let x := s.die d
  let r := x.recs.getD line []
  if r.any fun p => p.1 == c then
    s.setDie d { x with recs := x.recs.ins line (r.map fun p => if p.1 = c then (c, max p.2 scope) else p) }
  else
    let room :=
      if x.recs.has line then decide (r.length < 8)
      else decide (((x.recs.keys).filter fun l => homeSlice l == homeSlice line).length < 1024)
    if room then s.setDie d { x with recs := x.recs.ins line (r ++ [(c, scope)]) } else s.drain c

/-- acquire_read's steps before the read (R140): the acquirer's dirty bytes, the slice obtains the line, the recorded
cores drain. A recorded release whose scope does not cover the acquirer, or that the acquire's scope does not cover,
orders nothing (R129), and its drain may stay away (log 99). -/
def State.acquireLine (s : State) (c line scope : Nat) : State :=
  let d := sliceDie c line
  let s := ((s.charge c 128).writeBackLine c line).obtainBy State.drain d line scope false
  let s := s.gatherBy State.drain line d scope
  s.drainSome State.drain d line fun p =>
    if p.1 = c then some false else if covers p.2 p.1 c && covers scope c p.1 then some true else none

/-! ## Translation (R403 to R406) -/

/-- Is this device physical address memory in a channel group of the partition (R403, R406)? -/
def paOwned (p : Partition) (pa : Nat) : Bool :=
  let off := pa % 2 ^ 36
  let g := off / (6 * 2 ^ 30)
  decide (pa < 2 ^ 42) && decide (off < 48 * 2 ^ 30) && p.chan.getLsbD (8 * (pa / 2 ^ 36 % 8) + g)

/-- How a walk ends (R406); `entry` is the leaf, `level` its level. -/
inductive Walk where
  | notPresent
  | refused
  | leaf (entry : W64) (level : Nat)
  deriving DecidableEq, Repr

def pteV (e : W64) : Bool := e.getLsbD 0
def pteLeaf (e : W64) : Bool := e.getLsbD 1
def pteR (e : W64) : Bool := e.getLsbD 2
def pteW (e : W64) : Bool := e.getLsbD 3
def pteX (e : W64) : Bool := e.getLsbD 4
def pteTag (e : W64) : Bool := e.getLsbD 5
def pteBank (e : W64) : Bool := e.getLsbD 6
def pteContig (e : W64) : Bool := e.getLsbD 7
def pteHost (e : W64) : Bool := e.getLsbD 8
/-- The PA field as an address (R405). -/
def ptePa (e : W64) : Nat := bits e 12 40 * 4096

/-- Is an entry well formed at its level of its tree (R405, R406)? -/
def pteOk (p : Partition) (host : Bool) (level : Nat) (e : W64) : Bool :=
  let leaf := pteLeaf e
  bits e 9 3 == 0 && bits e 52 12 == 0 &&
  (if level = 0 then leaf else if level ≥ 3 then !leaf else true) &&
  (!pteContig e || level == 0) &&
  !(pteBank e && ((leaf && level == 0) || pteHost e)) &&
  !(pteTag e && pteHost e) &&
  (pteHost e == (host && leaf)) &&
  (!leaf || ptePa e % (2 ^ (12 + 9 * level)) == 0) &&
  (pteHost e || paOwned p (ptePa e))

/-- A table entry as a walk reads it, at its home slice, as a read of the front end: with the cores recorded for its line drained
(R140, R404). -/
def State.tableEntry (s : State) (a : Nat) : W64 := BitVec.ofNat 64 ((s.drainAll (lineOf a)).readNat a 8)

/-- The walk from a table at a level down (R404, R406). -/
def walkFrom (rd : Nat → W64) (p : Partition) (host : Bool) (va : Nat) : Nat → Nat → Walk
  | n, table =>
    let e := rd (table + 8 * (va / 2 ^ (12 + 9 * n) % 512))
    if !pteV e then .notPresent
    else if !pteOk p host n e then .refused
    else if pteLeaf e then .leaf e n
    else
      match n with
      | 0 => .refused
      | n + 1 => walkFrom rd p host va n (ptePa e)

/-- The lines of the entries that a walk reads. -/
def walkLines (rd : Nat → W64) (p : Partition) (host : Bool) (va : Nat) : Nat → Nat → List Nat
  | n, table =>
    let a := table + 8 * (va / 2 ^ (12 + 9 * n) % 512)
    let e := rd a
    lineOf a :: (if !pteV e || !pteOk p host n e || pteLeaf e then []
      else match n with | 0 => [] | n + 1 => walkLines rd p host va n (ptePa e))

/-- What a walk's reads do to the lines that they touch: recorded cores drain, and the home slice obtains the line (R142, R404). -/
def State.walkReads (s : State) (part : Nat) (host : Bool) (va : Nat) : State :=
  let p := s.part part
  let base := (if host then p.hptbase else p.ptbase).toNat
  if paOwned p base then
    (walkLines s.tableEntry p host va 4 base).foldl (fun s line =>
      let s := s.drainAll line
      if posOf line == s.groupPos then s.obtain (homeDie line) line false else s) s
  else s

/-- The walk of a virtual address (R404). -/
def State.walk (s : State) (part : Nat) (host : Bool) (va : Nat) : Walk :=
  let p := s.part part
  let base := (if host then p.hptbase else p.ptbase).toNat
  if paOwned p base then walkFrom s.tableEntry p host va 4 base else .refused

/-- Does a leaf permit an access of this kind (R406)? The TAG that a tag access needs besides is answered apart,
because its lack is the ACCESS trap of R296 or an outcome of R90 and R91 (log 12). -/
def permits (e : W64) : AccessKind → Bool
  | .read => pteR e
  | .engineRead => pteR e
  | .write => pteW e
  | .engineWrite => pteW e
  | .atomic => pteR e && pteW e
  | .fetch => pteX e
  | .tagRead => pteR e
  | .tagWrite => pteW e

/-- What a translation gives: a place with the leaf's tagged and bank-resident attributes, or a fault
(R220), a permission refusal marked. -/
inductive Trans where
  | ok (place : Nat) (tagged bank : Bool)
  | fault (perm : Bool)
  deriving DecidableEq, Repr

/-- The number under which TLBs hold the leaf of a 4 KiB page of a partition's tree. -/
def tlbKey (part : Nat) (host : Bool) (va : Nat) : Nat := 2 ^ 47 * part + (if host then 2 ^ 46 else 0) + va / 4096

/-- The front end as one that translates: it has no TLB, and walks each time (log 11). -/
def frontEnd : Nat := 512

/-- The leaf that a core's L1 TLB or its die's L2 TLB holds (R220). -/
def State.heldLeaf (s : State) (c key : Nat) : Option W64 :=
  if c = frontEnd then none else ((s.cores.getD c {}).tlb.look key) <|> ((s.die (dieOf c)).tlb.look key)

/-- The place that a leaf gives an address. -/
def leafPlace (e : W64) (level va : Nat) : Nat :=
  let a := ptePa e + va % 2 ^ (12 + 9 * level)
  if pteHost e then hostBase + a else a

/-- A leaf as a TLB holds it for one 4 KiB page: PA is that page's (R406). -/
def tlbLeaf (e : W64) (level va : Nat) : W64 :=
  let pa := (ptePa e + va % 2 ^ (12 + 9 * level)) / 4096
  BitVec.ofNat 64 (bits e 0 12 + 4096 * (pa % 2 ^ 40))

/-- Translation of one address of a partition's global or host space for a core or the front end (R220, R404, R406). A TLB holds
only what a completed walk gave it (log 11). -/
def State.translate (s : State) (c part : Nat) (host : Bool) (kind : AccessKind) (va : Nat) : Trans :=
  let p := s.part part
  if host && p.hptbase == 0 then .ok (hostBase + va) false false
  else
    let fin := fun (e : W64) (level : Nat) =>
      if permits e kind then Trans.ok (leafPlace e level va) (pteTag e) (pteBank e) else .fault true
    match s.heldLeaf c (tlbKey part host va) with
    | some e => fin e 0
    | none =>
      match s.walk part host va with
      | .notPresent => .fault false
      | .refused => .fault true
      | .leaf e n => fin e n

/-- The leaf that translates an address for a core now: what a TLB holds, or what a walk gives. -/
def State.leafOf (s : State) (c part : Nat) (host : Bool) (va : Nat) : Option W64 :=
  let p := s.part part
  if host && p.hptbase == 0 then none
  else
    match s.heldLeaf c (tlbKey part host va) with
    | some e => some e
    | none =>
      match s.walk part host va with
      | .leaf e n => some (tlbLeaf e n va)
      | _ => none

end Sys2Proof.Machine
end

