-- ==== Sys2Proof/Machine/Access.lean ====
section
/-! DEFINITION. Buffer records (R101 to R103), lane addresses and their checks (R98, R108 to R111), and the
accesses of one instruction's lanes. -/

namespace Sys2Proof.Machine

/-! ## Buffer records (R101) -/

abbrev BufRec := BitVec 256

/-- Bits lo upward of a record. -/
def recBits (r : BufRec) (lo n : Nat) : Nat := r.toNat / 2 ^ lo % 2 ^ n

def recBase (r : BufRec) : Nat := recBits r 0 57
def recExtent (r : BufRec) : Nat := recBits r 64 48
def recStride (r : BufRec) : Nat := recBits r 128 32
def recSpace (r : BufRec) : Nat := recBits r 160 4
def recEsize (r : BufRec) : Nat := recBits r 164 4
def recSwzm (r : BufRec) : Nat := recBits r 168 5
def recSwzs (r : BufRec) : Nat := recBits r 173 3
def recClamp (r : BufRec) : Bool := r.getLsbD 176
def recRdonly (r : BufRec) : Bool := r.getLsbD 177
def recNoalloc (r : BufRec) : Bool := r.getLsbD 178
def recHandle (r : BufRec) : Nat := recBits r 192 32

/-- SPACE codes (R101). -/
def SP_GLOBAL : Nat := 1
def SP_LANE : Nat := 2
def SP_CORE : Nat := 3
def SP_CLUSTER : Nat := 4
def SP_DIE : Nat := 5
def SP_HOST : Nat := 6

/-- Bytes of an element by ESIZE code (R101). -/
def esizeBytes (e : Nat) : Nat :=
  match e with
  | 0 => 1 | 1 => 2 | 2 => 4 | 3 => 8 | 4 => 16 | 5 => 12 | 6 => 18 | _ => 0

/-- The top of a space for a warp (R97, R102). -/
def spaceTop (jr : JobRec) (pair : Bool) (sp : Nat) : Nat :=
  match sp with
  | 1 => 2 ^ 57
  | 2 => jr.lslice
  | 3 => if pair then 2 ^ 20 else 2 ^ 19
  | 4 => 2 ^ 21
  | 5 => 2 ^ 27
  | 6 => 2 ^ 57
  | _ => 0

/-- Is a record valid (R102)? -/
def recValid (jr : JobRec) (pair : Bool) (r : BufRec) : Bool :=
  decide (recSpace r ≤ 6) && decide (recEsize r ≤ 6) &&
  recBits r 57 7 == 0 && recBits r 112 16 == 0 && recBits r 179 13 == 0 && recBits r 224 32 == 0 &&
  (recSpace r == 0 || decide (recBase r + recExtent r ≤ spaceTop jr pair (recSpace r))) &&
  (recSpace r ∈ [2, 3, 4] || (recSwzm r == 0 && recSwzs r == 0))

/-- swizzle(a) (R103). -/
def swizzle (r : BufRec) (a : Nat) : Nat :=
  a ^^^ ((a / 2 ^ (7 + recSwzs r) &&& recSwzm r) * 4)

/-! ## The context of an access -/

/-- What a memory instruction reads of its warp: the warp as it stood at issue, and its lanes. -/
structure Ctx where
  c : Nat
  k : Nat
  w : Warp
  active : W64
  /-- lanes of a full/empty operation already performed -/
  done : W64 := 0
  /-- the host has acknowledged the write-back of host lines (R301, R423) -/
  hostAck : Bool := false
  /-- performed from the operand log (R219): its draws were taken when it issued (R189) -/
  logged : Bool := false

def Ctx.lanes (x : Ctx) : List Nat := lanesIn x.w.id.width x.active
def Ctx.bufRec (x : Ctx) (b : Nat) : BufRec := x.w.regs.rdB b
def Ctx.mode (x : Ctx) : W64 := x.w.ctl.wmode

/-- The job that a context belongs to. -/
def State.job (s : State) (j : Nat) : Job := s.jobs.getD j {}
def State.jobOf (s : State) (x : Ctx) : Job := s.job x.w.id.job

/-- The warp of a context, as it stands now. -/
def State.warpOf (s : State) (x : Ctx) : Warp := s.warp x.c x.k

/-- Changes the warp of a context. -/
def State.updWarp (s : State) (x : Ctx) (f : Warp → Warp) : State := s.setWarp x.c x.k (f (s.warpOf x))

/-- Bytes of the lane-slice carve-out at the top of a core's scratchpad, as the job that occupies the core has it; a core
that no job occupies has none (R98). -/
def State.carve (s : State) (core : Nat) : Nat :=
  match (s.core core).occ with
  | some j => (s.job j).r.lslice * (s.job j).r.width * (s.core core).places
  | none => 0

/-- Cuts n bytes from a into pieces that do not cross a multiple of u: a start and a length each. -/
def cuts (u : Nat) : Nat → Nat → Nat → List (Nat × Nat)
  | 0, _, _ => []
  | fuel + 1, a, n =>
    if n = 0 then []
    else
      let len := min n (u - a % u)
      (a, len) :: cuts u fuel (a + len) (n - len)

/-- The lowest core of the scratchpads that a record's core space, or cluster space, is made of (R97). -/
def firstCore (c : Nat) (pair : Bool) (sp : Nat) : Nat :=
  if sp = SP_CLUSTER then c / 4 * 4 else if pair then c / 2 * 2 else c

/-- Does an access of a warp on core c touch a lane-slice carve-out, or lie beyond the partition's share of a die
scratchpad (R98)? -/
def State.noBacking (s : State) (c : Nat) (pair : Bool) (part sp a size : Nat) : Bool :=
  if sp = SP_CORE ∨ sp = SP_CLUSTER then
    (cuts (2 ^ 19) 4 a size).any fun p =>
      decide (2 ^ 19 - s.carve (firstCore c pair sp + p.1 / 2 ^ 19) < p.1 % 2 ^ 19 + p.2)
  else if sp = SP_DIE then
    (cuts (2 ^ 25) 4 a size).any fun p =>
      decide ((s.part part).dsp.toNat / 2 ^ (8 * (p.1 / 2 ^ 25)) % 256 * 2 ^ 20 < p.1 % 2 ^ 25 + p.2)
  else false

/-- `noBacking` for a context. -/
def State.unbacked (s : State) (x : Ctx) (sp a size : Nat) : Bool :=
  s.noBacking x.c x.w.id.pair x.w.id.part sp a size

/-- The place of a scratchpad address of lane l (R97, R98, R130). -/
def State.scratchPlace (s : State) (x : Ctx) (sp l a : Nat) : Nat :=
  let jr := (s.jobOf x).r
  match sp with
  | 2 => scratchBase x.c + (2 ^ 19 - jr.lslice * jr.width * (x.k + 1) + jr.lslice * l + a)
  | 3 =>
    let lower := if x.w.id.pair then x.c / 2 * 2 else x.c
    scratchBase (lower + a / 2 ^ 19) + a % 2 ^ 19
  | 4 => scratchBase (x.c / 4 * 4 + a / 2 ^ 19) + a % 2 ^ 19
  | _ => dieBase x.w.id.part (a / 2 ^ 25) + a % 2 ^ 25

/-! ## Lane addresses (R108) -/

/-- The outcome of a lane's address. -/
inductive LaneAddr where
  | ok (a : Nat)
  | clamped
  | bad (cause sub : Nat) (det : W64 × W64 × W64)
  deriving DecidableEq, Repr

/-- lane_address() for index value i (R108, R207, R209). A handler warp has no lane space (R214). -/
def State.laneAddr (s : State) (x : Ctx) (r : BufRec) (i size align : Nat) (write : Bool) : LaneAddr :=
  let off := i * recStride r
  let a := recBase r + off
  let d := (BitVec.ofNat 64 a, (0 : W64), (0 : W64))
  if recSpace r = 0 then .bad ACCESS 1 d
  else if recSpace r = SP_LANE ∧ x.w.id.handler then .bad ACCESS 5 d
  else if write && recRdonly r then .bad ACCESS 2 d
  else if recExtent r < off + size then
    if recClamp r then .clamped
    else .bad BOUNDS 0 (BitVec.ofNat 64 a, BitVec.ofNat 64 (recExtent r), BitVec.ofNat 64 off)
  else if a % align ≠ 0 then .bad ALIGNMENT 0 d
  else if s.unbacked x (recSpace r) a size then .bad ACCESS 5 d
  else .ok a

/-- One trap for the lanes that met a cause, with each lane's details (R109, R205). -/
def raiseLanes {α : Type} (cause : Nat) (ls : List (Nat × Nat × (W64 × W64 × W64))) : Res α :=
  .error (.trap
    { cause := cause, sub := ((ls.head?.map fun p => p.2.1).getD 0)
      mask := some (maskOf (ls.map Prod.fst)), det := ls.map fun p => (p.1, p.2.2) })

/-- The lanes of one cause among some outcomes. -/
def lanesOfCause (cause : Nat) (os : List (Nat × LaneAddr)) : List (Nat × Nat × (W64 × W64 × W64)) :=
  os.filterMap fun p =>
    match p.2 with
    | .bad c sub d => if c = cause then some (p.1, sub, d) else none
    | _ => none

/-- Chooses one cause among the lanes (R109); otherwise each lane's address, `none` for CLAMPED. -/
def settleLanes (os : List (Nat × LaneAddr)) : Res (List (Nat × Option Nat)) :=
  let acc := lanesOfCause ACCESS os
  let bnd := lanesOfCause BOUNDS os
  let aln := lanesOfCause ALIGNMENT os
  if !acc.isEmpty then raiseLanes ACCESS acc
  else if !bnd.isEmpty then raiseLanes BOUNDS bnd
  else if !aln.isEmpty then raiseLanes ALIGNMENT aln
  else .ok (os.map fun p => (p.1, match p.2 with | .ok a => some a | _ => none))

/-- Every active lane's address through record b and index register xr (R288 step 3). -/
def State.addresses (s : State) (x : Ctx) (b xr size align : Nat) (write : Bool) :
    Res (List (Nat × Option Nat)) :=
  settleLanes (x.lanes.map fun l =>
    (l, s.laneAddr x (x.bufRec b) (x.w.rdV xr l).toNat size align write))

/-- The lanes whose outcome is OK. -/
def okLanes (as : List (Nat × Option Nat)) : List (Nat × Nat) :=
  as.filterMap fun p => p.2.map fun a => (p.1, a)

/-! ## Segments: the places of a lane's bytes -/

/-- Places of consecutive bytes: a start and a length each. -/
abbrev Segs := List (Nat × Nat)

/-- A lane's segments, or the pages that do not translate (R103, R111, R112). `tagged` asks for the tagged
attribute as well, and answers whether every line has it. -/
structure Located where
  segs : Segs := []
  faults : List PageReq := []
  tagged : Bool := true
  bank : Bool := true
  deriving DecidableEq, Repr

/-- Locates n bytes from address a of a record's space for lane l. -/
def State.locate (s : State) (x : Ctx) (r : BufRec) (kind : AccessKind) (l a n : Nat) : Located :=
  let sp := recSpace r
  if sp = SP_GLOBAL ∨ sp = SP_HOST then
    let host := sp == SP_HOST
    (cuts 128 (n / 128 + 2) a n).foldl
      (fun (z : Located) p =>
        match s.translate x.c x.w.id.part host kind p.1 with
        | .ok place tg bk =>
          { z with segs := z.segs ++ [(place, p.2)], tagged := z.tagged && tg, bank := z.bank && bk }
        | .fault perm =>
          { z with faults := z.faults ++
              [{ page := p.1 / 4096, host := host, kind := kind, perm := perm, lanes := laneBit l, va := p.1 }] })
      {}
  else
    { segs := (cuts 4 (n / 4 + 2) a n).map fun p => (s.scratchPlace x sp l (swizzle r p.1), p.2)
      tagged := false, bank := false }

/-- Requests for one page and kind are one, naming all their lanes (R221). -/
def mergePages : List PageReq → List PageReq
  | [] => []
  | q :: qs =>
    let rest := mergePages qs
    match rest.find? fun y => y.page == q.page && y.host == q.host && y.kind == q.kind && y.perm == q.perm with
    | some y => { q with lanes := q.lanes ||| y.lanes } :: rest.filter (· != y)
    | none => q :: rest

/-- The located lanes of an instruction: all of them, or every page that does not translate (R111, R112). -/
def State.locateAll (s : State) (x : Ctx) (r : BufRec) (kind : AccessKind) (n : Nat)
    (ls : List (Nat × Nat)) : Res (List (Nat × Located)) :=
  let zs := ls.map fun p => (p.1, s.locate x r kind p.1 p.2 n)
  let faults := zs.flatMap fun p => p.2.faults
  if faults.isEmpty then .ok zs else .error (.fault (mergePages faults))

/-- Page requests with other lanes, where the address of one lane serves several (R205, R305, R320). -/
def forLanes {α : Type} (f : W64 → W64) : Res α → Res α
  | .error (.fault qs) => .error (.fault (qs.map fun q => { q with lanes := f q.lanes }))
  | r => r

/-- Waits while a line that the lanes touch belongs to an engine (R122). -/
def State.unowned (s : State) (zs : List (Nat × Located)) : Res Unit :=
  if zs.any fun p => p.2.segs.any fun q => s.owned.has (lineOf q.1) then .error .defer else .ok ()

/-- Is a byte poisoned for core c: it lies in a poisoned word of the L1's dirty bytes, or in a poisoned unit of its place
that the core has not written whole (R124, R445)? -/
def State.badByte (s : State) (c a : Nat) : Bool :=
  let u := unitOf a
  if isCachedPlace a then
    let l1 := (s.core c).l1
    l1.poison.getD u false || (s.poison.getD u false && !(List.range 8).all fun i => l1.dirty.has (u + i))
  else s.poison.getD u false

/-- Stops the context at a poisoned word that is read (R124). -/
def State.unpoisoned (s : State) (c : Nat) (zs : List (Nat × Located)) : Res Unit :=
  let bad := zs.flatMap fun p => p.2.segs.flatMap fun q =>
    (List.range q.2).filterMap fun i => if s.badByte c (q.1 + i) then some (q.1 + i) else none
  match bad with
  | [] => .ok ()
  | a :: _ => .error (.poison a)

/-! ## Far stores (R148) -/

/-- Banks perform the far stores of a core that a test admits, oldest first. -/
def State.farFlush (s : State) (c : Nat) (f : FarStore → Bool) : State :=
  let x := s.core c
  let (now, rest) := x.far.partition f
  if now.isEmpty then s else now.foldl (fun s q => s.write q.place q.bytes) (s.setCore c { x with far := rest })

/-- A release or arrival of the warp in slot k waits for its far stores: at CLUSTER scope or wider for those to other
cores' scratchpads, at DIE scope or wider for those to die space (R148). -/
def State.farRelease (s : State) (c k scope : Nat) : State :=
  s.farFlush c fun q => q.slot == k && scope != 7 && decide ((if isCorePlace q.place then 1 else 2) ≤ scope)

/-- Every far store of the warp in slot k is performed. -/
def State.farAll (s : State) (c k : Nat) : State := s.farFlush c fun q => q.slot == k

/-- Does a place lie in die space, or in another core's scratchpad reached through cluster space (R148)? -/
def Ctx.far (x : Ctx) (r : BufRec) (place : Nat) : Bool :=
  recSpace r == SP_DIE || (recSpace r == SP_CLUSTER && coreOfPlace place != x.c)

/-- Before a core reads or writes bytes of far space, its own far stores to them are performed, so that it sees its own
writes in order (R132, log 97). -/
def State.farAt (s : State) (c a n : Nat) : State :=
  s.farFlush c fun q => decide (q.place < a + n) && decide (a < q.place + q.bytes.length)

/-! ## Plain accesses (R130) -/

/-- A plain read of one segment through core c. A line of the job's argument block is served from the constant
cache; where it was written since, the load returns the old or the new content (R396). -/
def State.plainRead (s : State) (c : Nat) (noalloc : Bool) (p : Nat × Nat) : List Byte × State :=
  if isCachedPlace p.1 then
    let line := lineOf p.1
    match (s.core c).l1.const.look line with
    | some old =>
      let new := s.l1Line c line
      let (pick, s) := if old = new then (true, s) else s.takeBit
      (((if pick then old else new).drop (p.1 - line)).take p.2, s)
    | none => s.l1Read c p.1 p.2 noalloc
  else
    let s := s.farAt c p.1 p.2
    (s.read p.1 p.2, s.chargeAt c p.1 p.2)

/-- A plain read of a lane's segments. -/
def State.plainReads (s : State) (c : Nat) (noalloc : Bool) (segs : Segs) : List Byte × State :=
  segs.foldl (fun (acc : List Byte × State) p =>
    let (bs, s) := acc.2.plainRead c noalloc p
    (acc.1 ++ bs, s)) ([], s)

/-- A plain write of one segment. A store through a NOALLOC record to a line absent from the L1 is written at
the slice (R288). -/
def State.plainWrite (s : State) (c : Nat) (noalloc : Bool) (a : Nat) (bs : List Byte) : State :=
  if isCachedPlace a then
    let l1 := (s.core c).l1
    let line := lineOf a
    let here := l1.clean.has line || l1.dirty.any fun p => lineOf p.1 == line
    if noalloc && !here then (s.charge c bs.length).sliceWrite c a bs else s.l1Write c a bs
  else ((s.farAt c a bs.length).chargeAt c a bs.length).write a bs

/-- A plain write of a lane's segments. -/
def State.plainWrites (s : State) (c : Nat) (noalloc : Bool) : Segs → List Byte → State
  | [], _ => s
  | p :: ps, bs => (s.plainWrite c noalloc p.1 (bs.take p.2)).plainWrites c noalloc ps (bs.drop p.2)

/-- Takes whether the next far store is performed later (log 97). -/
def State.takeLag (s : State) : Bool × State :=
  match s.lags with
  | b :: bs => (b, { s with lags := bs })
  | [] => (false, s)

/-- A plain write of one segment by a store instruction: one to far space may be performed later, in any order towards the
warp's other accesses (R148). -/
def State.storeSeg (s : State) (x : Ctx) (r : BufRec) (a : Nat) (bs : List Byte) : State :=
  if x.far r a then
    let (later, s) := s.takeLag
    if later then
      let s := (s.farAt x.c a bs.length).chargeAt x.c a bs.length
      let cr := s.core x.c
      s.setCore x.c { cr with far := cr.far ++ [{ slot := x.k, place := a, bytes := bs }] }
    else s.plainWrite x.c (recNoalloc r) a bs
  else s.plainWrite x.c (recNoalloc r) a bs

/-- The bytes that a lane stores, by place: segments of one aligned 8-byte word go together, since they are written as
one (R131). -/
def wordsOf : Segs → List Byte → List (Nat × List Byte)
  | [], _ => []
  | p :: ps, bs =>
    let mine := bs.take p.2
    match wordsOf ps (bs.drop p.2) with
    | (a, cs) :: rs =>
      if p.1 / 8 = a / 8 ∧ p.1 + p.2 = a then (p.1, mine ++ cs) :: rs
      else if p.1 / 8 = a / 8 ∧ a + cs.length = p.1 then (a, cs ++ mine) :: rs
      else (p.1, mine) :: (a, cs) :: rs
    | [] => [(p.1, mine)]

/-- A store instruction's write of a lane's segments. -/
def State.storeSegs (s : State) (x : Ctx) (r : BufRec) (segs : Segs) (bs : List Byte) : State :=
  (wordsOf segs bs).foldl (fun s p => s.storeSeg x r p.1 p.2) s

/-! ## Unified data addresses (R320) -/

/-- A global virtual address of the current job, translated for a core. -/
def State.global (s : State) (c part : Nat) (kind : AccessKind) (va : Nat) : Res (Nat × Bool) :=
  match s.translate c part false kind va with
  | .ok place tg _ => .ok (place, tg)
  | .fault perm => .error (.fault [{ page := va / 4096, kind := kind, perm := perm, va := va }])

end Sys2Proof.Machine
end

