-- ==== Sys2Proof/Machine/Long.lean ====
section
/-! DEFINITION. Long-latency instructions: issue, the operand log, lookahead windows and translation faults
(R136, R137, R219 to R222, R239 to R241). -/

namespace Sys2Proof.Machine

/-! ## Fault filters (R221) -/

/-- The bit of an access kind in a fault record (R221). -/
def kindBit : AccessKind → BitVec 6
  | .read => 1
  | .write => 2
  | .atomic => 4
  | .fetch => 8
  | .tagRead => 16
  | .tagWrite => 16
  | .engineRead => 32
  | .engineWrite => 32

/-- The stage of a core: its cluster. -/
def unitOfCore (c : Nat) : Nat := c / 4

/-- Pages of a stage, and of one core's filter: its entries there and those that wait to be forwarded (R221). -/
def stageCount (fs : List FaultPage) (unit : Nat) : Nat := (fs.filter fun f => f.unit == unit && f.staged).length
def filterCount (fs : List FaultPage) (unit : Nat) (core : BitVec 4) : Nat :=
  (fs.filter fun f => f.unit == unit && f.cores &&& core != 0).length

/-- Is it this page's entry in a unit? -/
def FaultPage.isFor (f : FaultPage) (part unit page : Nat) (host : Bool) : Bool :=
  f.part == part && f.unit == unit && f.page == page && f.host == host

/-- A page's entry with one more waiter. -/
def FaultPage.join (f : FaultPage) (core : BitVec 4) (q : PageReq) : FaultPage :=
  { f with kinds := f.kinds ||| kindBit q.kind, perm := f.perm || q.perm, cores := f.cores ||| core, waiters := f.waiters + 1 }

/-- Enters a page into the filters: it joins the core's entry for the page; else it takes one of the core's 64, and joins
the page's entry in the cluster stage, or takes one of the stage's 256, or waits there to be forwarded. A full core filter
takes nothing. The front end has its stage alone, and no core (R221). -/
def fileFault (fs : List FaultPage) (part unit : Nat) (core : BitVec 4) (tick : Nat) (q : PageReq) :
    Option (List FaultPage) :=
  let mine := fun (f : FaultPage) => f.isFor part unit q.page q.host && (core == 0 || f.cores &&& core != 0)
  let stage := fun (f : FaultPage) => f.isFor part unit q.page q.host && f.staged
  let room := decide (stageCount fs unit < 256)
  if fs.any mine then some (fs.map fun f => if mine f then f.join core q else f)
  else if core != 0 && decide (64 ≤ filterCount fs unit core) then none
  else if fs.any stage then some (fs.map fun f => if stage f then f.join core q else f)
  else if core == 0 && !room then none
  else
    some (fs ++ [{ part := part, unit := unit, page := q.page, host := q.host, kinds := kindBit q.kind
                   perm := q.perm, cores := core, waiters := 1, tick := tick, staged := room }])

/-- An entry that waits in its core's filter joins the page's entry in the stage, or takes a free place there. -/
def forwardFault (tick : Nat) (fs : List FaultPage) (f : FaultPage) : List FaultPage :=
  let stage := fun (g : FaultPage) => g.isFor f.part f.unit f.page f.host && g.staged
  if fs.any stage then
    (fs.filter (· != f)).map fun g =>
      if stage g then { g with kinds := g.kinds ||| f.kinds, perm := g.perm || f.perm, cores := g.cores ||| f.cores
                               waiters := g.waiters + f.waiters }
      else g
  else if stageCount fs f.unit < 256 then fs.map fun g => if g = f then { f with staged := true, tick := tick } else g
  else fs

/-- Entries that wait in core filters go forward, the oldest first (R221). -/
def forwardFaults (tick : Nat) (fs : List FaultPage) : List FaultPage :=
  (fs.filter fun f => !f.staged).foldl (forwardFault tick) fs

/-- Files those of some requests that are not yet in the filters, as far as there is room. -/
def fileAll (part unit : Nat) (core : BitVec 4) (tick : Nat) :
    List PageReq → List FaultPage → List PageReq × List FaultPage
  | [], fs => ([], fs)
  | q :: qs, fs =>
    let (q, fs) :=
      if q.filed then (q, fs)
      else
        let q := if q.tick = 0 then { q with tick := tick } else q
        match fileFault fs part unit core tick q with
        | some fs => ({ q with filed := true }, fs)
        | none => (q, fs)
    let (qs, fs) := fileAll part unit core tick qs fs
    (q :: qs, fs)

/-- The bit of a core in its cluster's core mask. -/
def coreBit (c : Nat) : BitVec 4 := BitVec.ofNat 4 (2 ^ (c % 4))

/-! ## The operand log (R219) -/

/-- Logged operand bytes of one lane: its index, and its store data or atomic operands. -/
def logBytes (op : LongOp) (mode : W64) : Nat :=
  match op with
  | .store fn _ _ _ => 4 + 2 ^ fn.val
  | .stl _ _ _ _ => 4 + typeBits (wmET mode) / 8
  | .atom _ _ _ _ _ => 4 + typeBits (wmET mode) / 8
  | .acas _ _ _ => 4 + 2 * (typeBits (wmET mode) / 8)
  | .word fn _ _ _ => if 2 ≤ fn.val then 12 else 4
  | .tagwr _ _ _ => 8
  | .line fn _ _ _ => if fn.val = 1 then 8 else 4
  | .lnwr _ _ _ => 8
  | .vqnt _ _ _ _ => 8
  | .load _ _ _ _ => 4
  | .lda _ _ _ _ => 4
  | .tagrd _ _ _ => 4
  | .lnrd _ _ _ => 4
  | .cache _ _ _ => 4
  | .vdq _ _ _ _ => 4
  | .mon _ _ _ => 4
  | _ => 0

/-- Entries that an instruction takes: two when its lanes' operands exceed 960 bytes (R219). -/
def logCost (op : LongOp) (mode active : W64) : Nat :=
  if 960 < logBytes op mode * (lanesIn 64 active).length then 2 else 1

/-- Entries of a core in use, those of deferred instructions that their trapped warps will replay among them (R218, R219). -/
def State.logUsed (s : State) (c : Nat) : Nat :=
  (List.range 66).foldl (fun n k =>
    let w := s.warp c k
    (w.log ++ w.trap.entry.toList).foldl (fun n e => n + logCost e.op e.wmode e.active) n) 0

/-- Does the operand log of a core have room for an instruction (R35, R219)? -/
def State.logRoom (s : State) (c : Nat) (op : LongOp) (mode active : W64) : Bool :=
  decide (s.logUsed c + logCost op mode active ≤ 64)

/-- Has the log of the core room for the current warp's instruction? -/
def State.hasRoom (s : State) (op : LongOp) : Bool := s.logRoom s.cur.1 op s.cw.ctl.wmode s.cw.active

/-- Takes whether the next instruction is performed late in its window (R137). -/
def State.takeLate (s : State) : Bool × State :=
  match s.late with
  | b :: bs => (b, { s with late := bs })
  | [] => (false, s)

/-- The instructions that may be performed late in their windows: those whose access has its place there (R137). An engine
command is accepted at issue. -/
def LongOp.mayLag : LongOp → Bool
  | .command _ _ _ _ => false
  | .word _ _ _ _ => false
  | .line _ _ _ _ => false
  | .join _ _ _ => false
  | .barm _ _ => false
  | .tret _ => false
  | .shcan _ _ => false
  | .shqry _ _ => false
  | .center _ _ _ => false
  | .mma _ _ _ _ => false
  | _ => true

/-- The context of the instruction that issues. -/
def State.ctx (s : State) : Ctx :=
  let w := s.cw
  { c := s.cur.1, k := s.cur.2, w := w, active := w.active, done := w.ctl.done }

/-- The log entry of the instruction that issues. -/
def State.entry (s : State) (op : LongOp) (la : Nat) (pages : List PageReq) : LogEntry :=
  let w := s.cw
  { num := w.logNum, op := op, word := s.curWord, pc := w.ctl.pc, wmode := w.ctl.wmode, active := w.active
    done := w.ctl.done, regs := w.regs, la := la, pages := pages, gen := w.stat.gen }

/-- The generators of the active lanes advance under RSR, once for each element (R189). -/
def Warp.quantDraw (w : Warp) (active : W64) : Warp :=
  if wmRM w.ctl.wmode = 5 then w.drawn (lanesIn w.id.width active) 1 else w

/-- The draws that an instruction takes when it issues, whenever it is performed (log 13). -/
def Warp.issueDraw (w : Warp) (op : LongOp) : Warp :=
  match op with
  | .vqnt _ _ _ _ => w.quantDraw w.active
  | _ => w

/-- The current instruction issues and waits in the operand log, and the warp goes on in its window (R219, R240). An
instruction that has issued has not retired: the watchdog is not pulsed yet (R229). -/
def State.enterLog (s : State) (op : LongOp) (la : Nat) (pages : List PageReq) : State :=
  let w := s.cw
  let (pages, fs) := fileAll w.id.part (unitOfCore s.cur.1) (coreBit s.cur.1) s.tick pages s.faults
  let e := s.entry op la pages
  let w' := ((w.issueDraw op).advance).issued
  { s with faults := fs }.setCw { w' with log := w'.log ++ [e], logNum := w.logNum + 1 }

/-- The current instruction, which `t` has begun, waits with its warp asleep: it has issued, and its entry holds the lanes
already performed (R44, R297). -/
def State.waitLogged (s t : State) (op : LongOp) : State :=
  let e := { s.entry op 0 [] with done := t.cw.ctl.done }
  let w := t.cw.advance.issued
  t.setCw { w with log := w.log ++ [e], logNum := w.logNum + 1 }

/-- How a long-latency instruction issues. `order` marks an ordering instruction, which waits for every
earlier one (R136). `run` performs it; a state in which its warp sleeps is one in which it still waits. -/
def issueLong (order uniform : Bool) (op : LongOp) (la : Nat) (checks : Warp → Res Unit)
    (run : Ctx → State → Res State) (s : State) : Host.Outcome State Fault Refusal :=
  match checks s.cw with
  | .error e => .next (s.stopNow uniform e)
  | .ok _ =>
    if (order && !s.cw.log.isEmpty) || !s.hasRoom op then .next s
    else
      match run s.ctx s with
      | .ok t =>
        if t.cw.st = .asleep then .next (s.waitLogged t op)
        else
          let (late, s1) := if op.mayLag && la != 0 then s.takeLate else (false, s)
          if late then .next (s1.enterLog op la [])
          else
            let t := { t with late := s1.late }
            .next (t.retire t.cw.advance)
      | .error (.fault ps) => .next (s.enterLog op la ps)
      | .error .defer => .next (s.enterLog op la [])
      | .error e => .next (s.stopNow uniform e)

end Sys2Proof.Machine
end

