-- ==== Sys2Proof/Machine/Load.lean ====
section
/-! DEFINITION. LD, ST, LDA, STL and FENCE (R289 to R292, R307). -/

namespace Sys2Proof.Machine

/-! ## Reads and writes of an instruction's lanes -/

/-- Reads every located lane in turn. -/
def State.readLanes (s : State) (rd : State → Segs → List Byte × State) :
    List (Nat × Located) → List (Nat × Nat) × State
  | [] => ([], s)
  | p :: ps =>
    let (bs, s) := rd s p.2.segs
    let (rest, s) := s.readLanes rd ps
    ((p.1, natOf bs) :: rest, s)

/-- The value that a lane read; a CLAMPED lane reads zero (R108). -/
def laneVal (vs : List (Nat × Nat)) (l : Nat) : Nat := ((vs.find? fun p => p.1 == l).map Prod.snd).getD 0

/-- Writes every located lane in turn, lower lanes first, so that the highest stands (R113). -/
def State.writeLanes (s : State) (wr : State → Segs → List Byte → State) (val : Nat → List Byte) :
    List (Nat × Located) → State
  | [] => s
  | p :: ps => (wr s p.2.segs (val p.1)).writeLanes wr val ps

/-! ## LD and ST (R290) -/

/-- Bytes that LD form fn reads. -/
def loadSize (fn : Nat) : Nat :=
  match fn with
  | 0 => 1 | 1 => 1 | 2 => 2 | 3 => 2 | 4 => 4 | 5 => 8 | _ => 16

/-- Registers that an access of n bytes takes. -/
def regsOf (d n : Nat) : List Nat := (List.range ((n + 3) / 4)).map fun i => d + i

/-- Writes a loaded value to a lane's registers by the table of R290. -/
def Warp.putLoad (w : Warp) (fn d l v : Nat) : Warp :=
  match fn with
  | 1 => w.wrV d l ((BitVec.ofNat 8 v).signExtend 32)
  | 3 => w.wrV d l ((BitVec.ofNat 16 v).signExtend 32)
  | _ => (regsOf d (loadSize fn)).zipIdx.foldl
      (fun w p => w.wrV p.1 l (BitVec.ofNat 32 (v / 2 ^ (32 * p.2)))) w

/-- The low n bytes of a lane's registers from v[d] on. -/
def Regs.dataBytes (r : Regs) (d l n : Nat) : List Byte :=
  ((regsOf d n).flatMap fun v => bytesOf 4 (r.rdV v l).toNat).take n

/-- What a load does (R290). -/
def performLoad (fn d xr b : Nat) (x : Ctx) (s : State) : Res State := do
  let r := x.bufRec b
  let as ← s.addresses x b xr (loadSize fn) (loadSize fn) false
  let zs ← s.locateAll x r .read (loadSize fn) (okLanes as)
  s.unowned zs
  s.unpoisoned x.c zs
  let (vs, s) := s.readLanes (fun s g => s.plainReads x.c (recNoalloc r) g) zs
  .ok (s.updWarp x fun w => as.foldl (fun w p => w.putLoad fn d p.1 (laneVal vs p.1)) w)

/-- What a store does (R290). -/
def performStore (fn d xr b : Nat) (x : Ctx) (s : State) : Res State := do
  let n := 2 ^ fn
  let r := x.bufRec b
  let as ← s.addresses x b xr n n true
  let zs ← s.locateAll x r .write n (okLanes as)
  s.unowned zs
  .ok (s.writeLanes (fun s g bs => s.storeSegs x r g bs) (fun l => x.w.regs.dataBytes d l n) zs)

/-- The decode checks of a data register of n bytes and an index register (R236, R287). -/
def dataChecks (d xr n : Nat) (w : Warp) : Res Unit := do
  w.has (regsOf d n ++ [xr])
  aligned ((n + 3) / 4) [d]

def loadOp (fn : Fin 7) (d x : VReg) (b : BReg) (l : La) (s : State) : Host.Outcome State Fault Refusal :=
  issueLong false false (.load fn d x b) l.val (dataChecks d.val x.val (loadSize fn.val))
    (performLoad fn.val d.val x.val b.val) s

def storeOp (fn : Fin 5) (d x : VReg) (b : BReg) (l : La) (s : State) : Host.Outcome State Fault Refusal :=
  issueLong false false (.store fn d x b) l.val (dataChecks d.val x.val (2 ^ fn.val))
    (performStore fn.val d.val x.val b.val) s

def execLdU8 (d x : VReg) (b : BReg) (l : La) (s : State) := loadOp 0 d x b l s
def execLdI8 (d x : VReg) (b : BReg) (l : La) (s : State) := loadOp 1 d x b l s
def execLdU16 (d x : VReg) (b : BReg) (l : La) (s : State) := loadOp 2 d x b l s
def execLdI16 (d x : VReg) (b : BReg) (l : La) (s : State) := loadOp 3 d x b l s
def execLd32 (d x : VReg) (b : BReg) (l : La) (s : State) := loadOp 4 d x b l s
def execLd64 (d x : VReg) (b : BReg) (l : La) (s : State) := loadOp 5 d x b l s
def execLd128 (d x : VReg) (b : BReg) (l : La) (s : State) := loadOp 6 d x b l s
def execSt8 (d x : VReg) (b : BReg) (l : La) (s : State) := storeOp 0 d x b l s
def execSt16 (d x : VReg) (b : BReg) (l : La) (s : State) := storeOp 1 d x b l s
def execSt32 (d x : VReg) (b : BReg) (l : La) (s : State) := storeOp 2 d x b l s
def execSt64 (d x : VReg) (b : BReg) (l : La) (s : State) := storeOp 3 d x b l s
def execSt128 (d x : VReg) (b : BReg) (l : La) (s : State) := storeOp 4 d x b l s

/-! ## Fences (R307) -/

/-- The scope at which a warp's operation acts: TEAM acts as CLUSTER for a paired team (R141). -/
def Warp.scoped (w : Warp) (scope : Nat) : Nat := if scope = 0 ∧ w.id.pair then 1 else scope

/-- Does a scope code reach beyond the core's L1: CLUSTER or wider, or TEAM for a paired team (R141)? -/
def Warp.wide (w : Warp) (scope : Nat) : Bool := decide (1 ≤ w.scoped scope) && scope != 7

/-- The release part of a fence of the warp in slot k: drain() at CLUSTER or wider, and the far stores of its scope
(R141, R148). -/
def State.fenceRelease (s : State) (w : Warp) (c k scope : Nat) : State :=
  if w.wide scope then (s.farRelease c k (w.scoped scope)).drain c else s

/-- The acquire part of a fence: self_invalidate() at CLUSTER or wider (R140, R141). -/
def State.fenceAcquire (s : State) (w : Warp) (c scope : Nat) : State :=
  if w.wide scope then s.selfInvalidate c else s

/-- FENCE waits until every earlier long-latency instruction is complete (R136), which at SYSTEM scope includes
the host's acknowledgement of a CWB; then it drains and self-invalidates as its kind and scope say. -/
def execFence (k : Fin 4) (sc : Fin 8) (s : State) : Host.Outcome State Fault Refusal :=
  let w := s.cw
  if decide (k.val = 3) || decide (sc.val = 6) then .next (s.stopNow true (.trap { cause := ILLEGAL, sub := 5 }))
  else if !w.log.isEmpty then .next s
  else
    let t := if k.val = 0 then s else s.fenceRelease w s.cur.1 s.cur.2 sc.val
    let t := if k.val = 1 then t else t.fenceAcquire w s.cur.1 sc.val
    commitS s true (.ok (t.setCw t.cw.advance))

/-! ## LDA and STL (R289, R291, R292) -/

/-- Types that R289 gives a width. -/
def widthOk (t : Nat) : Bool := typeBits t != 0

/-- The checks of LDA and STL: SUB 3 at decode; at execution SUB 5, then the pair. -/
def etChecks (vs : List Nat) (d : Nat) (w : Warp) : Res Unit := do
  w.has vs
  w.typed (widthOk (wmET w.ctl.wmode)) (wmET w.ctl.wmode) [d]

/-- The distinct lines of some located lanes. -/
def linesOf (zs : List (Nat × Located)) : List Nat :=
  zs.foldl (fun ls p => p.2.segs.foldl (fun ls q => addNew ls (lineOf q.1)) ls) []

/-- The read of an acquire at the slice; at SYSTEM scope a host location is read in host memory, past the
caches, the device's own writes to it written there first (R132, R151). -/
def State.acquireRead (s : State) (c : Nat) (system : Bool) (segs : Segs) : List Byte × State :=
  segs.foldl (fun (acc : List Byte × State) p =>
    let s := acc.2
    if !isCachedPlace p.1 then
      let s := s.farAt c p.1 p.2
      (acc.1 ++ s.read p.1 p.2, s)
    else if system && isHostPlace p.1 then
      let s := s.hostFlush (lineOf p.1)
      (acc.1 ++ s.hostRead p.1 p.2, s)
    else (acc.1 ++ s.sliceRead p.1 p.2, s.l2Keep (s.corePart c) (lineOf p.1))) ([], s)

/-- One location written by a release: at the slice, which has obtained the line, the core's L1 copy updated (R139); a host
location in host memory (R151). -/
def State.releaseSeg (s : State) (c a : Nat) (v : List Byte) : State :=
  if !isCachedPlace a then (s.farAt c a v.length).write a v
  else if isHostPlace a then ((s.hostFlush (lineOf a)).hostWrite a v).l1Update c a v
  else (s.sliceWrite c a v).l1Update c a v

/-- The write of a release, segment by segment. -/
def State.releaseWrite (s : State) (c : Nat) : Segs → List Byte → State
  | [], _ => s
  | p :: ps, bs => ((s.chargeAt c p.1 p.2).releaseSeg c p.1 (bs.take p.2)).releaseWrite c ps (bs.drop p.2)

/-- What LDA does (R291, R292). -/
def performLda (scope d xr b : Nat) (x : Ctx) (s : State) : Res State := do
  let t := wmET x.mode
  let n := typeBits t / 8
  let r := x.bufRec b
  if x.lanes.isEmpty then .ok (s.fenceAcquire x.w x.c scope)
  else do
    let as ← s.addresses x b xr n n false
    let zs ← s.locateAll x r .read n (okLanes as)
    s.unowned zs
    let wide := x.w.wide scope
    let cached := recSpace r == SP_GLOBAL || recSpace r == SP_HOST
    let s := if wide && cached then (linesOf zs).foldl (fun s ln => s.acquireLine x.c ln (x.w.scoped scope)) s else s
    s.unpoisoned x.c zs
    let (vs, s) :=
      if wide && cached then s.readLanes (fun s g => s.acquireRead x.c (scope == 5) g) zs
      else s.readLanes (fun s g => s.plainReads x.c (recNoalloc r) g) zs
    let s := s.fenceAcquire x.w x.c scope
    .ok (s.updWarp x fun w => as.foldl (fun w p => w.set d p.1 t (laneVal vs p.1)) w)

/-- What STL does (R291, R292). A store to a host location is performed in host memory at every scope (R151). -/
def performStl (scope d xr b : Nat) (x : Ctx) (s : State) : Res State := do
  let t := wmET x.mode
  let n := typeBits t / 8
  let r := x.bufRec b
  if x.lanes.isEmpty then .ok (s.fenceRelease x.w x.c x.k scope)
  else do
    let as ← s.addresses x b xr n n true
    let zs ← s.locateAll x r .write n (okLanes as)
    s.unowned zs
    let cached := recSpace r == SP_GLOBAL || recSpace r == SP_HOST
    let val := fun l => bytesOf n (x.w.regs.get d l t)
    if x.w.wide scope && cached then
      let s := (s.farRelease x.c x.k (x.w.scoped scope))
      let s := (linesOf zs).foldl (fun s ln =>
        (s.obtain (dieOf x.c) ln true).releaseRecord x.c ln (x.w.scoped scope)) s
      .ok (s.writeLanes (fun s g bs => s.releaseWrite x.c g bs) val zs)
    else
      let s := s.fenceRelease x.w x.c x.k scope
      if recSpace r = SP_HOST then .ok (s.writeLanes (fun s g bs => s.releaseWrite x.c g bs) val zs)
      else .ok (s.writeLanes (fun s g bs => s.plainWrites x.c (recNoalloc r) g bs) val zs)

def ldaOp (sc : Fin 6) (d x : VReg) (b : BReg) (l : La) (s : State) : Host.Outcome State Fault Refusal :=
  issueLong true false (.lda sc d x b) l.val (etChecks [d.val, x.val] d.val)
    (performLda sc.val d.val x.val b.val) s

def stlOp (sc : Fin 6) (d x : VReg) (b : BReg) (l : La) (s : State) : Host.Outcome State Fault Refusal :=
  issueLong true false (.stl sc d x b) l.val (etChecks [d.val, x.val] d.val)
    (performStl sc.val d.val x.val b.val) s

def execLdaTeam (d x : VReg) (b : BReg) (l : La) (s : State) := ldaOp 0 d x b l s
def execLdaCluster (d x : VReg) (b : BReg) (l : La) (s : State) := ldaOp 1 d x b l s
def execLdaDie (d x : VReg) (b : BReg) (l : La) (s : State) := ldaOp 2 d x b l s
def execLdaPackage (d x : VReg) (b : BReg) (l : La) (s : State) := ldaOp 3 d x b l s
def execLdaGroup (d x : VReg) (b : BReg) (l : La) (s : State) := ldaOp 4 d x b l s
def execLdaSystem (d x : VReg) (b : BReg) (l : La) (s : State) := ldaOp 5 d x b l s
def execStlTeam (d x : VReg) (b : BReg) (l : La) (s : State) := stlOp 0 d x b l s
def execStlCluster (d x : VReg) (b : BReg) (l : La) (s : State) := stlOp 1 d x b l s
def execStlDie (d x : VReg) (b : BReg) (l : La) (s : State) := stlOp 2 d x b l s
def execStlPackage (d x : VReg) (b : BReg) (l : La) (s : State) := stlOp 3 d x b l s
def execStlGroup (d x : VReg) (b : BReg) (l : La) (s : State) := stlOp 4 d x b l s
def execStlSystem (d x : VReg) (b : BReg) (l : La) (s : State) := stlOp 5 d x b l s

end Sys2Proof.Machine
end

