-- ==== Sys2Proof/Machine/Uniform.lean ====
section
/-! DEFINITION. One address per warp: uaddr() (R320), and reads and writes of a whole object there. -/

namespace Sys2Proof.Machine

/-- Raises a trap in every active lane with the same details. -/
def raiseDet {α : Type} (cause sub : Nat) (d0 d1 d2 : W64) : Res α :=
  .error (.trap { cause := cause, sub := sub, det := (List.range 64).map fun l => (l, (d0, d1, d2)) })

/-- Traps with details unless a condition holds. -/
def needDet (c : Bool) (cause sub : Nat) (d0 d1 d2 : W64) : Res Unit :=
  if c then .ok () else raiseDet cause sub d0 d1 d2

/-- uaddr() (R320) at a byte offset of record b. -/
def State.uaddrAt (s : State) (x : Ctx) (b off size align : Nat) (wr : Bool) : Res Nat := do
  let r := x.bufRec b
  let q := recBase r + off
  let d := BitVec.ofNat 64 q
  needDet (recSpace r != 0) ACCESS 1 d 0 0
  needDet (!(recSpace r == SP_LANE && x.w.id.handler)) ACCESS 5 d 0 0
  needDet (!(wr && recRdonly r)) ACCESS 2 d 0 0
  needDet (decide (off + size ≤ recExtent r)) BOUNDS 0 d (BitVec.ofNat 64 (recExtent r)) (BitVec.ofNat 64 off)
  needDet (q % align == 0) ALIGNMENT 0 d 0 0
  needDet (!s.unbacked x (recSpace r) q size) ACCESS 5 d 0 0
  .ok q

/-- uaddr() at the offset that scalar c holds. -/
def State.uaddr (s : State) (x : Ctx) (b c size align : Nat) (wr : Bool) : Res Nat :=
  s.uaddrAt x b (x.w.regs.rdS c).toNat size align wr

/-- The lane whose slice a warp-uniform access to lane space reaches: the lowest active, else the lowest live. -/
def Ctx.first (x : Ctx) : Nat :=
  match lanesIn 64 x.active with
  | l :: _ => l
  | [] => (lanesIn 64 x.w.ctl.live).headD 0

/-- Reads n bytes at an address of record b as a read of the warp; a page of it that is declared unresolvable traps in every active
lane, or the lowest live one (R205, R320). -/
def State.readAt (s : State) (x : Ctx) (b q n : Nat) : Res (List Byte × State) := do
  let r := x.bufRec b
  let zs ← forLanes (fun _ => 0) (s.locateAll x r .read n [(x.first, q)])
  s.unowned zs
  s.unpoisoned x.c zs
  .ok (s.plainReads x.c (recNoalloc r) (zs.flatMap fun p => p.2.segs))

/-- A page request for a global address. -/
def pageOf (va : Nat) (kind : AccessKind) (perm : Bool) : PageReq := { page := va / 4096, kind := kind, perm := perm, va := va }

/-- The state of a word on a tagged page for a device act: its place, or why not. -/
inductive WordAt where
  | at (place : Nat)
  | untagged
  | fault (q : PageReq)
  deriving DecidableEq, Repr

/-- Locates a word of the partition's global space for a core and tests the tagged attribute (R117). -/
def State.wordAt (s : State) (c part : Nat) (kind : AccessKind) (va : Nat) : WordAt :=
  if 2 ^ 57 ≤ va then .untagged
  else
    match s.translate c part false kind va with
    | .fault perm => .fault (pageOf va kind perm)
    | .ok place tagged _ => if tagged then .at place else .untagged

end Sys2Proof.Machine
end

