-- ==== Sys2Proof/Machine/Words.lean ====
section
/-! DEFINITION. Full/empty word operations (R296 to R298) and scratchpad line operations (R299, R300). -/

namespace Sys2Proof.Machine

/-- Raises ACCESS with SUB 8 in the lanes that a test names (R296, R299). -/
def spaceCheck (ls : List (Nat × Nat)) (bad : Nat × Nat → Bool) : Res Unit :=
  let bs := ls.filter bad
  if bs.isEmpty then .ok () else raiseLanes ACCESS (bs.map fun p => (p.1, 8, (BitVec.ofNat 64 p.2, 0, 0)))

/-- Checks and places of a word operation's lanes: global space, tagged pages (R296). -/
def State.wordLanes (s : State) (x : Ctx) (xr b : Nat) (write : Bool) :
    Res (List (Nat × Option Nat) × List (Nat × Nat)) := do
  let r := x.bufRec b
  let as ← s.addresses x b xr 8 8 write
  let ok := okLanes as
  spaceCheck ok fun _ => recSpace r != SP_GLOBAL
  let zs ← s.locateAll x r (if write then .tagWrite else .tagRead) 8 ok
  let un := zs.filter fun p => !p.2.tagged
  spaceCheck ok fun p => un.any fun q => q.1 == p.1
  .ok (as, zs.map fun p => (p.1, (p.2.segs.head?.map Prod.fst).getD 0))

/-- Before a word operation at the home slice the core writes back and drops its copy of the line, whether the lane's condition
holds or it waits there (R297). -/
def State.toHome (s : State) (c place : Nat) : State := (s.l1Drop c (lineOf place)).obtainHome (lineOf place)

/-- The same, with the request's tokens (R413). -/
def State.toSlice (s : State) (c place : Nat) : State := (s.charge c 8).toHome c place

/-- One lane of LDFE (0), LDFF (1), STFE (2) or STFF (3) at its slice, and whether its condition holds, so that it is performed
(R296); a poisoned word that it would read stops the context (R124). -/
def wordLane (fn d : Nat) (x : Ctx) (l place : Nat) (s : State) : Res (State × Bool) :=
  let need := fn != 2
  if s.owned.has (lineOf place) then .ok (s, false)
  else if s.tag place != need then .ok (s.toHome x.c place, false)
  else
    let s := s.toSlice x.c place
    if fn < 2 then
      if s.poisoned place 8 then .error (.poison place)
      else
        let v := s.readNat place 8
        let s := if fn = 0 then s.setTag place false else s
        .ok (s.updWarp x fun w => w.set d l 3 v, true)
    else .ok ((s.write place (bytesOf 8 (x.w.regs.get d l 3))).setTag place true, true)

/-- The lanes in ascending order; a lane that waits holds back the higher lanes of its word (R297). The lanes
that still wait are returned. -/
def wordLanesLoop (fn d : Nat) (x : Ctx) : List (Nat × Nat) → List (Nat × Nat) → State →
    Res (State × List (Nat × Nat))
  | [], held, s => .ok (s, held)
  | (l, p) :: ps, held, s =>
    if held.any fun q => q.2 == p then wordLanesLoop fn d x ps (held ++ [(l, p)]) s
    else do
      let (s, now) ← wordLane fn d x l p s
      wordLanesLoop fn d x ps (if now then held else held ++ [(l, p)]) s

/-- The warp of a context sleeps in an instruction that stays in the operand log, some lanes of it performed (R44, R297). -/
def State.sleepIn (s : State) (x : Ctx) (wt : Wait) (done : W64) : State :=
  s.updWarp x fun w => let w := w.slept wt; { w with ctl := { w.ctl with done := done } }

/-- What LDFE, LDFF, STFE and STFF do: each lane not yet performed whose condition holds is performed, and a CLAMPED one is done;
while one is not, the warp sleeps (R296, R297). The addresses are those of the lanes that are left, from the logged registers. -/
def performWord (fn d xr b : Nat) (x : Ctx) (s : State) : Res State := do
  let x := { x with active := x.active &&& ~~~ x.done }
  let (as, zs) ← s.wordLanes x xr b (decide (2 ≤ fn))
  let s := s.updWarp x fun w =>
    if fn < 2 then as.foldl (fun w p => if p.2.isNone then w.set d p.1 3 0 else w) w else w
  let (t, left) ← wordLanesLoop fn d x zs [] s
  if left.isEmpty then .ok t
  else
    let now := maskOf ((as.map Prod.fst).filter fun l => !(left.any fun p => p.1 == l))
    .ok (t.sleepIn x (.words (left.map fun p => lineOf p.2)) (x.done ||| now))

def wordOp (fn : Fin 4) (d x : VReg) (b : BReg) (s : State) : Host.Outcome State Fault Refusal :=
  issueLong false false (.word fn d x b) 0 (dataChecks d.val x.val 8) (performWord fn.val d.val x.val b.val) s

def execLdfe (d x : VReg) (b : BReg) (s : State) := wordOp 0 d x b s
def execLdff (d x : VReg) (b : BReg) (s : State) := wordOp 1 d x b s
def execStfe (d x : VReg) (b : BReg) (s : State) := wordOp 2 d x b s
def execStff (d x : VReg) (b : BReg) (s : State) := wordOp 3 d x b s

/-- What TAGRD does (R296). -/
def performTagrd (d xr b : Nat) (x : Ctx) (s : State) : Res State := do
  let (as, zs) ← s.wordLanes x xr b false
  if zs.any fun p => s.owned.has (lineOf p.2) then .error .defer
  else
    let tags := zs.map fun p => (p.1, if s.tag p.2 then 1 else 0)
    let s := zs.foldl (fun s p => s.toSlice x.c p.2) s
    .ok (s.updWarp x fun w => as.foldl (fun w p => w.wrV d p.1 (BitVec.ofNat 32 (laneVal tags p.1))) w)

/-- What TAGWR does (R296). -/
def performTagwr (d xr b : Nat) (x : Ctx) (s : State) : Res State := do
  let (_, zs) ← s.wordLanes x xr b true
  if zs.any fun p => s.owned.has (lineOf p.2) then .error .defer
  else .ok (zs.foldl (fun s p => (s.toSlice x.c p.2).setTag p.2 ((x.w.rdV d p.1).getLsbD 0)) s)

def execTagrd (d x : VReg) (b : BReg) (l : La) (s : State) : Host.Outcome State Fault Refusal :=
  issueLong false false (.tagrd d x b) l.val (dataChecks d.val x.val 4) (performTagrd d.val x.val b.val) s
def execTagwr (d x : VReg) (b : BReg) (l : La) (s : State) : Host.Outcome State Fault Refusal :=
  issueLong false false (.tagwr d x b) l.val (dataChecks d.val x.val 4) (performTagwr d.val x.val b.val) s

/-! ## Scratchpad lines -/

/-- Lanes of a line operation, with their addresses and places: core or cluster space only, ACCESS with SUB 8 elsewhere
(R299). -/
def State.lineLanes (s : State) (x : Ctx) (xr b : Nat) (write : Bool) :
    Res (List (Nat × Option Nat) × List (Nat × Nat × Nat)) := do
  let r := x.bufRec b
  let as ← s.addresses x b xr 4 4 write
  let ok := okLanes as
  spaceCheck ok fun _ => recSpace r != SP_CORE && recSpace r != SP_CLUSTER
  .ok (as, ok.map fun p => (p.1, p.2, s.scratchPlace x (recSpace r) p.1 (swizzle r p.2)))

/-- Every OK lane, given with its address and place, addresses the line of the lowest; the others raise ALIGNMENT with
their addresses (R116, R209, R299). -/
def oneLine (ls : List (Nat × Nat × Nat)) : Res (Option Nat) :=
  match ls with
  | [] => .ok none
  | p :: _ =>
    let bad := ls.filter fun q => lineOf q.2.2 != lineOf p.2.2
    if bad.isEmpty then .ok (some (lineOf p.2.2))
    else raiseLanes ALIGNMENT (bad.map fun q => (q.1, 0, (BitVec.ofNat 64 q.2.1, 0, 0)))

/-- The full/empty bit of a line takes a value, and those that sleep on it learn of it (R115). -/
def State.setLineBit (s : State) (ln : Nat) (b : Bool) : State :=
  { s with lineFull := s.lineFull.put false ln b, touchedBits := addNew s.touchedBits ln }

/-- A warp's place in the order of arrivals at a line: the one it has while it waits, else the next (R116). -/
def State.lineSeq (s : State) (x : Ctx) : Nat :=
  match (s.warpOf x).wait with
  | .line _ _ seq => seq
  | _ => s.waitSeq

/-- STP's act on a line whose bit is empty, and LDC's on one whose bit is full (R299). STP is a release, LDC an acquire:
at TEAM scope, or at CLUSTER scope through cluster space. -/
def State.lineAct (s : State) (x : Ctx) (stp : Bool) (d b ln : Nat) (as : List (Nat × Option Nat))
    (ls : List (Nat × Nat × Nat)) : State :=
  let scope := if recSpace (x.bufRec b) = SP_CLUSTER then 1 else 0
  let s := s.farAt x.c ln 128
  let s :=
    if stp then
      ls.foldl (fun s p => s.write p.2.2 (bytesOf 4 (x.w.rdV d p.1).toNat)) (s.fenceRelease x.w x.c x.k scope)
    else
      let vs := ls.map fun p => (p.1, s.readNat p.2.2 4)
      (s.updWarp x fun w =>
        as.foldl (fun w p => w.wrV d p.1 (BitVec.ofNat 32 (laneVal vs p.1))) w).fenceAcquire x.w x.c scope
  s.setLineBit ln stp

/-- What LDC (fn 0) and STP (fn 1) do: one act on a line when its bit allows it and no engine holds it, else the warp
sleeps, keeping its place among the arrivals (R116, R299). -/
def performLine (fn d xr b : Nat) (x : Ctx) (s : State) : Res State := do
  let stp := fn == 1
  let (as, ls) ← s.lineLanes x xr b stp
  match ← oneLine ls with
  | none => .ok (if stp then s else s.updWarp x fun w => as.foldl (fun w p => w.wrV d p.1 0) w)
  | some ln =>
    if s.lineFull.getD ln false == stp || s.owned.has ln then
      .ok { s.sleepIn x (.line ln (!stp) (s.lineSeq x)) 0 with waitSeq := s.waitSeq + 1 }
    else
      match ls.find? fun p => !stp && s.poisoned p.2.2 4 with
      | some p => .error (.poison p.2.2)
      | none => .ok (s.lineAct x stp d b ln as ls)

/-- STP waits until every earlier access of its warp is complete (R299). -/
def lineOp (fn : Fin 2) (d x : VReg) (b : BReg) (s : State) : Host.Outcome State Fault Refusal :=
  issueLong (fn.val == 1) false (.line fn d x b) 0 (dataChecks d.val x.val 4) (performLine fn.val d.val x.val b.val) s

def execLdc (d x : VReg) (b : BReg) (s : State) := lineOp 0 d x b s
def execStp (d x : VReg) (b : BReg) (s : State) := lineOp 1 d x b s

/-- What LNRD does (R300). -/
def performLnrd (d xr b : Nat) (x : Ctx) (s : State) : Res State := do
  let (as, ls) ← s.lineLanes x xr b false
  let vs := ls.map fun p => (p.1, if s.lineFull.getD (lineOf p.2.2) false then 1 else 0)
  .ok (s.updWarp x fun w => as.foldl (fun w p => w.wrV d p.1 (BitVec.ofNat 32 (laneVal vs p.1))) w)

/-- What LNWR does (R300). -/
def performLnwr (d xr b : Nat) (x : Ctx) (s : State) : Res State := do
  let (_, ls) ← s.lineLanes x xr b true
  .ok (ls.foldl (fun s p => s.setLineBit (lineOf p.2.2) ((x.w.rdV d p.1).getLsbD 0)) s)

def execLnrd (d x : VReg) (b : BReg) (l : La) (s : State) : Host.Outcome State Fault Refusal :=
  issueLong false false (.lnrd d x b) l.val (dataChecks d.val x.val 4) (performLnrd d.val x.val b.val) s
def execLnwr (d x : VReg) (b : BReg) (l : La) (s : State) : Host.Outcome State Fault Refusal :=
  issueLong false false (.lnwr d x b) l.val (dataChecks d.val x.val 4) (performLnwr d.val x.val b.val) s

end Sys2Proof.Machine
end

