-- ==== Sys2Proof/Machine/Barrier.lean ====
section
/-! DEFINITION. Hardware barriers (R156 to R163, R166, R311 to R314), barrier cells (R164, R165, R315) and WSYNC
(R167, R316). -/

namespace Sys2Proof.Machine

/-! ## Barriers in the state -/

def State.barOpt (s : State) : BarRef → Option Barrier
  | .team c key => (s.core c).bars.look key
  | .cluster j k n => (s.job j).cbars.look (16 * k + n)
  | .grid j n => (s.job j).gbars.look n

def State.bar (s : State) (b : BarRef) : Barrier := (s.barOpt b).getD {}

def State.updJob (s : State) (j : Nat) (f : Job → Job) : State :=
  match s.jobs.look j with
  | some x => { s with jobs := s.jobs.ins j (f x) }
  | none => s

def State.setBar (s : State) (b : BarRef) (x : Barrier) : State :=
  match b with
  | .team c key => let cr := s.core c; s.setCore c { cr with bars := cr.bars.ins key x }
  | .cluster j k n => s.updJob j fun jb => { jb with cbars := jb.cbars.ins (16 * k + n) x }
  | .grid j n => s.updJob j fun jb => { jb with gbars := jb.gbars.ins n x }

/-- The core whose pool holds a team's barriers (R156). -/
def teamCore (w : Warp) (c : Nat) : Nat := if w.id.pair then c / 2 * 2 else c

/-- The barrier that a selector names for a warp. -/
def barRefOf (w : Warp) (c level n : Nat) : BarRef :=
  match level with
  | 1 => .team (teamCore w c) (128 * w.id.teamIdx + n)
  | 2 => .cluster w.id.job (clusterOf c) n
  | _ => .grid w.id.job n

/-- The role masks of a job's cluster or grid barriers (R157, R394). -/
def roleMask (jr : JobRec) (b : BarRef) : Nat :=
  match b with
  | .team _ _ => 15
  | .cluster _ _ n => jr.clusMasks.getD n 0
  | .grid _ n => jr.gridMasks.getD n 0

/-- Is the warp a member (R157, R158)? A handler warp belongs to no role (R34). -/
def State.member (s : State) (w : Warp) (b : BarRef) : Bool :=
  !w.id.handler &&
  match b with
  | .team _ _ => (s.bar b).memb.getLsbD w.id.twarp
  | _ => (roleMask (s.job w.id.job).r b).testBit w.id.role.toNat

/-- The warp's arrived bit (R158). -/
def State.arrived (s : State) (w : Warp) (b : BarRef) : Bool :=
  !w.id.handler &&
  match b with
  | .team _ _ => (s.bar b).amask.getLsbD w.id.twarp
  | .cluster _ _ n => w.arrC.getLsbD n
  | .grid _ n => w.arrG.getLsbD n

/-- Has the warp's team still to join the barrier (R161)? -/
def Warp.notJoined (w : Warp) (b : BarRef) : Bool :=
  match b with
  | .team _ _ => false
  | .cluster _ _ n => w.lateC.getLsbD n
  | .grid _ n => w.lateG.getLsbD n

def bit16 (n : Nat) : BitVec 16 := BitVec.ofNat 16 (2 ^ n)
def bit128 (n : Nat) : BitVec 128 := BitVec.ofNat 128 (2 ^ n)

/-- The warps that belong to a barrier's scope, as slot keys. -/
def inScope (key : Nat) (w : Warp) (b : BarRef) : Bool :=
  w.st != .free && !w.id.task && !w.id.handler &&
  match b with
  | .team c k => teamCore w (key / 128) == c && decide (k / 128 = w.id.teamIdx)
  | .cluster j cl _ => w.id.job == j && decide (key / 512 = cl)
  | .grid j _ => w.id.job == j

/-- Scope of a barrier's synchronisation (R149). -/
def barScope : BarRef → Nat
  | .team _ _ => 0
  | .cluster _ _ _ => 1
  | .grid _ _ => 3

/-- The clusters that have arrived, by their latest arrivals, with one more arrival of a cluster. -/
def arrivedLast (ks : List Nat) (k : Nat) : List Nat := (ks.filter (· != k)) ++ [k]

/-- The clusters of some arrivals, given by slot in their order, by the latest arrival of each (R45). -/
def arrivalClusters (keys : List Nat) : List Nat := keys.foldl (fun ks key => arrivedLast ks (key / 512)) []

/-- Scores a completion (R45): the cluster of the final arrival gains a point, the one whose last member arrived
earliest loses one. -/
def State.scoreFor (s : State) (j : Nat) (ks : List Nat) : State :=
  let jb := s.job j
  let p := s.part jb.part
  if !jb.r.bal || p.pin then s
  else
    let s := s.setPart jb.part { p with scored := p.scored + 1 }
    match ks, ks.getLast? with
    | a :: _, some z =>
      if a = z then s
      else
        let m := s.scores.put 0 z (s.scores.getD z 0 + 1)
        { s with scores := m.put 0 a (m.getD a 0 - 1) }
    | _, _ => s

/-- Team and grid barriers are scored (R45). -/
def State.scoreBar (s : State) (b : BarRef) (ks : List Nat) : State :=
  match b with
  | .team c _ => ((s.core c).occ.map fun j => s.scoreFor j ks).getD s
  | .grid j _ => s.scoreFor j ks
  | .cluster _ _ _ => s

/-- Counts a warp's arrival in the open phase: its bit and ARR. -/
def State.countArrival (s : State) (key : Nat) (b : BarRef) : State :=
  let w := s.slots.getD key {}
  let x := s.bar b
  let x := { x with arrs := x.arrs ++ [key] }
  match b with
  | .team _ _ => s.setBar b { x with arr := x.arr + 1, amask := x.amask ||| bit128 w.id.twarp }
  | .cluster _ _ n =>
    { s with slots := s.slots.ins key { w with arrC := w.arrC ||| bit16 n } }.setBar b { x with arr := x.arr + 1 }
  | .grid _ n =>
    { s with slots := s.slots.ins key { w with arrG := w.arrG ||| bit16 n } }.setBar b { x with arr := x.arr + 1 }

/-- A sleeping warp wakes, having waited at a barrier: an acquire at the barrier's scope (R149). -/
def State.wakeBar (s : State) (key : Nat) (b : BarRef) : State :=
  let w := s.slots.getD key {}
  let s := { s with slots := s.slots.ins key { w with st := .active, wait := .none } }
  s.fenceAcquire w (key / 128) (barScope b)

/-- What the completion does for one warp in the barrier's scope: it wakes if it waits for the phase, its team
joins, and a held arrival is counted (R159 to R161). -/
def State.barrierWarp (b : BarRef) (s : State) (key : Nat) : State :=
  let w := s.slots.getD key {}
  let late := w.notJoined b
  let s :=
    match b with
    | .team _ _ => s
    | .cluster _ _ n =>
      { s with slots := s.slots.ins key { w with arrC := w.arrC &&& ~~~ bit16 n, lateC := w.lateC &&& ~~~ bit16 n } }
    | .grid _ n =>
      { s with slots := s.slots.ins key { w with arrG := w.arrG &&& ~~~ bit16 n, lateG := w.lateG &&& ~~~ bit16 n } }
  let s := if late && s.member w b then s.setBar b { s.bar b with exp := (s.bar b).exp + 1 } else s
  match w.wait with
  | .barrier b' held waits _ =>
    if w.st != .asleep || b' != b then s
    else if !held then s.wakeBar key b
    else
      let s := s.countArrival key b
      if waits then
        let w := s.slots.getD key {}
        { s with slots := s.slots.ins key { w with wait := .barrier b false true (s.bar b).ph } }
      else s.wakeBar key b
  | _ => s

/-- Completes the open phase (R159). Held arrivals that then count together have no order in the spec: for scoring (R45) the model
takes them in the order of their slots (DESIGN CHOICE: log 116). -/
def State.completePhase (s : State) (b : BarRef) : State :=
  let x := s.bar b
  let s := (s.setBar b { x with arr := 0, amask := 0, barr := x.barr - x.bexp, bexp := 0, ph := !x.ph, arrs := [] }).scoreBar
    b (arrivalClusters x.arrs)
  let s := match b with
    | .team c _ => ((s.core c).occ.map fun j => s.pulse j).getD s
    | .cluster j _ _ => s.pulse j
    | .grid j _ => s.pulse j
  let keys := (s.slots.keep fun key w => inScope key w b).keys
  keys.foldl (State.barrierWarp b) s

/-- Tests completion, again while held arrivals fill the next phase (R159, R160). -/
def State.testBar (b : BarRef) : Nat → State → State
  | 0, s => s
  | n + 1, s =>
    let x := s.bar b
    if x.exp ≤ x.arr ∧ x.bexp ≤ x.barr then
      let t := s.completePhase b
      if (t.bar b).arr = 0 then t else State.testBar b n t
    else s

/-- One arrival leaves at most 128 held ones to count in turn. -/
def State.test (s : State) (b : BarRef) : State := s.testBar b 130

/-- Bytes counted at a barrier (R162). -/
def State.barBytes (s : State) (b : BarRef) (n : Nat) : State :=
  match s.barOpt b with
  | none => s
  | some x =>
    let v := x.barr + n
    (s.setBar b { x with barr := min v (2 ^ 32 - 1), ovf := x.ovf || decide (2 ^ 32 ≤ v) }).test b

/-- Are there members left? A warp whose team has still to join is none yet (R161). -/
def State.hasMembers (s : State) (b : BarRef) : Bool :=
  match b with
  | .team _ _ => (s.bar b).memb != 0
  | _ => s.slots.any fun p => inScope p.1 p.2 b && s.member p.2 b && !p.2.notJoined b

/-- Is the warp of a slot in the barrier's scope, and has it arrived? -/
def State.stillArrived (s : State) (b : BarRef) (key : Nat) : Bool :=
  let w := s.slots.getD key {}
  inScope key w b && s.arrived w b

/-- A member leaves a barrier, and its arrival with it (R161). The slot is FREE already. -/
def State.leaveBar (s : State) (w : Warp) (b : BarRef) : State :=
  if !s.member w b || w.notJoined b || (s.barOpt b).isNone then s
  else
    let x := s.bar b
    let had := s.arrived w b
    let x := { x with exp := x.exp - 1, arr := if had then x.arr - 1 else x.arr, arrs := x.arrs.filter (s.stillArrived b) }
    let x :=
      match b with
      | .team _ _ => { x with memb := x.memb &&& ~~~ bit128 w.id.twarp, amask := x.amask &&& ~~~ bit128 w.id.twarp }
      | _ => x
    let s := s.setBar b x
    if s.hasMembers b then s.test b
    else
      let t := (s.setBar b { s.bar b with exp := 0 }).completePhase b
      t.test b

/-- The barriers that a warp may be a member of. -/
def State.barsOf (s : State) (w : Warp) (c : Nat) : List BarRef :=
  (((s.core (teamCore w c)).bars.keys.filter fun k => k / 128 == w.id.teamIdx).map fun k =>
    BarRef.team (teamCore w c) k) ++
  ((List.range 16).map fun n => BarRef.cluster w.id.job (clusterOf c) n) ++
  ((List.range 16).map fun n => BarRef.grid w.id.job n)

/-- A warp that ends leaves every barrier (R161); tasks and handler warps are members of none (R157). -/
def State.leaveBarriers (s : State) (w : Warp) (c : Nat) : State :=
  if w.id.task || w.id.handler then s else (s.barsOf w c).foldl (fun s b => s.leaveBar w b) s

/-! ## BAR, BARA, BARW, BARX, BARINIT (R311 to R313) -/

/-- Checks of an instruction that names a barrier: level codes (SUB 5), no task (R160), a barrier that exists
(ACCESS, SUB 10). -/
def State.barChecks (s : State) (w : Warp) (c level n top : Nat) : Res BarRef := do
  need (decide (1 ≤ level) && decide (level ≤ top)) ILLEGAL 5
  need (!w.id.task) MEMBERSHIP_DIVERGENCE 0
  let b := barRefOf w c level n
  let declared :=
    match b with
    | .team _ _ => (s.barOpt b).isSome
    | _ => roleMask (s.job w.id.job).r b != 0
  need declared ACCESS 10
  .ok b

/-- arrive(b) (R312), then sleep when `waits`. The arrival is a release (R149). -/
def State.arrive (s : State) (b : BarRef) (waits : Bool) : State :=
  let w := s.cw
  let s := s.fenceRelease w s.cur.1 s.cur.2 (barScope b)
  let s := s.setCw s.cw.advance
  let ph := (s.bar b).ph
  let key := slotKey s.cur.1 s.cur.2
  let sleepOn := fun (s : State) (held : Bool) =>
    s.setCw (s.cw.slept (.barrier b held waits ph))
  if s.arrived w b || w.notJoined b then sleepOn s true
  else
    let s := s.countArrival key b
    (if waits then sleepOn s false else s).test b

/-- A barrier arrival: an ordering instruction (R136) that a member issues (R160). -/
def barArrive (waits : Bool) (l : Fin 8) (k : Fin 128) (s : State) : Host.Outcome State Fault Refusal :=
  let w := s.cw
  let go : Res BarRef := do
    let b ← s.barChecks w s.cur.1 l.val k.val 3
    need (s.member w b) MEMBERSHIP_DIVERGENCE 0
    .ok b
  match go with
  | .error e => .next (s.stopNow true e)
  | .ok b => if !w.log.isEmpty then .next s else commitS s true (.ok (s.arrive b waits))

def execBar (l : Fin 8) (k : Fin 128) (s : State) := barArrive true l k s
def execBara (l : Fin 8) (k : Fin 128) (s : State) := barArrive false l k s

/-- BARW sleeps until the phase of the warp's arrival completes; when it has completed, or the warp has not arrived, BARW
completes at once, as the wake would (R149, R160, R312). -/
def execBarw (l : Fin 8) (k : Fin 128) (s : State) : Host.Outcome State Fault Refusal :=
  let w := s.cw
  match s.barChecks w s.cur.1 l.val k.val 3 with
  | .error e => .next (s.stopNow true e)
  | .ok b =>
    if !w.log.isEmpty then .next s
    else
      commitS s true (.ok (if s.arrived w b then s.setCw (w.advance.slept (.barrier b false true (s.bar b).ph))
        else (s.setCw w.advance).fenceAcquire w s.cur.1 (barScope b)))

/-- BARX adds to BEXP (R162, R313). -/
def execBarx (a : SReg) (l : Fin 8) (k : Fin 128) (s : State) : Host.Outcome State Fault Refusal :=
  let w := s.cw
  commitS s true do
    let b ← s.barChecks w s.cur.1 l.val k.val 2
    let x := s.bar b
    let v := (w.rdS a.val).toNat
    need (decide (v < 2 ^ 32) && decide (x.bexp + v < 2 ^ 32)) ILLEGAL 5
    .ok ((s.setBar b { x with bexp := x.bexp + v }).setCw w.advance)

/-- BARINIT (R162, R313). -/
def execBarinit (a : SReg) (l : Fin 8) (k : Fin 128) (s : State) : Host.Outcome State Fault Refusal :=
  let w := s.cw
  commitS s true do
    let b ← s.barChecks w s.cur.1 l.val k.val 2
    let e := (w.rdS a.val).toNat
    need (decide (e ≤ if l.val = 1 then 128 else 256)) ILLEGAL 5
    .ok (((s.setCw w.advance).setBar b { s.bar b with exp := e, barr := 0, bexp := 0 }).test b)

/-! ## BARALLOC and BARFREE (R166, R314) -/

/-- The lowest number of a team's barriers that BARALLOC may take. -/
def State.freeBar (s : State) (w : Warp) (c : Nat) : Option Nat :=
  let bars := (s.core (teamCore w c)).bars
  if bars.length < 128 then
    let ntb := (s.job w.id.job).r.ntb
    ((List.range (128 - ntb)).map (· + ntb)).find? fun n => !bars.has (128 * w.id.teamIdx + n)
  else none

def execBaralloc (d a : SReg) (s : State) : Host.Outcome State Fault Refusal :=
  let w := s.cw
  commitS s true do
    need (!w.id.task) MEMBERSHIP_DIVERGENCE 0
    if w.id.pair then aligned 2 [a.val]
    let m : BitVec 128 :=
      BitVec.ofNat 128 ((w.rdS a.val).toNat + if w.id.pair then 2 ^ 64 * (w.rdS (a.val + 1)).toNat else 0)
    need (decide (m.toNat < 2 ^ (w.id.twn + 1))) ILLEGAL 5
    match s.freeBar w s.cur.1 with
    | none => .ok (s.setCw (w.wrS d.val (BitVec.allOnes 64)).advance)
    | some n =>
      let s := s.setCw (w.wrS d.val (BitVec.ofNat 64 n)).advance
      .ok (s.setBar (.team (teamCore w s.cur.1) (128 * w.id.teamIdx + n)) { memb := m, exp := popBits 128 m.toNat })

/-- Does a warp sleep on a barrier? -/
def State.barSleepers (s : State) (b : BarRef) : Bool :=
  s.slots.any fun p => p.2.st == .asleep && match p.2.wait with | .barrier b' _ _ _ => b' == b | _ => false

def execBarfree (d : SReg) (k : Fin 128) (s : State) : Host.Outcome State Fault Refusal :=
  let w := s.cw
  commitS s true do
    need (!w.id.task) MEMBERSHIP_DIVERGENCE 0
    let c := teamCore w s.cur.1
    let key := 128 * w.id.teamIdx + k.val
    let b := BarRef.team c key
    need (decide ((s.job w.id.job).r.ntb ≤ k.val) && (s.barOpt b).isSome) ACCESS 10
    if (s.bar b).arr ≠ 0 ∨ s.barSleepers b then .ok (s.setCw (w.wrS d.val 1).advance)
    else
      let s := s.setCw (w.wrS d.val 0).advance
      let cr := s.core c
      .ok (s.setCore c { cr with bars := cr.bars.del key })

/-! ## Barrier cells (R164, R165, R315) -/

/-- A barrier cell. -/
structure Cell where
  arr : Nat := 0
  exp : Nat := 0
  ph : Bool := false
  barr : Nat := 0
  bexp : Nat := 0
  /-- the reserved bits, kept as they are -/
  rsv : Nat := 0
  deriving DecidableEq, Repr

def State.readCell (s : State) (place : Nat) : Cell :=
  let a := s.readNat place 8
  let b := s.readNat (place + 8) 8
  { arr := a % 2 ^ 32, exp := a / 2 ^ 32 % 256, rsv := a / 2 ^ 40 % 2 ^ 23, ph := a.testBit 63
    barr := b % 2 ^ 32, bexp := b / 2 ^ 32 }

def State.writeCell (s : State) (place : Nat) (x : Cell) : State :=
  let a := x.arr % 2 ^ 32 + 2 ^ 32 * (x.exp % 256) + 2 ^ 40 * x.rsv + if x.ph then 2 ^ 63 else 0
  s.write place (bytesOf 8 a ++ bytesOf 8 (x.barr % 2 ^ 32 + 2 ^ 32 * x.bexp))

/-- Completes a cell's phase when it is due (R159, R165). -/
def Cell.test (x : Cell) : Cell :=
  if x.exp ≤ x.arr ∧ x.bexp ≤ x.barr then
    { x with arr := 0, barr := x.barr - x.bexp, bexp := 0, ph := !x.ph }
  else x

/-- Bytes of a multicast counted at a cell (R165). -/
def State.cellBytes (s : State) (place n : Nat) : State :=
  let s := s.obtainHome (lineOf place)
  let x := s.readCell place
  s.writeCell place { x with barr := (x.barr + n) % 2 ^ 32 }.test

/-- The warp sleeps until the cell's PH differs from the value at its arrival, or goes on with an acquire at PACKAGE scope
when it already does (R149, R165). -/
def State.cellWait (s : State) (x : Ctx) (va place : Nat) (ph : Bool) : State :=
  if (s.readCell place).ph = ph then s.updWarp x fun w => w.slept (.cell va ph)
  else (s.updWarp x fun w => { w with cells := w.cells.del va }).fenceAcquire x.w x.c 3

/-- What a BARM operation does at its cell, which it reads unless a wait has no arrival of the warp to wait for (R124, R164). -/
def State.cellOp (s : State) (x : Ctx) (fn va place v : Nat) : Res State :=
  if fn = 2 then
    match x.w.cells.look va with
    | some ph => if s.poisoned place 16 then .error (.poison place) else .ok (s.cellWait x va place ph)
    | none => .ok s
  else
    let s := if fn ≤ 1 then s.fenceRelease x.w x.c x.k 3 else s
    let s := s.toSlice x.c place
    let y := s.readCell place
    if s.poisoned place 16 then .error (.poison place)
    else match fn with
    | 3 => if y.bexp + v < 2 ^ 32 then .ok (s.writeCell place { y with bexp := y.bexp + v }) else raise ILLEGAL 5
    | 4 => .ok (s.writeCell place { y with exp := v, barr := 0, bexp := 0 }.test)
    | _ =>
      let s := s.writeCell place { y with arr := (y.arr + 1) % 2 ^ 32 }.test
      let s := s.updWarp x fun w => { w with cells := w.cells.ins va y.ph }
      .ok (if fn = 0 then s.cellWait x va place y.ph else s)

/-- The value of BARM's codes 3 and 4, from s[a+1]. -/
def barmValue (w : Warp) (fn a : Nat) : Nat := if 3 ≤ fn then (w.rdS (a + 1)).toNat else 0

/-- The checks of BARM's registers (R315). -/
def barmChecks (fn a : Nat) (w : Warp) : Res Unit := do
  if 3 ≤ fn then aligned 2 [a]
  let v := barmValue w fn a
  need (!(fn == 3 && decide (2 ^ 32 ≤ v)) && !(fn == 4 && decide (128 < v))) ILLEGAL 5

/-- What BARM does: the cell's checks, then its operation (R164, R165, R315). `sub` is the SUB of a cell outside global
space, which is not stated (log 14). -/
def performBarm (fn a sub : Nat) (x : Ctx) (s : State) : Res State := do
  let va := (x.w.rdS a).toNat
  let v := barmValue x.w fn a
  needDet (decide (va < 2 ^ 57)) ACCESS sub (BitVec.ofNat 64 va) 0 0
  needDet (va % 16 == 0) ALIGNMENT 0 (BitVec.ofNat 64 va) 0 0
  let (place, _) ← s.global x.c x.w.id.part .write va
  if s.owned.has (lineOf place) then .error .defer else s.cellOp x fn va place v

/-- BARM (R315): an ordering instruction that takes an operand-log entry as if its la were 0. Its wait is no part of the
entry: the cell's arrival is made, and the warp sleeps as at a barrier. -/
def barmOp (fn : Fin 5) (a : SReg) (s : State) : Host.Outcome State Fault Refusal :=
  let w := s.cw
  let op := LongOp.barm fn a
  match barmChecks fn.val a.val w with
  | .error e => .next (s.stopNow true e)
  | .ok _ =>
    if !w.log.isEmpty || !s.hasRoom op then .next s
    else
      let (sub, s) := if 2 ^ 57 ≤ (w.rdS a.val).toNat then s.takeNat else (0, s)
      match performBarm fn.val a.val (sub % 256) s.ctx s with
      | .ok t => .next (t.retire t.cw.advance)
      | .error (.fault ps) => .next (s.enterLog op 0 ps)
      | .error .defer => .next (s.enterLog op 0 [])
      | .error e => .next (s.stopNow true e)

def execBarmAw (a : SReg) (s : State) := barmOp 0 a s
def execBarmArrive (a : SReg) (s : State) := barmOp 1 a s
def execBarmWait (a : SReg) (s : State) := barmOp 2 a s
def execBarmBytes (a : SReg) (s : State) := barmOp 3 a s
def execBarmInit (a : SReg) (s : State) := barmOp 4 a s

/-! ## WSYNC (R167, R316) -/

/-- The mask that a lane supplies. -/
def Warp.syncMask (w : Warp) (a l : Nat) : W64 :=
  let hi := if w.id.width = 64 then (w.rdV (a + 1) l).toNat else 0
  BitVec.ofNat 64 (((w.rdV a l).toNat + 2 ^ 32 * hi) % 2 ^ w.id.width)

/-- WSYNC: one agreed mask whose live lanes are all active; it closes every open window (R307). -/
def execWsync (a : VReg) (s : State) : Host.Outcome State Fault Refusal :=
  let w := s.cw
  let checks : Res Unit := do
    w.has [a.val]
    if w.id.width = 64 then do
      w.has [a.val + 1]
      aligned 2 [a.val]
    match w.lanes with
    | [] => .ok ()
    | l :: ls =>
      let m := w.syncMask a.val l
      need ((ls.all fun k => w.syncMask a.val k == m) && (m &&& w.ctl.live &&& ~~~ w.active) == 0)
        MEMBERSHIP_DIVERGENCE 0
  match checks with
  | .error e => .next (s.stopNow false e)
  | .ok _ =>
    if !w.log.isEmpty && !w.lanes.isEmpty then .next s else commitW s false (.ok w.advance)

end Sys2Proof.Machine
end

