-- ==== Sys2Proof/Machine/Clock.lean ====
section
/-! DEFINITION. Cluster clocks: balancing and changes (R45 to R47). -/

namespace Sys2Proof.Machine

/-- A cluster's clock in steps of 50 MHz above 900 MHz (R46, R411). -/
def State.clock (s : State) (k : Nat) : Nat := s.clocks.getD k 12

/-- Where a cluster's clock is going, the power controller's lowerings left out (R437). -/
def State.clockGoal (s : State) (k : Nat) : Nat := s.clockReq.getD k (s.clock k + (s.hm.lowered.filter (· == k)).length)

/-- A change is requested; it takes effect within 10 µs (R46). No cluster leaves 0.9 to 1.8 GHz. -/
def State.askClock (s : State) (k step : Nat) : State := { s with clockReq := s.clockReq.ins k (min step 18) }

/-- A list of scored clusters, in descending score, then ascending number. -/
def byScore : List (Nat × Int) → List (Nat × Int)
  | [] => []
  | x :: xs => (byScore xs).takeWhile (fun y => decide (x.2 < y.2)) ++ [x] ++
      (byScore xs).dropWhile (fun y => decide (x.2 < y.2))

/-- The package cap that holds: HM_CAP within the variant's range, and 700 W while UNDERV is set (R434, R437, R438). -/
def Health.capNow (h : Health) : Nat :=
  if h.underv then 700 else max 700 (min h.cap.toNat (if Config.air then 900 else 1800))

/-- A partition's share of the package cap in W: PT_PWR; when those of the enabled partitions exceed the cap, all scaled by the same
factor (R46, R411). -/
def State.powerShare (s : State) (p : Nat) : Nat :=
  let total := s.parts.foldl (fun n q => if q.2.en then n + q.2.pwr.toNat else n) 0
  let mine := (s.part p).pwr.toNat
  if total ≤ s.hm.capNow then mine else mine * s.hm.capNow / total

/-- Raises clusters in turn while the partition's estimate in W, with 25 W for each step (R438), stays within its share (R46). -/
def State.raiseClocks (share : Nat) : List (Nat × Int) → Nat → State → State
  | [], _, s => s
  | x :: xs, est, s =>
    if est + 25 ≤ share then State.raiseClocks share xs (est + 25) (s.askClock x.1 (s.clockGoal x.1 + 1)) else s

/-- CLOCK_BALANCE (R46); never in a partition whose clock is pinned (R47). What the partition's power is estimated at before the raises
the spec does not say: a free value (log 126). -/
def execClockBalance (part : PartId) (s : State) : Host.Outcome State Fault Refusal :=
  let p := s.part part.val
  let mine := s.scores.filter fun x => p.clus.getLsbD x.1
  let up := byScore (mine.filter fun x => decide (0 < x.2))
  let down := mine.filter fun x => decide (x.2 < 0)
  let (est, t) := s.takeNat
  let t := down.foldl (fun s x => s.askClock x.1 (s.clockGoal x.1 - 1)) (State.raiseClocks (s.powerShare part.val) up est t)
  let t := { t with scores := t.scores.keep fun k _ => !p.clus.getLsbD k }
  eventIf (!p.pin && decide (16 ≤ p.scored)) "CLOCK_BALANCE" (t.setPart part.val { p with scored := p.scored - 16 })

/-- The steps by which the power controller has lowered clusters, latest first, when cluster k has n of them. -/
def lowerings (k n : Nat) (ks : List Nat) : List Nat :=
  let mine := (ks.filter (· == k)).length
  let z := ks.foldl (fun (acc : List Nat × Nat) x =>
    if x = k then (if acc.2 < n then (acc.1 ++ [x], acc.2 + 1) else acc) else (acc.1 ++ [x], acc.2)) ([], 0)
  z.1 ++ List.replicate (n - mine) k

/-- CLUSTER_CLOCK_CHANGE. A cluster that the power controller has lowered does not rise by a request: its clock comes back by the
controller's own steps (R437), which then lead to the clock asked for. -/
def execClusterClockChange (k : ClusterId) (s : State) : Host.Outcome State Fault Refusal :=
  match s.clockReq.look k.val with
  | some v =>
    let h := s.hm
    let now := if decide (k.val ∈ h.lowered) then min v (s.clock k.val) else v
    let steps := if decide (k.val ∈ h.lowered) then lowerings k.val (v - now) h.lowered else h.lowered
    .next { s with clocks := s.clocks.put 12 k.val now, clockReq := s.clockReq.del k.val
                   hm := { h with lowered := steps, throt := h.throt && (h.lowered.isEmpty || !steps.isEmpty) } }
  | none => .refused (.notEnabled "CLUSTER_CLOCK_CHANGE")

end Sys2Proof.Machine
end

