-- ==== Sys2Proof/Machine/Atomic.lean ====
section
/-! DEFINITION. Atomics (R145, R308 to R310). -/

namespace Sys2Proof.Machine

/-- Does operation fn accept the type (R308)? -/
def atomType (fn t : Nat) : Bool :=
  if fn < 3 then decide (t < 4) else if fn < 7 then decide (t < 6) else t == 4 || t == 5

/-- The new value of operation fn (R308). -/
def atomNew (fn t m y : Nat) : Nat :=
  match fn with
  | 0 => (m + y) % 2 ^ typeBits t
  | 1 => if intOf t m < intOf t y then m else y
  | 2 => if intOf t m < intOf t y then y else m
  | 3 => m &&& y
  | 4 => m ||| y
  | 5 => m ^^^ y
  | 6 => y
  | _ => (roundTo t 0 false 0 (addNum 0 (decodeNum t m) (decodeNum t y)).1).1

/-- Bytes of a located lane at the place of R130: a bank, or the home slice of the line's home die. -/
def State.homeRead (s : State) (segs : Segs) : Nat :=
  natOf (segs.flatMap fun p =>
    if isCachedPlace p.1 then s.sliceRead p.1 p.2 else s.read p.1 p.2)

/-- Writes a located lane there. -/
def State.homeWrite (s : State) (c : Nat) : Segs → List Byte → State
  | [], _ => s
  | p :: ps, bs =>
    let v := bs.take p.2
    let s := if isCachedPlace p.1 then (s.l2Keep (s.corePart c) (lineOf p.1)).slicePut (s.corePart c) p.1 v
      else s.write p.1 v
    s.homeWrite c ps (bs.drop p.2)

/-- What an atomic does with the caches before it is performed on a line: the core's dirty bytes go to the
slice and its copy is dropped (R130); an acquire drains the recorded cores (R140), the home slice takes the line; a
release is recorded, and drains the core when the value leaves its die (R139, R310). -/
def State.atomLine (s : State) (c line : Nat) (acq rel : Bool) : State :=
  let away := homeDie line != dieOf c
  let s := if rel then (if away then s.drain c else s.releaseRecord c line 3) else s
  let s := s.l1Drop c line
  let s := if acq then s.drainRecorded (sliceDie c line) line (some c) else s
  let s := s.obtainHome line
  if acq then s.drainRecorded (homeDie line) line (some c) else s

/-- The lines of an atomic through atomLine; scratchpad lines have none of it, but the core's own far stores to them come
first (R132, R148). -/
def State.atomLines (s : State) (c : Nat) (zs : List (Nat × Located)) (acq rel : Bool) : State :=
  (linesOf zs).foldl (fun s ln =>
    let s := (s.farAt c ln 128).chargeAt c ln 128
    if isCachedPlace ln then s.atomLine c ln acq rel else s) s

/-- The lanes' operations in turn (R309). `f` gives a lane's new value from the current one, none to leave
it; the flags say which lanes wrote. -/
def State.atomLoop (s : State) (c n : Nat) (f : Nat → Nat → Option Nat) :
    List (Nat × Located) → State × List Nat
  | [] => (s, [])
  | p :: ps =>
    match f p.1 (s.homeRead p.2.segs) with
    | some v =>
      let (t, ok) := (s.homeWrite c p.2.segs (bytesOf n v)).atomLoop c n f ps
      (t, p.1 :: ok)
    | none => s.atomLoop c n f ps

/-- The ordering of a group: acquire, release. 0 ATOM, 1 ATOMA, 2 ATOML, 3 ARED, 4 ACAS (R145). -/
def atomOrder (group : Nat) : Bool × Bool :=
  match group with
  | 1 => (true, false) | 2 => (false, true) | 4 => (true, true) | _ => (false, false)

/-- The common part of every atomic: addresses, places, ordering, operations; `out` writes the registers of
the active lanes from their returned values and successes. -/
def performAtomic (group t b xr : Nat) (f : Nat → Nat → Option Nat)
    (out : Warp → Nat → Nat → Bool → Warp) (x : Ctx) (s : State) : Res State := do
  let n := typeBits t / 8
  let r := x.bufRec b
  let (acq, rel) := atomOrder group
  if x.lanes.isEmpty then
    let s := if rel then s.fenceRelease x.w x.c x.k 3 else s
    .ok (if acq then s.fenceAcquire x.w x.c 3 else s)
  else do
    let as ← s.addresses x b xr n n true
    let zs ← s.locateAll x r .atomic n (okLanes as)
    s.unowned zs
    let s := if rel then s.farRelease x.c x.k 3 else s
    let s := s.atomLines x.c zs acq rel
    s.unpoisoned x.c zs
    let s := if rel && !(recSpace r == SP_GLOBAL || recSpace r == SP_HOST) then s.fenceRelease x.w x.c x.k 3 else s
    let olds := zs.map fun p => (p.1, s.homeRead p.2.segs)
    let (s, ok) := s.atomLoop x.c n f zs
    let s := if acq then s.fenceAcquire x.w x.c 3 else s
    .ok (s.updWarp x fun w => as.foldl (fun w p => out w p.1 (laneVal olds p.1) (decide (p.1 ∈ ok))) w)

/-- ATOM, ATOMA, ATOML and ARED (R309). -/
def performAtom (group fn d xr b : Nat) (x : Ctx) (s : State) : Res State :=
  let t := wmET x.mode
  performAtomic group t b xr (fun l m => some (atomNew fn t m (x.w.regs.get d l t)))
    (fun w l v _ => if group = 3 then w else w.set d l t v) x s

/-- ACAS (R309). -/
def performAcas (d xr b : Nat) (x : Ctx) (s : State) : Res State :=
  let t := wmET x.mode
  let k := typeBits t / 32
  performAtomic 4 t b xr
    (fun l m => if m = x.w.regs.get d l t then some (x.w.regs.get (d + k) l t) else none)
    (fun w l v ok => (w.set d l t v).set (d + k) l t (if ok then 1 else 0)) x s

/-- SUB 3 at decode; SUB 5 for the type; then the pair (R289, R308). -/
def atomChecks (fn d xr : Nat) (w : Warp) : Res Unit := do
  w.has [d, xr]
  w.typed (atomType fn (wmET w.ctl.wmode)) (wmET w.ctl.wmode) [d]

/-- ACAS: an even register, the last of the pair or quad below the allotment, a multiple of 4 under a 64-bit
type (R287, R308). -/
def acasChecks (d xr : Nat) (w : Warp) : Res Unit := do
  w.has [d, d + 1, xr]
  aligned 2 [d]
  let t := wmET w.ctl.wmode
  need (decide (t < 6)) ILLEGAL 5
  let k := typeBits t / 16
  w.has [d + k - 1]
  aligned k [d]

def atomOp (group : Fin 4) (fn : Fin 8) (d x : VReg) (b : BReg) (l : La) (s : State) :
    Host.Outcome State Fault Refusal :=
  issueLong (group.val == 1 || group.val == 2) false (.atom group fn d x b) l.val
    (atomChecks fn.val d.val x.val) (performAtom group.val fn.val d.val x.val b.val) s

def execAcas (d x : VReg) (b : BReg) (l : La) (s : State) : Host.Outcome State Fault Refusal :=
  issueLong true false (.acas d x b) l.val (acasChecks d.val x.val) (performAcas d.val x.val b.val) s

def execAtomAdd (d x : VReg) (b : BReg) (l : La) (s : State) := atomOp 0 0 d x b l s
def execAtomMin (d x : VReg) (b : BReg) (l : La) (s : State) := atomOp 0 1 d x b l s
def execAtomMax (d x : VReg) (b : BReg) (l : La) (s : State) := atomOp 0 2 d x b l s
def execAtomAnd (d x : VReg) (b : BReg) (l : La) (s : State) := atomOp 0 3 d x b l s
def execAtomOr (d x : VReg) (b : BReg) (l : La) (s : State) := atomOp 0 4 d x b l s
def execAtomXor (d x : VReg) (b : BReg) (l : La) (s : State) := atomOp 0 5 d x b l s
def execAtomXchg (d x : VReg) (b : BReg) (l : La) (s : State) := atomOp 0 6 d x b l s
def execAtomFadd (d x : VReg) (b : BReg) (l : La) (s : State) := atomOp 0 7 d x b l s
def execAtomaAdd (d x : VReg) (b : BReg) (l : La) (s : State) := atomOp 1 0 d x b l s
def execAtomaMin (d x : VReg) (b : BReg) (l : La) (s : State) := atomOp 1 1 d x b l s
def execAtomaMax (d x : VReg) (b : BReg) (l : La) (s : State) := atomOp 1 2 d x b l s
def execAtomaAnd (d x : VReg) (b : BReg) (l : La) (s : State) := atomOp 1 3 d x b l s
def execAtomaOr (d x : VReg) (b : BReg) (l : La) (s : State) := atomOp 1 4 d x b l s
def execAtomaXor (d x : VReg) (b : BReg) (l : La) (s : State) := atomOp 1 5 d x b l s
def execAtomaXchg (d x : VReg) (b : BReg) (l : La) (s : State) := atomOp 1 6 d x b l s
def execAtomaFadd (d x : VReg) (b : BReg) (l : La) (s : State) := atomOp 1 7 d x b l s
def execAtomlAdd (d x : VReg) (b : BReg) (l : La) (s : State) := atomOp 2 0 d x b l s
def execAtomlMin (d x : VReg) (b : BReg) (l : La) (s : State) := atomOp 2 1 d x b l s
def execAtomlMax (d x : VReg) (b : BReg) (l : La) (s : State) := atomOp 2 2 d x b l s
def execAtomlAnd (d x : VReg) (b : BReg) (l : La) (s : State) := atomOp 2 3 d x b l s
def execAtomlOr (d x : VReg) (b : BReg) (l : La) (s : State) := atomOp 2 4 d x b l s
def execAtomlXor (d x : VReg) (b : BReg) (l : La) (s : State) := atomOp 2 5 d x b l s
def execAtomlXchg (d x : VReg) (b : BReg) (l : La) (s : State) := atomOp 2 6 d x b l s
def execAtomlFadd (d x : VReg) (b : BReg) (l : La) (s : State) := atomOp 2 7 d x b l s
def execAredAdd (d x : VReg) (b : BReg) (l : La) (s : State) := atomOp 3 0 d x b l s
def execAredMin (d x : VReg) (b : BReg) (l : La) (s : State) := atomOp 3 1 d x b l s
def execAredMax (d x : VReg) (b : BReg) (l : La) (s : State) := atomOp 3 2 d x b l s
def execAredAnd (d x : VReg) (b : BReg) (l : La) (s : State) := atomOp 3 3 d x b l s
def execAredOr (d x : VReg) (b : BReg) (l : La) (s : State) := atomOp 3 4 d x b l s
def execAredXor (d x : VReg) (b : BReg) (l : La) (s : State) := atomOp 3 5 d x b l s
def execAredXchg (d x : VReg) (b : BReg) (l : La) (s : State) := atomOp 3 6 d x b l s
def execAredFadd (d x : VReg) (b : BReg) (l : La) (s : State) := atomOp 3 7 d x b l s

end Sys2Proof.Machine
end

