-- ==== Sys2Proof/Machine/Cache.lean ====
section
/-! DEFINITION. PREF, CWB, CINV, IINV and FBAR (R301 to R304). -/

namespace Sys2Proof.Machine

/-- The home slice's dirty bytes of a host line are written to host memory, and its copy stays, clean (R301). -/
def State.hostClean (s : State) (line : Nat) : State :=
  let d := homeDie line
  let mine := (s.die d).hdirty.keep fun a _ => lineOf a == line
  let s := (runsOf mine).foldl (fun s r => s.hostWrite r.1 r.2) s
  let x := s.die d
  s.setDie d
    { x with
      hdirty := x.hdirty.keep fun a _ => lineOf a != line
      hclean := x.hclean.mapV fun l bs =>
        if l = line then bs.zipIdx.map fun p => mine.getD (line + p.2) p.1 else bs }

/-- The lines that the OK lanes of a cache operation name; scratchpad lanes take no part (R301). -/
def State.cacheLines (s : State) (x : Ctx) (xr b : Nat) : Res (List Nat) := do
  let r := x.bufRec b
  let as ← s.addresses x b xr 1 1 false
  if recSpace r = SP_GLOBAL ∨ recSpace r = SP_HOST then do
    let zs ← s.locateAll x r .read 1 (okLanes as)
    s.unowned zs
    .ok (linesOf zs)
  else .ok []

/-- A line is fetched into a core's L1 when it is absent. -/
def State.fetchLine (s : State) (c line : Nat) : State := (s.l1Read c line 1 false).2

/-- What PREF does: lanes that fail a check or a translation are dropped (R301). -/
def performPref (xr b : Nat) (x : Ctx) (s : State) : State :=
  let r := x.bufRec b
  if recSpace r = SP_GLOBAL ∨ recSpace r = SP_HOST then
    x.lanes.foldl (fun s l =>
      match s.laneAddr x r (x.w.rdV xr l).toNat 1 1 false with
      | .ok a =>
        match s.translate x.c x.w.id.part (recSpace r == SP_HOST) .read a with
        | .ok place _ _ => if s.owned.has (lineOf place) then s else s.fetchLine x.c (lineOf place)
        | .fault _ => s
      | _ => s) s
  else s

/-- CWB of one line: a dirty line reaches the slice and stays valid and clean; a host line reaches host memory
(R301). -/
def State.cleanLine (s : State) (c line : Nat) : State :=
  let had := (s.core c).l1.dirty.any fun p => lineOf p.1 == line
  let s := if had then s.fetchLine c line else s
  let s := s.writeBackLine c line
  if isHostPlace line then s.hostClean line else s

/-- CINV of one line (R301). -/
def State.invalidateLine (s : State) (c line : Nat) : State :=
  let s := s.l1Drop c line
  if isHostPlace line then s.hostFlush line else s

/-- A host line's write-back completes only when the host acknowledges it (R301, R423). -/
def hostReady (x : Ctx) (ls : List Nat) : Res Unit :=
  if ls.any isHostPlace && !x.hostAck then .error .defer else .ok ()

def performCwb (xr b : Nat) (x : Ctx) (s : State) : Res State := do
  let ls ← s.cacheLines x xr b
  hostReady x ls
  .ok (ls.foldl (fun s l => s.cleanLine x.c l) s)

def performCinv (xr b : Nat) (x : Ctx) (s : State) : Res State := do
  let ls ← s.cacheLines x xr b
  hostReady x ls
  .ok (ls.foldl (fun s l => s.invalidateLine x.c l) s)

/-- The line as a core's instruction cache holds it, or as its die's slice returns it. -/
def State.codeLine (s : State) (c line : Nat) : List Byte :=
  ((s.core c).l1.icache.look line).getD (s.l2Line line)

/-- The warp may read a line's old words in the next 16 that it issues after the IINV, which counts itself when it is
this warp's and has still to retire (R304). -/
def Warp.keepStale (w : Warp) (own : Bool) (line : Nat) (old : List Byte) : Warp :=
  let n := if own then 17 else 16
  { w with fbuf := w.fbuf ++ [(line, old, n)], stale := n }

/-- IINV of some lines: dropped from the instruction and constant caches of every core of the job; each warp of
the job may hold their old words (R301, R302, R304). -/
def State.dropCode (s : State) (x : Ctx) (ls : List Nat) : State :=
  let job := x.w.id.job
  let mine := fun (c : Nat) => (s.core c).occ == some job
  let slots := s.slots.mapV fun key w =>
    if w.id.job = job ∧ w.st ≠ .free then
      let own := key == slotKey x.c x.k && !x.logged
      ls.foldl (fun w l => w.keepStale own l (s.codeLine (key / 128) l)) w
    else w
  let cores := s.cores.mapV fun c x =>
    if mine c then
      { x with l1 := { x.l1 with
          icache := x.l1.icache.keep fun l _ => !(decide (l ∈ ls))
          const := x.l1.const.keep fun l _ => !(decide (l ∈ ls)) } }
    else x
  { s with slots := slots, cores := cores }

/-- What IINV does. It waits for its warp's earlier CWBs (R302). -/
def performIinv (xr b : Nat) (x : Ctx) (s : State) : Res State := do
  let ls ← s.cacheLines x xr b
  .ok (s.dropCode x ls)

/-- Does the log hold a cache operation of this kind? -/
def Warp.logsCache (w : Warp) (fn : Nat) : Bool :=
  w.log.any fun e => match e.op with | .cache f _ _ => f.val == fn | _ => false

def cacheChecks (xr : Nat) (w : Warp) : Res Unit := w.has [xr]

/-- PREF takes an operand-log entry as every M-format instruction does, and completes at acceptance (R219, R301). -/
def execPref (x : VReg) (b : BReg) (_l : La) (s : State) : Host.Outcome State Fault Refusal :=
  issueLong false false (.cache 0 x b) 0 (cacheChecks x.val) (fun cx s => .ok (performPref x.val b.val cx s)) s

def execCwb (x : VReg) (b : BReg) (l : La) (s : State) : Host.Outcome State Fault Refusal :=
  issueLong false false (.cache 1 x b) l.val (cacheChecks x.val) (performCwb x.val b.val) s

def execCinv (x : VReg) (b : BReg) (l : La) (s : State) : Host.Outcome State Fault Refusal :=
  issueLong false false (.cache 2 x b) l.val (cacheChecks x.val) (performCinv x.val b.val) s

def execIinv (x : VReg) (b : BReg) (l : La) (s : State) : Host.Outcome State Fault Refusal :=
  if s.cw.logsCache 1 then .next s
  else issueLong false false (.cache 3 x b) l.val (cacheChecks x.val) (performIinv x.val b.val) s

/-- FBAR waits for the warp's earlier IINVs and discards its fetch buffer (R303). -/
def execFbar (s : State) : Host.Outcome State Fault Refusal :=
  let w := s.cw
  if w.logsCache 3 then .next s
  else commitW s true (.ok { w.advance with fbuf := [], stale := 0 })

end Sys2Proof.Machine
end

