-- ==== Sys2Proof/Machine/Convert.lean ====
section
/-! DEFINITION. FCVT, FCVTS, VPACK and VUNPK (R274), by R191, R192 and R197. -/

namespace Sys2Proof.Machine

/-- What one conversion yields: bits, exceptions, flags for cr.qstat. -/
structure CvtRes where
  bits : Nat := 0
  exc : Exc := 0
  q : BitVec 4 := 0
  deriving DecidableEq, Repr

/-- Does RSR apply: the destination is narrower in bits than the source (R188). -/
def rsrApplies (rm src dst : Nat) : Bool := rm == 5 && decide (typeBits dst < typeBits src)

/-- The rounding mode that a conversion uses (R188). -/
def cvtRm (rm src dst : Nat) : Nat := if rm = 5 ∧ ¬ rsrApplies rm src dst then 0 else rm

/-- Flags for cr.qstat of a conversion of x to E4M3 or E5M2 (R197). -/
def cvtFlags (dst : Nat) (sat : Bool) (x : FpNum) (r : Nat) (exc : Exc) : BitVec 4 :=
  if dst = 8 ∨ dst = 9 then
    match x with
    | .nan _ => QNAN
    | .inf _ => if dst = 8 then (if sat then QSAT else QNAN) else 0
    | .fin _ m _ =>
      if exc &&& OF != 0 then (if sat then QSAT else 0)
      else if m != 0 && r % 2 ^ 7 == 0 then QUFL else 0
  else 0

/-- round_to(x * 2^k, T) of an encoding x of type S (R191, R192). An integer that a type of equal or greater width cannot hold is
treated as R192 treats one of a narrower type: clamped under SAT, else wrapped (DEDUCED: log 123). -/
def cvtElem (src dst rm : Nat) (sat : Bool) (draw : Nat) (x : Nat) (k : Int) : CvtRes :=
  if isInt src then
    let v := intOf src x
    if isInt dst then
      if k = 0 then { bits := fitInt sat dst v }
      else
        let (n, inex) := roundInt rm draw (decide (v < 0)) v.natAbs k
        { bits := fitInt sat dst n, exc := if inex then NX else 0 }
    else
      let y := scaleNum (numOfInt v) k
      let (b, e) := roundTo dst rm sat draw y
      { bits := b, exc := e, q := cvtFlags dst sat y b e }
  else
    let y := scaleNum (decodeNum src x) k
    if isInt dst then
      let (b, e) := toIntType dst rm draw y
      { bits := b, exc := e }
    else
      let (b, e) := roundTo dst rm sat draw y
      { bits := b, exc := e, q := cvtFlags dst sat y b e }

/-- A conversion of the current warp: the n-th element that lane l converts, with its draw. -/
def Warp.cvt (w : Warp) (l n x : Nat) (k : Int) : CvtRes :=
  let m := w.ctl.wmode
  let src := wmST m
  let dst := wmET m
  cvtElem src dst (cvtRm (wmRM m) src dst) (wmSAT m)
    (if rsrApplies (wmRM m) src dst then w.drawAt l n else 0) x k

/-- Ends a conversion: finish(), the generators advanced by n draws a lane under RSR, cr.qstat, then the
destination elements. -/
def Warp.cvtOut (w : Warp) (d t n : Nat) (rs : List (Nat × List CvtRes)) (val : List CvtRes → Nat) :
    Res Warp := do
  let all := rs.flatMap fun p => p.2.map fun r => (p.1, r.exc)
  let w' ← w.finish all
  let m := w.ctl.wmode
  let w' := if rsrApplies (wmRM m) (wmST m) (wmET m) then w'.drawn w.lanes n else w'
  let q := (rs.flatMap Prod.snd).foldl (fun a r => a ||| r.q) 0
  .ok ((w'.qflag q).setLanes d t (rs.map fun p => (p.1, val p.2)))

/-- The checks of R257 for a source of type S and a destination of type T. -/
def Warp.typed2 (w : Warp) (ok : Bool) (s t : Nat) (ss ts : List Nat) : Res Unit := do
  need ok ILLEGAL 5
  let rs := (if typeBits t = 64 then ts else []) ++ (if typeBits s = 64 then ss else [])
  w.has (rs.map (· + 1))
  aligned 2 rs

/-- The single value of a one-element conversion. -/
def cvtVal (rs : List CvtRes) : Nat := (rs.headD {}).bits

/-- The shape of FCVT and FCVTS. -/
def cvtOp (named : List Nat) (d a : VReg) (k : Warp → Nat → Int) (s : State) :
    Host.Outcome State Fault Refusal :=
  let w := s.cw
  let src := wmST w.ctl.wmode
  let dst := wmET w.ctl.wmode
  commitW s false do
    w.has named
    w.typed2 (isMov src && isMov dst) src dst [a.val] [d.val]
    let w' ← w.cvtOut d.val dst 1 (w.lanes.map fun l => (l, [w.cvt l 0 (w.get a.val l src) (k w l)])) cvtVal
    .ok w'.advance

def execFcvt (d a : VReg) (s : State) := cvtOp [d.val, a.val] d a (fun _ _ => 0) s
def execFcvts (d a b : VReg) (s : State) :=
  cvtOp [d.val, a.val, b.val] d a (fun w l => (w.rdV b.val l).toInt) s

/-- VPACK: one destination register of two 16-bit or four 8-bit fields, converted in field order. -/
def execVpack (d a b : VReg) (s : State) : Host.Outcome State Fault Refusal :=
  let w := s.cw
  let src := wmST w.ctl.wmode
  let dst := wmET w.ctl.wmode
  let four := typeBits dst == 8
  let from_ : List Nat :=
    if four then [a.val, a.val + 1, b.val, b.val + 1] else [a.val, b.val]
  commitW s false do
    w.has [d.val, a.val, b.val]
    need (src ∈ [0, 1, 4, 6, 7, 8, 9, 13, 14] && dst ∈ [6, 7, 8, 9, 13, 14]) ILLEGAL 5
    if four then do
      w.has [a.val + 1, b.val + 1]
      aligned 2 [a.val, b.val]
    let w' ← w.cvtOut d.val 1 from_.length
      (w.lanes.map fun l => (l, from_.zipIdx.map fun p => w.cvt l p.2 (w.get p.1 l src) 0))
      (fun rs => rs.reverse.foldl (fun acc r => acc * 2 ^ typeBits dst + r.bits) 0)
    .ok w'.advance

/-- VUNPK: field k of v[a], converted from S to T. -/
def execVunpk (d a : VReg) (k : Fin 128) (s : State) : Host.Outcome State Fault Refusal :=
  let w := s.cw
  let src := wmST w.ctl.wmode
  let dst := wmET w.ctl.wmode
  commitW s false do
    w.has [d.val, a.val]
    need (decide (k.val ≤ 3)) ILLEGAL 5
    need (src ∈ [6, 7, 8, 9, 13, 14] && dst ∈ [0, 1, 4, 6, 7, 13, 14] &&
      decide (typeBits src * (k.val + 1) ≤ 32)) ILLEGAL 5
    let w' ← w.cvtOut d.val dst 1
      (w.lanes.map fun l =>
        (l, [w.cvt l 0 ((w.rdV a.val l).toNat / 2 ^ (typeBits src * k.val) % 2 ^ typeBits src) 0])) cvtVal
    .ok w'.advance

end Sys2Proof.Machine
end

