-- ==== Sys2Proof/Machine/Quant.lean ====
section
/-! DEFINITION. VQNT and VDQ: block and scaled types (R186, R187, R196, R198, R305, R306). -/

namespace Sys2Proof.Machine

/-! ## Block types by fn: 0 SB3, 1 SB5, 2 SB8 (R186) -/

/-- w of R186. -/
def blockW (fn : Nat) : Nat := match fn with | 0 => 2 | 1 => 4 | _ => 7

/-- Bytes of a block, or of an E4M3 or E5M2 element. -/
def blockBytes (fn : Nat) : Nat := match fn with | 0 => 8 | 1 => 12 | 2 => 18 | _ => 1

/-- Alignment of a block (R110). -/
def blockAlign (fn : Nat) : Nat := match fn with | 0 => 8 | 1 => 4 | 2 => 2 | _ => 1

/-- The ESIZE code that a form requires. -/
def blockEsize (fn : Nat) : Nat := match fn with | 0 => 3 | 1 => 5 | 2 => 6 | _ => 0

/-- The element type code of the per-lane forms. -/
def elemType (fn : Nat) : Nat := if fn = 3 then 8 else 9

/-! ## quantise_block() (R196) -/

/-- One input of the quantiser: sign, significand and exponent of a finite F32, and its draw. -/
structure QuantIn where
  neg : Bool := false
  m : Nat := 0
  e : Int := 0
  draw : Nat := 0
  deriving DecidableEq, Repr

/-- The exponent of scale(E, s). -/
def scaleExp (w E sg : Nat) : Int := (E : Int) - 127 - ((w : Int) - 1) - sg

/-- round_int(x / scale(E, s), rm, d). -/
def quantInt (w rm E sg : Nat) (x : QuantIn) : Int := (roundInt rm x.draw x.neg x.m (x.e - scaleExp w E sg)).1

/-- fits(q, s, E) for the elements of a quad. -/
def quadFits (w rm E sg : Nat) (xs : List QuantIn) : Bool :=
  xs.all fun x => decide ((quantInt w rm E sg x).natAbs ≤ 2 ^ w - 1)

/-- The largest sub-scale at which a quad fits. -/
def quadScale (w rm E : Nat) (xs : List QuantIn) : Option Nat := [3, 2, 1, 0].find? fun sg => quadFits w rm E sg xs

/-- The four quads of 16 elements. -/
def quads {α : Type} (xs : List α) : List (List α) := (List.range 4).map fun q => (xs.drop (4 * q)).take 4

/-- The escalation loop: E, each quad's sub-scale (none where it saturates), and whether E was escalated.
At most two escalations (R196). -/
def escalate (w rm : Nat) (xs : List QuantIn) : Nat → Nat → Bool → Nat × List (Option Nat) × Bool
  | 0, E, esc => (E, (quads xs).map (quadScale w rm E), esc)
  | n + 1, E, esc =>
    let sg := (quads xs).map (quadScale w rm E)
    if sg.all Option.isSome || E == 254 then (E, sg, esc) else escalate w rm xs n (E + 1) true

/-- A quantised block: its bytes, the flags for cr.qstat, and the elements that raise NV or NX. -/
structure Block where
  bytes : List Byte := []
  q : BitVec 4 := 0
  exc : List Exc := []
  deriving DecidableEq, Repr

/-- Packs signed elements into (w + 1)-bit fields (R186). -/
def packElems (w : Nat) : List Int → Nat
  | [] => 0
  | m :: ms => lowBits (w + 1) m + 2 ^ (w + 1) * packElems w ms

/-- The block of 16 finite inputs whose largest is not zero. -/
def quantFinite (fn rm : Nat) (xs : List QuantIn) : Block :=
  let w := blockW fn
  let lead := xs.foldl (fun z x => if x.m = 0 then z else max z (leadExp x.m x.e)) (-1000)
  let (E, sg, esc) := escalate w rm xs 2 (max (lead + 127) 0).toNat false
  let sigma := fun i => ((sg.getD (i / 4) none).getD 0)
  let sat := fun i => (sg.getD (i / 4) none).isNone
  let ms := xs.zipIdx.map fun (x, i) =>
    let m := quantInt w rm E (sigma i) x
    if sat i then (if m < 0 then -(min m.natAbs (2 ^ w - 1) : Nat) else ((min m.natAbs (2 ^ w - 1) : Nat) : Int)) else m
  let same := fun (i : Nat) (x : QuantIn) (m : Int) =>
    eqNum (.fin x.neg x.m x.e) (.fin (decide (m < 0)) m.natAbs (scaleExp w E (sigma i)))
  let pairs := (xs.zip ms).zipIdx
  let byte1 := (List.range 4).foldl (fun n q => n + 4 ^ q * sigma (4 * q)) 0
  { bytes := bytesOf 1 E ++ bytesOf 1 byte1 ++ bytesOf (blockBytes fn - 2) (packElems w ms)
    q := (if sg.any Option.isNone then QSAT else 0) ||| (if esc then QESC else 0) |||
      (if pairs.any fun p => p.1.1.m != 0 && p.1.2 == 0 then QUFL else 0)
    exc := pairs.map fun p => if same p.2 p.1.1 p.1.2 then 0 else NX }

/-- quantise_block() of 16 F32 values, each with its draw. -/
def quantiseBlock (fn rm : Nat) (xs : List (FpNum × Nat)) : Block :=
  let bad := fun (x : FpNum) => match x with | .fin _ _ _ => false | _ => true
  if xs.any fun p => bad p.1 then
    { bytes := 0xFF :: bytesOf (blockBytes fn - 1) 0, q := QNAN
      exc := xs.map fun p => if bad p.1 then NV else 0 }
  else if xs.all fun p => isZeroNum p.1 then
    { bytes := bytesOf (blockBytes fn) 0, exc := xs.map fun _ => 0 }
  else
    quantFinite fn rm (xs.map fun p =>
      match p.1 with
      | .fin n m e => { neg := n, m := m, e := e, draw := p.2 }
      | _ => {})

/-- Element i of a block as F32 bits (R187, R198). -/
def blockElem (fn : Nat) (bs : List Byte) (i : Nat) : Nat :=
  let w := blockW fn
  let E := (bs.getD 0 0).toNat
  let sg := (bs.getD 1 0).toNat / 4 ^ (i / 4) % 4
  let f := natOf (bs.drop 2) / 2 ^ (i * (w + 1)) % 2 ^ (w + 1)
  let m := toSigned (w + 1) f
  if E = 255 ∨ f = 2 ^ w then canonNan 4
  else if m = 0 then 0
  else (roundTo 4 0 false 0 (.fin (decide (m < 0)) m.natAbs (scaleExp w E sg))).1

/-! ## VQNT and VDQ (R305, R306) -/

/-- The groups of 16 lanes that take part. -/
def groupsOf (width : Nat) (active : W64) : List Nat :=
  (List.range (width / 16)).filter fun g => !(lanesIn 16 (active >>> (16 * g))).isEmpty

/-- Each group's address: lane 16g's, whose outcome counts for every active lane of the group. -/
def State.groupAddresses (s : State) (x : Ctx) (fn b xr : Nat) (write : Bool) : Res (List (Nat × Option Nat)) := do
  let os := (groupsOf x.w.id.width x.active).flatMap fun g =>
    let o := s.laneAddr x (x.bufRec b) (x.w.rdV xr (16 * g)).toNat (blockBytes fn) (blockAlign fn) write
    ((List.range 16).filter fun i => x.active.getLsbD (16 * g + i)).map fun i => (16 * g + i, o)
  let as ← settleLanes os
  .ok ((groupsOf x.w.id.width x.active).map fun g =>
    (g, ((as.find? fun p => p.1 / 16 == g).map Prod.snd).getD none))

/-- The located blocks of the participating groups: a group's block is lane 16g's, and a page of it is met by every active lane of
the group (R205, R305). -/
def State.locateGroups (s : State) (x : Ctx) (r : BufRec) (kind : AccessKind) (n : Nat) (gs : List (Nat × Nat)) :
    Res (List (Nat × Located)) := do
  let zs ← forLanes (fun m => maskOf (x.lanes.filter fun l => m.getLsbD (16 * (l / 16))))
    (s.locateAll x r kind n (gs.map fun p => (16 * p.1, p.2)))
  .ok (zs.map fun p => (p.1 / 16, p.2))

/-- ESIZE must match the form (ACCESS, SUB 4, in every active lane). -/
def esizeCheck (x : Ctx) (fn b : Nat) : Res Unit :=
  if x.lanes.isEmpty ∨ recEsize (x.bufRec b) = blockEsize fn then .ok () else raiseIn ACCESS 4 x.active

/-- The F32 value and draw of a lane; a lane that is not active gives +0 and draws nothing. -/
def Ctx.quantIn (x : Ctx) (d l : Nat) : FpNum × Nat :=
  if x.active.getLsbD l then
    (decodeNum 4 (x.w.rdV d l).toNat, if wmRM x.mode = 5 then x.w.drawAt l 0 else 0)
  else (.fin false 0 0, 0)

/-- The flags of VQNT: the arithmetic trap, or cr.fstat and cr.qstat (R195, R197). -/
def Warp.quantFlags (w : Warp) (mode : W64) (xs : List (Nat × Exc)) (q : BitVec 4) : Res Warp := do
  let en := wmIEN mode
  let bad := xs.filter fun p => p.2 &&& en != 0
  if bad.isEmpty then
    .ok ({ w with stat := { w.stat with fstat := w.stat.fstat ||| orExc xs } }.qflag q)
  else raiseIn ARITHMETIC (orExc bad &&& en).toNat (maskOf (bad.map Prod.fst))

/-- The blocks of the participating groups. -/
def Ctx.groupBlocks (x : Ctx) (fn d : Nat) : List (Nat × Block) :=
  (groupsOf x.w.id.width x.active).map fun g =>
    (g, quantiseBlock fn (wmRM x.mode) ((List.range 16).map fun i => x.quantIn d (16 * g + i)))

/-- What VQNT to a block type does (R305). -/
def performVqntBlock (fn d xr b : Nat) (x : Ctx) (s : State) : Res State := do
  let r := x.bufRec b
  esizeCheck x fn b
  let as ← s.groupAddresses x fn b xr true
  let blks := x.groupBlocks fn d
  let exc := blks.flatMap fun p => p.2.exc.zipIdx.map fun e => (16 * p.1 + e.2, e.1)
  let w ← (s.warpOf x).quantFlags x.mode exc (blks.foldl (fun q p => q ||| p.2.q) 0)
  let zs ← s.locateGroups x r .write (blockBytes fn) (okLanes as)
  s.unowned zs
  let s := s.updWarp x fun _ => if x.logged then w else w.quantDraw x.active
  .ok (s.writeLanes (fun s g bs => s.storeSegs x r g bs)
    (fun g => ((blks.find? fun p => p.1 == g).map fun p => p.2.bytes).getD []) zs)

/-- What VQNT to E4M3 or E5M2 does (R306). -/
def performVqntElem (fn d xr b : Nat) (x : Ctx) (s : State) : Res State := do
  let r := x.bufRec b
  esizeCheck x fn b
  let as ← s.addresses x b xr 1 1 true
  let t := elemType fn
  let rs := x.lanes.map fun l =>
    let (v, draw) := x.quantIn d l
    let y := roundTo t (wmRM x.mode) (wmSAT x.mode) draw v
    (l, y.1, y.2, cvtFlags t (wmSAT x.mode) v y.1 y.2)
  let w ← (s.warpOf x).quantFlags x.mode (rs.map fun p => (p.1, p.2.2.1)) (rs.foldl (fun q p => q ||| p.2.2.2) 0)
  let zs ← s.locateAll x r .write 1 (okLanes as)
  s.unowned zs
  let s := s.updWarp x fun _ => if x.logged then w else w.quantDraw x.active
  .ok (s.writeLanes (fun s g bs => s.storeSegs x r g bs)
    (fun l => bytesOf 1 (((rs.find? fun p => p.1 == l).map fun p => p.2.1).getD 0)) zs)

def performVqnt (fn d xr b : Nat) (x : Ctx) (s : State) : Res State :=
  if fn < 3 then performVqntBlock fn d xr b x s else performVqntElem fn d xr b x s

/-- What VDQ of a block type does (R305). -/
def performVdqBlock (fn d xr b : Nat) (x : Ctx) (s : State) : Res State := do
  let r := x.bufRec b
  esizeCheck x fn b
  let as ← s.groupAddresses x fn b xr false
  let zs ← s.locateGroups x r .read (blockBytes fn) (okLanes as)
  s.unowned zs
  s.unpoisoned x.c zs
  let (vs, s) := s.readLanes (fun s g => s.plainReads x.c (recNoalloc r) g) zs
  .ok (s.updWarp x fun w => x.lanes.foldl (fun w l =>
    w.wrV d l (BitVec.ofNat 32 (blockElem fn (bytesOf (blockBytes fn) (laneVal vs (l / 16))) (l % 16)))) w)

/-- What VDQ of E4M3 or E5M2 does (R306). -/
def performVdqElem (fn d xr b : Nat) (x : Ctx) (s : State) : Res State := do
  let r := x.bufRec b
  esizeCheck x fn b
  let as ← s.addresses x b xr 1 1 false
  let zs ← s.locateAll x r .read 1 (okLanes as)
  s.unowned zs
  s.unpoisoned x.c zs
  let (vs, s) := s.readLanes (fun s g => s.plainReads x.c (recNoalloc r) g) zs
  .ok (s.updWarp x fun w => x.lanes.foldl (fun w l =>
    w.wrV d l (BitVec.ofNat 32 (roundTo 4 0 false 0 (decodeNum (elemType fn) (laneVal vs l))).1)) w)

def performVdq (fn d xr b : Nat) (x : Ctx) (s : State) : Res State :=
  if fn < 3 then performVdqBlock fn d xr b x s else performVdqElem fn d xr b x s

def vqntOp (fn : Fin 5) (d x : VReg) (b : BReg) (l : La) (s : State) : Host.Outcome State Fault Refusal :=
  issueLong false false (.vqnt fn d x b) l.val (dataChecks d.val x.val 4)
    (performVqnt fn.val d.val x.val b.val) s

def vdqOp (fn : Fin 5) (d x : VReg) (b : BReg) (l : La) (s : State) : Host.Outcome State Fault Refusal :=
  issueLong false false (.vdq fn d x b) l.val (dataChecks d.val x.val 4)
    (performVdq fn.val d.val x.val b.val) s

def execVqntSb3 (d x : VReg) (b : BReg) (l : La) (s : State) := vqntOp 0 d x b l s
def execVqntSb5 (d x : VReg) (b : BReg) (l : La) (s : State) := vqntOp 1 d x b l s
def execVqntSb8 (d x : VReg) (b : BReg) (l : La) (s : State) := vqntOp 2 d x b l s
def execVqntE4m3 (d x : VReg) (b : BReg) (l : La) (s : State) := vqntOp 3 d x b l s
def execVqntE5m2 (d x : VReg) (b : BReg) (l : La) (s : State) := vqntOp 4 d x b l s
def execVdqSb3 (d x : VReg) (b : BReg) (l : La) (s : State) := vdqOp 0 d x b l s
def execVdqSb5 (d x : VReg) (b : BReg) (l : La) (s : State) := vdqOp 1 d x b l s
def execVdqSb8 (d x : VReg) (b : BReg) (l : La) (s : State) := vdqOp 2 d x b l s
def execVdqE4m3 (d x : VReg) (b : BReg) (l : La) (s : State) := vdqOp 3 d x b l s
def execVdqE5m2 (d x : VReg) (b : BReg) (l : La) (s : State) := vdqOp 4 d x b l s

end Sys2Proof.Machine
end

