-- ==== Sys2Proof/Machine/Matrix.lean ====
section
/-! DEFINITION. The matrix engine: elements (R199 to R202), MMA (R342 to R345), its pass and its completion; the
error log of engines (R125, R435). -/

namespace Sys2Proof.Machine

/-! ## Error log (R435) -/

/-- Is a vector masked in its function's MSI-X table: bit 0 of the entry's last word (log 89)? -/
def State.masked (s : State) (fn vec : Nat) : Bool := (s.msixTab.getD (2048 * fn + 16 * vec + 12) 0).getLsbD 0

/-- Sends an MSI-X message of a function; a masked vector becomes pending, and nothing goes to the host while the link is down
(R421). -/
def State.sendVector (s : State) (fn vec : Nat) : State :=
  if s.masked fn vec then { s with msixPba := s.msixPba.ins (64 * fn + vec) true }
  else if s.pcie then { s with msix := s.msix ++ [(fn, vec)] }
  else s

/-- Sends an MSI-X message of a partition's function. -/
def State.sendMsix (s : State) (part vec : Nat) : State := s.sendVector (s.part part).fn.toNat vec

/-- Writes a record to the partition's error log, or counts it lost (R435). -/
def State.errorLog (s : State) (part : Nat) (rec : List Byte) : State :=
  let p := s.part part
  let lost := s.setPart part { p with ellost := p.ellost + 1 }
  let size := 2 ^ p.ellog2.toNat
  if p.elbase = 0 ∨ size ≤ (p.elwidx - p.elridx).toNat then lost
  else
    match s.translate frontEnd part false .engineWrite (p.elbase.toNat + 64 * (p.elwidx.toNat % size)) with
    | .ok place _ _ =>
      (((s.obtainHome (lineOf place)).write place rec).setPart part { p with elwidx := p.elwidx + 1 }).sendMsix part p.elvec.toNat
    | .fault _ => lost

/-- An error record (R435). -/
def errorBytes (unit operand core id row col off pa tick : Nat) : List Byte :=
  bytesOf 1 unit ++ bytesOf 1 operand ++ bytesOf 2 core ++ bytesOf 4 0 ++ bytesOf 8 id ++ bytesOf 4 row ++
  bytesOf 4 col ++ bytesOf 8 off ++ bytesOf 8 pa ++ bytesOf 8 tick ++ bytesOf 16 0

/-- Writes the record of an error at a place to the partition's error log (R125, R435). -/
def State.logError (s : State) (part unit operand core id row col off place : Nat) : State :=
  let (pa, s) := s.physical place
  s.errorLog part (errorBytes unit operand core id row col off pa.toNat s.tick)

/-! ## Elements (R199, R200) -/

/-- The class of a format: 1 single, 2 narrow float, 3 integer; 0 for none (R199). -/
def fmtClass (f : Nat) : Nat :=
  if f = 4 then 1 else if f ∈ [6, 7, 8, 9, 10, 11, 12] then 2 else if f = 13 ∨ f = 14 then 3 else 0

/-- Is it a block format? -/
def isBlock (f : Nat) : Bool := f == 10 || f == 11 || f == 12

/-- Bytes of K elements of a row (R343). -/
def rowBytes (f k : Nat) : Nat := if isBlock f then k / 16 * blockBytes (f - 10) else k * (typeBits f / 8)

/-- The element alignment of a format (R110). -/
def fmtAlign (f : Nat) : Nat := if isBlock f then blockAlign (f - 10) else typeBits f / 8

/-- in_value() of a plain format (R200). -/
def inValue (f x : Nat) : FpNum :=
  if isInt f then numOfInt (intOf f x)
  else if isSubnormal f x then .fin false 0 0
  else decodeNum f x

/-- in_value() of element i of a block (R187, R200). -/
def blockValue (f : Nat) (bs : List Byte) (i : Nat) : FpNum := decodeNum 4 (blockElem (f - 10) bs i)

/-- The exact sum of truncated products, rounded to F32 (R200). -/
def truncSum (ps : List FpNum) : Nat :=
  let exps := ps.filterMap fun p => match p with | .fin _ m e => if m = 0 then none else some (leadExp m e) | _ => none
  let top := exps.foldl max (exps.headD 0)
  let q := top - 47
  let term := fun (p : FpNum) =>
    match p with
    | .fin n m e =>
      let v := m * 2 ^ (e - q).toNat / 2 ^ (q - e).toNat
      if n then -(v : Int) else (v : Int)
    | _ => 0
  let sum := ps.foldl (fun (a : Int) p => a + term p) 0
  (roundTo 4 0 false 0 (.fin (decide (sum < 0)) sum.natAbs q)).1

/-- The sum of a group of products (R200). -/
def groupSum (ps : List FpNum) : Nat :=
  let inf := fun (n : Bool) => ps.any fun p => match p with | .inf m => m == n | _ => false
  if ps.any isNan || (inf true && inf false) then canonNan 4
  else if inf true then infBits 4 true
  else if inf false then infBits 4 false
  else if ps.all isZeroNum then 0
  else truncSum ps

/-- Cuts a list into groups of 16. -/
def groups16 {α : Type} : Nat → List α → List (List α)
  | 0, _ => []
  | n + 1, xs => xs.take 16 :: groups16 n (xs.drop 16)

/-- mma_element(): acc and the result as F32 bits (R200). -/
def mmaElement (acc : Nat) (as bs : List FpNum) (scale : Int) : Nat :=
  let ps := (as.zip bs).map fun p => scaleNum (mulNum p.1 p.2).1 scale
  (groups16 (ps.length / 16) ps).foldl
    (fun acc g => (roundTo 4 0 false 0 (addNum 0 (decodeNum 4 acc) (decodeNum 4 (groupSum g))).1).1) acc

/-- The integer of an exact value that is one. -/
def intOfNum (x : FpNum) : Int := match x with | .fin n m e => (if n then -1 else 1) * ((m * 2 ^ e.toNat : Nat) : Int) | _ => 0

/-- The I32 accumulation of R201. -/
def mmaInt (sat : Bool) (acc : Nat) (as bs : List FpNum) : Nat :=
  let ps := (as.zip bs).map fun p => intOfNum p.1 * intOfNum p.2
  (groups16 (ps.length / 16) ps).foldl
    (fun acc g => fitInt sat 0 (intOf 0 acc + g.foldl (· + ·) 0)) acc

/-! ## Operands in memory -/

/-- A poisoned place that was replaced by zero, with the element's row and column (R125). -/
structure Replaced where
  place : Nat := 0
  row : Nat := 0
  col : Nat := 0
  deriving DecidableEq, Repr

/-- A poisoned place among some segments. -/
def State.badPlace (s : State) (segs : Segs) : Option Nat :=
  segs.findSome? fun q => (List.range q.2).findSome? fun i =>
    if s.poison.getD (unitOf (q.1 + i)) false then some (q.1 + i) else none

/-- The bytes of some segments at their slices and banks. -/
def State.segBytes (s : State) (segs : Segs) : List Byte :=
  segs.flatMap fun q => s.sliceRead q.1 q.2

/-- The value of element i of a row that starts at an address, through a function that gives the segments of
some bytes; an element with a poisoned byte gives zero (R125). -/
def State.elemAt (s : State) (segs : Nat → Nat → Segs) (f start i row col : Nat) : FpNum × List Replaced :=
  if isBlock f then
    let n := blockBytes (f - 10)
    let a := start + i / 16 * n
    let w := blockW (f - 10)
    let lo := (i % 16) * (w + 1) / 8
    let hi := ((i % 16) * (w + 1) + w) / 8
    match s.badPlace (segs a 2 ++ segs (a + 2 + lo) (hi - lo + 1)) with
    | some p => (.fin false 0 0, [{ place := p, row := row, col := col }])
    | none => (blockValue f (s.segBytes (segs a n)) (i % 16), [])
  else
    let n := typeBits f / 8
    match s.badPlace (segs (start + i * n) n) with
    | some p => (.fin false 0 0, [{ place := p, row := row, col := col }])
    | none => (inValue f (natOf (s.segBytes (segs (start + i * n) n))), [])

/-- k elements of a row. -/
def State.rowAt (s : State) (segs : Nat → Nat → Segs) (f start k row : Nat) : List FpNum × List Replaced :=
  let xs := (List.range k).map fun i => s.elemAt segs f start i row i
  (xs.map Prod.fst, xs.flatMap Prod.snd)

/-! ## MMA (R342 to R345) -/

/-- The format word's fields (R342). -/
structure Fmt where
  af : Nat
  bf : Nat
  out : Nat
  shape : Nat
  scale : Int
  zeroScale : Bool

def fmtOf (x : W32) : Fmt :=
  let n := x.toNat
  { af := n % 16, bf := n / 16 % 16, out := n / 256 % 16, shape := n / 4096 % 16
    scale := toSigned 8 (n / 2 ^ 16) + toSigned 8 (n / 2 ^ 24), zeroScale := n / 2 ^ 16 == 0 }

def Fmt.n (f : Fmt) : Nat := 16 * 2 ^ (f.shape / 3)
def Fmt.k (f : Fmt) : Nat := 16 * 2 ^ (f.shape % 3)

/-- The checks of R199 on a format word. -/
def Fmt.ok (f : Fmt) : Bool :=
  let c := fmtClass f.af
  c != 0 && c == fmtClass f.bf && (f.out == 4 || (f.out == 0 && c == 3 && f.zeroScale))

/-- An operand descriptor (R343). -/
structure OpDesc where
  r : Nat
  off : Nat
  pitch : Nat
  t : Bool
  ok : Bool

def opDesc (x : W64) (f : Nat) : OpDesc :=
  { r := bits x 0 4, off := bits x 4 32, pitch := bits x 36 20, t := x.getLsbD 56
    ok := bits x 57 7 == 0 && !(x.getLsbD 56 && isBlock f) }

/-- The rows that an operand's element vector i (a row of A, a column of B) occupies: start and length each. -/
def OpDesc.spans (d : OpDesc) (f k i : Nat) : List (Nat × Nat) :=
  if d.t then
    let e := typeBits f / 8
    (List.range k).map fun j => (d.off + j * d.pitch + i * e, e)
  else [(d.off + i * d.pitch, rowBytes f k)]

/-- One past the last byte of an operand's vector i. -/
def OpDesc.top (d : OpDesc) (f k i : Nat) : Nat := (d.spans f k i).foldl (fun m p => max m (p.1 + p.2)) 0

/-- What a lane that fails an operand's check, at the offset of the first of its bytes that fail, brings to the trap: the byte's
address, and for BOUNDS the record's extent and the offset (R205, R209). -/
def operandFail (r : BufRec) (cause sub : Nat) (p : Nat × Nat) : Nat × Nat × W64 × W64 × W64 :=
  (p.1, sub, (BitVec.ofNat 64 (recBase r + p.2),
    if cause = BOUNDS then (BitVec.ofNat 64 (recExtent r), BitVec.ofNat 64 p.2) else (0, 0)))

/-- One check of both operands (R344): the lanes that met it, each with an offset in its operand's record. A lane that fails for A
and for B has A's details, as A is named first (log 34). -/
def operandNeed (ra rb : BufRec) (cause sub : Nat) (as bs : List (Nat × Nat)) : Res Unit :=
  let onlyB := bs.filter fun p => !as.any fun q => q.1 == p.1
  if as.isEmpty && bs.isEmpty then .ok ()
  else raiseLanes cause (as.map (operandFail ra cause sub) ++ onlyB.map (operandFail rb cause sub))

/-- The lanes whose rows of A meet a test, and where. -/
def OpDesc.failsA (d : OpDesc) (f k : Nat) (ls : List Nat) (bad : Nat × Nat → Bool) : List (Nat × Nat) :=
  ls.filterMap fun l => ((d.spans f k l).find? bad).map fun q => (l, q.1)

/-- Every active lane, when a row of B meets a test (R344). -/
def OpDesc.failsB (d : OpDesc) (f k n : Nat) (ls : List Nat) (bad : Nat × Nat → Bool) : List (Nat × Nat) :=
  match ((List.range n).flatMap (d.spans f k)).find? bad with
  | some q => ls.map fun l => (l, q.1)
  | none => []

/-- The vector i of an operand as exact values. -/
def State.operandRow (s : State) (x : Ctx) (d : OpDesc) (f k i : Nat) (isA : Bool) : List FpNum × List Replaced :=
  let r := x.bufRec d.r
  let segs := fun a n => (s.locate x r .read 0 (recBase r + a) n).segs
  if d.t then
    let e := typeBits f / 8
    let xs := (List.range k).map fun j =>
      s.elemAt segs f (d.off + j * d.pitch + i * e) 0 (if isA then i else j) (if isA then j else i)
    (xs.map Prod.fst, xs.flatMap Prod.snd)
  else
    let xs := (List.range k).map fun j =>
      s.elemAt segs f (d.off + i * d.pitch) j (if isA then i else j) (if isA then j else i)
    (xs.map Prod.fst, xs.flatMap Prod.snd)

/-- The lines of scratchpad that an operand's vectors lie in. -/
def State.operandLines (s : State) (x : Ctx) (d : OpDesc) (f k : Nat) (is : List Nat) : List Nat :=
  let r := x.bufRec d.r
  is.flatMap fun i => (d.spans f k i).flatMap fun p =>
    (s.locate x r .read 0 (recBase r + p.1) p.2).segs.map fun q => lineOf q.1

/-- Records replaced elements: the sticky flag, the count and the error log (R125, R126). -/
def State.replaced (s : State) (x : Ctx) (flag : W64) (unit operand id : Nat) (rs : List Replaced) : State :=
  let s := rs.foldl (fun s r => s.logError x.w.id.part unit operand x.c id r.row r.col 0 r.place) s
  if rs.isEmpty then s
  else s.updWarp x fun w => { w with stat := { w.stat with mstat := mstatAdd w.stat.mstat flag rs.length } }

/-- The reservation table of a cluster (R345). -/
def State.mmaTable (s : State) (k : Nat) : List MmaEntry := s.mma.getD k []

/-- MMA's checks and its reading of operands (R344). An uncorrectable element of the accumulator enters as zero too; R435
has no operand code for it, which is a free value (log 100). The answer is the machine with what it recorded, and the rows
to write. -/
def State.mmaIssue (s : State) (acc dp : Nat) (z : Bool) (fw : W32) (x : Ctx) : Res (State × Nat × FMap W32) := do
  let f := fmtOf fw
  let da := opDesc (x.w.regs.rdS dp) f.af
  let db := opDesc (x.w.regs.rdS (dp + 1)) f.bf
  need (decide (f.shape ≤ 8) && f.ok && da.ok && db.ok) ILLEGAL 5
  x.w.has [acc + f.n - 1]
  let ls := x.lanes
  let bs := List.range f.n
  let ra := x.bufRec da.r
  let rb := x.bufRec db.r
  let allA := fun (bad : Bool) => if bad then ls.map fun l => (l, da.off) else []
  let allB := fun (bad : Bool) => if bad then ls.map fun l => (l, db.off) else []
  let space := fun (r : BufRec) => recSpace r == SP_CORE || recSpace r == SP_CLUSTER
  operandNeed ra rb ACCESS 1 (allA (recSpace ra == 0)) (allB (recSpace rb == 0))
  operandNeed ra rb ACCESS 4 (allA (!space ra)) (allB (!space rb))
  let out := fun (r : BufRec) (p : Nat × Nat) => decide (recExtent r < p.1 + p.2)
  let bare := fun (r : BufRec) (p : Nat × Nat) => !out r p && s.unbacked x (recSpace r) (recBase r + p.1) p.2
  operandNeed ra rb ACCESS 5 (da.failsA f.af f.k ls (bare ra)) (db.failsB f.bf f.k f.n ls (bare rb))
  operandNeed ra rb BOUNDS 0 (da.failsA f.af f.k ls (out ra)) (db.failsB f.bf f.k f.n ls (out rb))
  let skew := fun (d : OpDesc) (r : BufRec) (g : Nat) =>
    !((recBase r + d.off) % fmtAlign g == 0 && d.off % fmtAlign g == 0 && d.pitch % fmtAlign g == 0)
  operandNeed ra rb ALIGNMENT 0 (allA (skew da ra f.af)) (allB (skew db rb f.bf))
  if (s.operandLines x da f.af f.k ls ++ s.operandLines x db f.bf f.k bs).any fun l => s.owned.has l then
    .error .stall
  else
    let as := ls.map fun l => (l, s.operandRow x da f.af f.k l true)
    let cols := bs.map fun j => s.operandRow x db f.bf f.k j false
    let lost := fun (l j : Nat) => !z && x.w.bad.getD (64 * (acc + j) + l) false
    let rows := as.flatMap fun a => (cols.zipIdx).map fun c =>
      let init := if z || lost a.1 c.2 then 0 else (x.w.rdV (acc + c.2) a.1).toNat
      let v :=
        if f.out = 4 then mmaElement init a.2.1 c.1.1 f.scale
        else mmaInt (wmSAT x.mode) init a.2.1 c.1.1
      (64 * (acc + c.2) + a.1, v)
    let m := rows.foldl (fun m p => FMap.put m 0 p.1 (BitVec.ofNat 32 p.2)) []
    let s := s.replaced x 1 2 0 x.w.ctl.pc.toNat (as.flatMap fun a => a.2.2)
    let s := s.replaced x 1 2 1 x.w.ctl.pc.toNat (cols.flatMap Prod.snd)
    let accs := ls.flatMap fun l => (bs.filter (lost l)).map fun j => ({ place := 2 ^ 61, row := l, col := j } : Replaced)
    let (code, s) := if accs.isEmpty then (0, s) else s.takeNat
    .ok (s.replaced x 1 2 (code % 256) x.w.ctl.pc.toNat accs, f.n, m)

/-- The effective priority of a warp: its role's, 4 once its wait count has reached 256 (R36). -/
def Warp.effPrio (w : Warp) : Nat := if w.ctl.promo || decide (256 ≤ w.ctl.wait) then 4 else w.id.prio.toNat

/-- A warp whose instruction finds no entry of its unit does not issue, and its wait count advances (R334, R345). -/
def State.turnedAway (s : State) : State :=
  let w := s.cw
  s.setCw { w with ctl := { w.ctl with wait := w.ctl.wait + 1 } }

/-- MMA (R344): it votes on the format, checks its operands, and takes an entry of the reservation table. -/
def execMma (a f : VReg) (p : SReg) (z : Bool) (l : La) (s : State) : Host.Outcome State Fault Refusal :=
  let w := s.cw
  let x := s.ctx
  let k := clusterOf s.cur.1
  let op := LongOp.mma a f p z
  let checks : Res Unit := do
    w.has [a.val, f.val]
    aligned 2 [p.val]
  match checks with
  | .error e => .next (s.stopNow false e)
  | .ok _ =>
    match x.lanes with
    | [] =>
      if !s.hasRoom op then .next s
      else commitW s false (.ok { w.advance with mxrpl := false, lastMma := none })
    | l0 :: rest =>
      if !s.hasRoom op then .next s
      else if 16 ≤ (s.mmaTable k).length then .next s.turnedAway
      else
        let fw := w.rdV f.val l0
        let go : Res (State × Nat × FMap W32) := do
          need (rest.all fun i => w.rdV f.val i == fw) FORMAT_DIVERGENCE 0
          s.mmaIssue a.val p.val z fw x
        match go with
        | .error e => .next (s.stopNow false e)
        | .ok (s, n, m) =>
          let e : MmaEntry :=
            { core := s.cur.1, slot := s.cur.2, sgen := w.gen, num := w.logNum, acc := a.val, n := n
              prio := w.effPrio, lanes := x.active, rows := m }
          let s := { s with mma := s.mma.ins k (s.mmaTable k ++ [e]) }
          .next ((s.updWarp x fun w => { w with mxrpl := false, lastMma := some w.logNum }).enterLog op l.val [])

/-- Is a pass in progress? -/
def State.mmaBusy (s : State) (k : Nat) : Bool := (s.mmaTable k).any fun e => e.passed

/-- The entry that the table grants next: higher issue priority, then age (R345). -/
def State.mmaNext (s : State) (k : Nat) : Option MmaEntry :=
  (s.mmaTable k).foldl (fun best e =>
    match best with
    | none => some e
    | some b => if b.prio < e.prio then some e else best) none

/-- MMA_PASS: the table grants a pass of the engine, one at a time (R345). -/
def execMmaPass (k : ClusterId) (s : State) : Host.Outcome State Fault Refusal :=
  match if s.mmaBusy k.val then none else s.mmaNext k.val with
  | none => .refused (.notEnabled "MMA_PASS")
  | some e =>
    .next { s with
      mma := s.mma.ins k.val ((s.mmaTable k.val).map fun x => if x = e then { x with passed := true } else x) }

/-- An MMA's results are written to the lanes that took part, unless its warp is gone; its log entry goes. -/
def State.finishMma (s : State) (e : MmaEntry) : State :=
  let w := s.warp e.core e.slot
  if w.gen != e.sgen || w.st == .free then s
  else
    let ls := lanesIn 64 e.lanes
    let w := (List.range e.n).foldl (fun w j =>
      ls.foldl (fun w l => w.wrV (e.acc + j) l (e.rows.getD (64 * (e.acc + j) + l) 0)) w) w
    let w := w.mend ((List.range e.n).flatMap fun j => ls.map fun l => 64 * (e.acc + j) + l)
    (s.setWarp e.core e.slot { w with log := w.log.filter fun x => x.num != e.num }).pulse w.id.job

/-- MMA_COMPLETE: the rows of the pass are written and its entry freed (R345). -/
def execMmaComplete (k : ClusterId) (s : State) : Host.Outcome State Fault Refusal :=
  match (s.mmaTable k.val).find? fun e => e.passed with
  | none => .refused (.notEnabled "MMA_COMPLETE")
  | some e =>
    .next ({ s with mma := s.mma.ins k.val ((s.mmaTable k.val).filter fun x => !x.passed) }.finishMma e)

end Sys2Proof.Machine
end

