-- ==== Sys2Proof/Machine/Shuttle.lean ====
section
/-! DEFINITION. Engine commands: descriptors, issue, chunks, endings and promises (R106, R120 to R122, R146, R334 to
R341, R346, R347). -/

namespace Sys2Proof.Machine

/-! ## What a command moves, in the order of its bytes (R106) -/

/-- One stretch of a chunk: source offset in its record (none for zeros), destination offset, bytes. -/
structure Piece where
  src : Option Nat
  dst : Nat
  n : Nat
  deriving DecidableEq, Repr

/-- Σ ik · strk of element number i, dimension 0 fastest (R336). -/
def strideSum : List Nat → List Int → Nat → Int
  | e :: es, t :: ts, i => ((i % e : Nat) : Int) * t + strideSum es ts (i / e)
  | _, _, _ => 0

/-- Elements of a tensor. -/
def CmdDesc.elems (d : CmdDesc) : Nat := d.ext.foldl (· * ·) 1

/-- The offset that a signed sum gives. -/
def plusInt (a : Nat) (z : Int) : Nat := ((a : Int) + z).toNat

/-- The pieces of elements i to i + n - 1 of a tensor. -/
def CmdDesc.tensor (d : CmdDesc) (i n : Nat) : List Piece :=
  (List.range (min n (d.elems - i))).map fun k =>
    { src := some (plusInt d.soff (strideSum d.ext d.sstr (i + k)))
      dst := plusInt d.doff (strideSum d.ext d.dstr (i + k)), n := d.e }

/-- The indexed offset of a row, none when it is out of range (R340). -/
def rowOffset (r : BufRec) (off : Nat) (pitch : Int) (rowb i : Nat) : Option Nat :=
  let o := (off : Int) + i * pitch
  if 0 ≤ o ∧ o + rowb ≤ recExtent r then some o.toNat else none

/-- The rows of a gather or scatter, ascending, those that SHSCAT drops left out (R340). -/
def Cmd.rowPieces (x : Cmd) : List Piece :=
  let d := x.d
  (x.rows.getD []).zipIdx.filterMap fun (ix, i) =>
    if x.kind.val = 1 then
      some { src := rowOffset d.src d.soff d.spitch d.e ix, dst := plusInt d.doff (i * d.dpitch), n := d.e }
    else
      (rowOffset d.dst d.doff d.dpitch d.e ix).map fun o =>
        { src := some (plusInt d.soff (i * d.spitch)), dst := o, n := d.e }

/-- Bytes lo to hi - 1 of a sequence of pieces. -/
def cutPieces (lo hi : Nat) : Nat → List Piece → List Piece
  | _, [] => []
  | at_, p :: ps =>
    let a := max lo at_
    let b := min hi (at_ + p.n)
    let rest := cutPieces lo hi (at_ + p.n) ps
    if a < b then
      { src := p.src.map (· + (a - at_)), dst := p.dst + (a - at_), n := b - a } :: rest
    else rest

/-- The cores of a cluster that MASK names, rising. -/
def CmdDesc.cores (d : CmdDesc) : List Nat := (List.range 4).filter fun k => d.mask.testBit k

/-- Total bytes of the destination sequence, per destination core for SHMCAST. -/
def Cmd.total (x : Cmd) : Nat :=
  match x.kind.val with
  | 1 => x.d.e * x.d.count
  | 2 => x.rowPieces.foldl (fun n p => n + p.n) 0
  | 6 => 4 * x.d.nv * x.d.count
  | _ => x.d.e * x.d.elems

/-- Chunks of the command. -/
def Cmd.chunkCount (x : Cmd) : Nat :=
  (x.total + 4095) / 4096 * (if x.kind.val = 3 then x.d.cores.length else 1)

/-- The destination core of chunk i of a command of core c (R338). -/
def Cmd.coreOf (x : Cmd) (c i : Nat) : Nat :=
  if x.kind.val = 3 then c / 4 * 4 + x.d.cores.getD (i % x.d.cores.length) 0 else c

/-- The pieces of chunk i; NMV's are its results, four bytes each, whose vectors are read elsewhere. -/
def Cmd.piecesOf (x : Cmd) (i : Nat) : List Piece :=
  match x.kind.val with
  | 1 => cutPieces (4096 * i) (4096 * (i + 1)) 0 x.rowPieces
  | 2 => cutPieces (4096 * i) (4096 * (i + 1)) 0 x.rowPieces
  | 3 => let j := i / x.d.cores.length; x.d.tensor (4096 / x.d.e * j) (4096 / x.d.e)
  | 6 =>
    (List.range (min 1024 (x.d.nv * x.d.count - 1024 * i))).map fun k =>
      let j := 1024 * i + k
      { src := none, dst := x.d.doff + j / x.d.count * x.d.ypitch + 4 * (j % x.d.count), n := 4 }
  | _ => x.d.tensor (4096 / x.d.e * i) (4096 / x.d.e)

/-- The pieces of chunk i that are still to be moved. -/
def Cmd.pieces (x : Cmd) (i : Nat) : List Piece := (x.piecesOf i).drop (if i = x.chunks then x.part else 0)

/-- The context in which a command's accesses are made. -/
def Cmd.ctx (x : Cmd) (c : Nat) : Ctx := { c := c, k := x.slot, w := { id := x.ident, gen := x.sgen }, active := 0 }

/-! ## Ownership (R122, R146) -/

/-- The numbers that name a task's staging and its write-back among the owners of lines. -/
def stageKey (key : Nat) : Nat := 2 ^ 14 + 4 * key
def wbKey (key : Nat) : Nat := 2 ^ 14 + 4 * key + 1

/-- The number that names a front-end queue's copy among them. -/
def copyKey (part q idx : Nat) : Nat := 2 ^ 14 + 4 * (64 * part + q + 512 * idx) + 2

/-- The number that names a command entry's command among them, and the one while its context is in an image (R122, R224). -/
def cmdKey (c e : Nat) : Nat := 16 * c + e
def parkedKey (part num k : Nat) : Nat := 2 ^ 14 + 4 * (k + 2 ^ 13 * (part + 8 * num)) + 3

/-- The destination of a command's unwritten bytes, as far as its pages translate. SHSCAT owns its whole destination record
until its index list is read. -/
def State.cmdDest (s : State) (x : Cmd) (c : Nat) : List Located :=
  if x.kind.val = 4 then []
  else
    let at_ := fun (core a n : Nat) => s.locate (x.ctx core) x.d.dst .engineWrite 0 (recBase x.d.dst + a) n
    if x.kind.val = 2 ∧ x.rows.isNone then
      (List.range (recExtent x.d.dst / 128 + 1)).map fun i => at_ c (128 * i) (min 128 (recExtent x.d.dst - 128 * i))
    else
      (List.range (x.chunkCount - x.chunks)).flatMap fun j =>
        (x.pieces (x.chunks + j)).map fun p => at_ (x.coreOf c (x.chunks + j)) p.dst p.n

/-- A line's copies in the L1s of the job's cores and in other dies' L2s are written back and removed (R146). -/
def State.claimLine (s : State) (job line : Nat) : State :=
  if isCachedPlace line then
    let cores := (s.cores.keep fun _ x => x.occ == some job).keys
    (cores.foldl (fun s k => s.l1Drop k line) s).obtainHome line
  else s

/-- Makes an owner's lines exactly those listed; it keeps its place among a line's owners. Lines that become free wake those
that wait for them. -/
def State.own (s : State) (me : Nat) (lines : List Nat) : State :=
  let m := s.owned.mapV fun l os => if l ∈ lines then os else os.filter (· != me)
  let m := lines.foldl (fun m l => FMap.ins m l (addNew (FMap.getD m l []) me)) m
  let m := m.keep fun _ os => !os.isEmpty
  let freed := (s.owned.keep fun l _ => !m.has l).keys
  { s with owned := m, touchedBits := freed.foldl addNew s.touchedBits }

/-- An owner takes lines of a job that it has not held yet, and gives up those not listed (R122, R146). -/
def State.holdLines (s : State) (me job : Nat) (lines : List Nat) : State :=
  let new := lines.filter fun l => !((s.owned.getD l []).any (· == me))
  (new.foldl (fun s l => s.claimLine job l) s).own me lines

/-- The distinct lines of some places. -/
def linesAt (zs : List Located) : List Nat := zs.foldl (fun ls z => z.segs.foldl (fun ls q => addNew ls (lineOf q.1)) ls) []

def State.putCmd (s : State) (c e : Nat) (x : Cmd) : State :=
  let cr := s.core c
  s.setCore c { cr with cmds := cr.cmds.ins e x }

/-- A command's entry, with ownership of every unwritten destination line whose page translates; the others are claimed as
soon as they do (R122, R146). -/
def State.hold (s : State) (c e : Nat) (x : Cmd) : State :=
  let zs := s.cmdDest x c
  let s := s.holdLines (cmdKey c e) x.ident.job (linesAt zs)
  s.putCmd c e { x with unheld := zs.any fun z => !z.faults.isEmpty }

/-- The place of an owner of lines in the order of commands; none for a write-back or a saved command, which comes before
every other. -/
def State.ownerOrder (s : State) (k : Nat) : Option Nat :=
  if k < 2 ^ 14 then ((s.core (k / 16)).cmds.look (k % 16)).map fun y => y.order
  else
    match (k - 2 ^ 14) % 4 with
    | 0 => s.cores.findSome? fun p => (p.2.bob.find? fun e => stageKey e.key == k).map fun e => e.began
    | 2 => (s.copies.find? fun y => copyKey y.part y.pk.q y.pk.idx == k).map fun y => y.order
    | _ => none

/-- Has a line an owner that comes before an engine's access of this order, the engine itself left out (R122, R146)? -/
def State.heldBefore (s : State) (me order line : Nat) : Bool :=
  (s.owned.getD line []).any fun k =>
    k != me && match s.ownerOrder k with | some n => decide (n < order) | none => true

/-! ## Reads and writes of an engine -/

/-- An engine's read of some segments: the issuing core's dirty bytes go first (R146), and the slice obtains the line; poisoned
units read as zero, and they are returned with the offsets at which they were met (R125). -/
def State.engineRead (s : State) (c : Nat) (segs : Segs) : List Byte × List (Nat × Nat) × State :=
  segs.foldl (fun (acc : List Byte × List (Nat × Nat) × State) q =>
    let (out, bad, s) := acc
    let s := if isCachedPlace q.1 then
        ((s.writeBackLine c (lineOf q.1)).obtain (dieOf c) (lineOf q.1) false).l2Keep (s.corePart c) (lineOf q.1)
      else s
    let bs := s.sliceRead q.1 q.2
    let zs := bs.zipIdx.map fun p => if s.poison.getD (unitOf (q.1 + p.2)) false then 0 else p.1
    let new := (unitsOf q.1 q.2).filter fun u => s.poison.getD u false
    (out ++ zs, bad ++ new.map fun u => (out.length + (u - q.1), u), s)) ([], [], s)

/-- An engine's write of some segments at slices and banks. -/
def State.engineWrite (s : State) (c : Nat) : Segs → List Byte → State
  | [], _ => s
  | q :: qs, bs =>
    let s := if isCachedPlace q.1 then (s.obtainHome (lineOf q.1)).l2Keep (s.corePart c) (lineOf q.1) else s
    (s.slicePut (s.corePart c) q.1 (bs.take q.2)).engineWrite c qs (bs.drop q.2)

/-- A chunk of an engine takes a token for each 128 of its bytes at a core's network port, when one of its sides lies beyond the
scratchpads of the core's cluster (R413, log 73). -/
def State.chargeChunk (s : State) (c : Nat) (lines : List Nat) (n : Nat) : State :=
  if lines.all isCorePlace then s else s.charge c n

/-- Unread poisoned units of some bytes become zeros (R125); each with its offset. -/
def State.zeroBad (s : State) (a n : Nat) : List (Nat × Nat) × State :=
  let bad := (unitsOf a n).filter fun u => s.poison.getD u false
  (bad.map fun u => (u - a, u), bad.foldl (fun s u => s.write u (List.replicate (unitLen u) 0)) s)

/-- Changes the issuing warp of a command while it holds its slot. -/
def State.cmdWarp (s : State) (c : Nat) (x : Cmd) (f : Warp → Warp) : State :=
  let w := s.warp c x.slot
  if w.gen = x.sgen ∧ w.st ≠ .free then s.setWarp c x.slot (f w) else s

/-- Words replaced by zero in a transfer: the sticky flag, the count and the error log, with each word's byte offset in the
transfer (R125, R126). -/
def State.cmdReplaced (s : State) (c : Nat) (x : Cmd) (flag : W64) (unit operand off : Nat) (bad : List (Nat × Nat)) : State :=
  if bad.isEmpty then s
  else
    let s := bad.foldl (fun s p => s.logError x.ident.part unit operand c x.id 0 0 (off + p.1) p.2) s
    s.cmdWarp c x fun w => { w with stat := { w.stat with mstat := mstatAdd w.stat.mstat flag bad.length } }

/-! ## Endings (R335) -/

/-- Changes the status that the shuttle keeps of a command. -/
def Warp.setHist (w : Warp) (id : Nat) (f : CmdStat → CmdStat) : Warp :=
  { w with hist := w.hist.map fun h => if h.id = id then f h else h }

/-- A tick of the counter that does not lie before one: a free number of ticks later, within the counter's 64 bits (R120). -/
def laterTick (tick extra : Nat) : Nat := tick + extra % max 1 (2 ^ 64 - tick % 2 ^ 64)

/-- A command has missed its promise: PM of its warp, and its core's and the package's counters (R121, R126). -/
def State.countMiss (s : State) (c : Nat) (x : Cmd) : State :=
  (s.cmdWarp c x fun w => { w with stat := { w.stat with mstat := w.stat.mstat ||| 8 } }).countEvent c evMissed 1

/-- A command whose tick P has come is marked missed with a promise P2, and counted once (R121). -/
def State.markCmd (s : State) (c e : Nat) (x : Cmd) : State :=
  let (n, s) := s.takeNat
  let s := s.putCmd c e { x with missed := some (laterTick (s.tick + 1) n), counted := true }
  if x.counted then s else s.countMiss c x

/-- Ends a command with a status: its entry is free, unwritten lines are released, the status stays with the
warp (R335, R348). One that ends after tick P has missed its promise, if the miss is not counted yet (R121). -/
def State.endCmd (s : State) (c e : Nat) (x : Cmd) (code : Nat) : State :=
  let s := s.own (cmdKey c e) []
  let s := if x.ready && !x.counted && decide (x.promise < s.tick) then s.countMiss c x else s
  let cr := s.core c
  let s := s.setCore c { cr with cmds := cr.cmds.del e }
  s.cmdWarp c x fun w =>
    let w := w.setHist x.id fun h => { h with code := code, chunks := x.chunks }
    if code = 1 then w
    else { w with shstat := BitVec.ofNat 64 (code + 2 ^ 8 * x.id + 2 ^ 40 * min x.chunks (2 ^ 24 - 1)) }

/-! ## Checks at issue (R334, R336, R338 to R340, R346) -/

/-- Signed 64-bit reading of a descriptor's word. -/
def descInt (D : List Byte) (off : Nat) : Int := toSigned 64 (natOf ((D.drop off).take 8))
def descNat (D : List Byte) (off n : Nat) : Nat := natOf ((D.drop off).take n)

/-- The lowest and one past the highest byte offset that one side of a tensor touches. -/
def tensorSpan (off e : Nat) (ext : List Nat) (st : List Int) : Int × Int :=
  (ext.zip st).foldl (fun (z : Int × Int) p =>
    let r := ((p.1 - 1 : Nat) : Int) * p.2
    (z.1 + min 0 r, z.2 + max 0 r)) ((off : Int), (off : Int) + e)

/-- Record checks of one side that starts at a byte offset: space, RDONLY; the address where it starts is the detail (R209). -/
def sideAccess (r : BufRec) (off : Nat) (wr : Bool) : Res Unit := do
  let a := BitVec.ofNat 64 (recBase r + off)
  needDet (recSpace r != 0) ACCESS 1 a 0 0
  needDet (recSpace r != SP_LANE) ACCESS 4 a 0 0
  needDet (!(wr && recRdonly r)) ACCESS 2 a 0 0

/-- Bounds of one side over the bytes it touches. The details are the address and the offset of a byte that fails: the lowest, when
it lies below the record, else the highest (R209, log 111). -/
def sideBounds (r : BufRec) (z : Int × Int) : Res Unit :=
  let o := if z.1 < 0 then z.1 else z.2 - 1
  needDet (decide (0 ≤ z.1) && decide (z.2 ≤ recExtent r)) BOUNDS 0 (BitVec.ofInt 64 (recBase r + o))
    (BitVec.ofNat 64 (recExtent r)) (BitVec.ofInt 64 o)

/-- The alignment of one side; the address where it starts is the detail (R209). -/
def alignNeed (ok : Bool) (r : BufRec) (off : Nat) : Res Unit := needDet ok ALIGNMENT 0 (BitVec.ofNat 64 (recBase r + off)) 0 0

/-- Does one side of a command reach what its space does not back (R98)? The first such stretch's address is the detail. -/
def State.sideBacked (s : State) (x : Ctx) (r : BufRec) (ps : List (Nat × Nat)) : Res Unit :=
  match ps.find? fun p => s.unbacked x (recSpace r) (recBase r + p.1) p.2 with
  | some p => raiseDet ACCESS 5 (BitVec.ofNat 64 (recBase r + p.1)) 0 0
  | none => .ok ()

/-- The fields of a tensor descriptor (R336). Its ESZ gives the element size; the records' ESIZE, which R101 says governs the
shuttle's descriptors, is not compared with it (log 101). -/
def tensorDesc (x : Ctx) (kind : Nat) (D : List Byte) : CmdDesc :=
  let c := descNat D 0 8
  let n := c / 2 ^ 8 % 16 + 1
  { src := if kind = 5 then 0 else x.bufRec (c % 16)
    dst := if kind = 4 then 0 else x.bufRec (c / 16 % 16)
    e := 2 ^ (c / 2 ^ 12 % 8), soff := descNat D 8 8, doff := descNat D 16 8
    ext := (List.range n).map fun i => descNat D (32 + 4 * i) 4
    sstr := (List.range n).map fun i => descInt D (72 + 8 * i)
    dstr := (List.range n).map fun i => descInt D (144 + 8 * i)
    mask := c / 2 ^ 16 % 16, level := c / 2 ^ 28 % 8, number := c / 2 ^ 20 % 128
    xword := descNat D 24 8, rpkg := c / 2 ^ 32 % 2 ^ 12
    sig := if c.testBit 31 then some (descNat D 216 8) else none }

/-- Is every field that the command does not use zero, and every used one in range (R336, R338, R339)? -/
def tensorOk (kind pkg : Nat) (D : List Byte) : Bool :=
  let c := descNat D 0 8
  let n := c / 2 ^ 8 % 16 + 1
  let remote := kind == 4 || kind == 5
  let bsel := c / 2 ^ 20 % 2 ^ 11
  let lev := bsel / 2 ^ 8
  decide (n ≤ 9) && decide (c / 2 ^ 12 % 8 ≤ 4) && !c.testBit 15 && c / 2 ^ 44 == 0 &&
  (kind != 5 || c % 16 == 0) && (kind != 4 || c / 16 % 16 == 0) &&
  (if kind = 3 then
     c / 2 ^ 16 % 16 != 0 && (bsel == 0 || (!bsel.testBit 7 && (lev == 1 || lev == 2 || lev == 4))) &&
     (if lev = 4 then bsel % 2 ^ 8 == 0 else descNat D 24 8 == 0) &&
     (lev != 2 || decide (bsel % 128 < 16))
   else c / 2 ^ 16 % 2 ^ 15 == 0 && (remote || descNat D 24 8 == 0)) &&
  (if remote then decide (descNat D 24 8 < 2 ^ 32) && c / 2 ^ 32 % 2 ^ 12 != pkg else c / 2 ^ 32 % 2 ^ 12 == 0) &&
  (if kind = 4 then c.testBit 31 || descNat D 216 8 == 0 else !c.testBit 31 && descNat D 216 8 == 0) &&
  descNat D 68 4 == 0 && (D.drop 224).all (· == 0) &&
  ((List.range n).all fun i => descNat D (32 + 4 * i) 4 != 0) &&
  ((List.range (9 - n)).all fun i =>
    descNat D (32 + 4 * (n + i)) 4 == 0 && descNat D (72 + 8 * (n + i)) 8 == 0 && descNat D (144 + 8 * (n + i)) 8 == 0) &&
  decide (((List.range n).foldl (fun p i => p * descNat D (32 + 4 * i) 4) (2 ^ (c / 2 ^ 12 % 8))) ≤ 2 ^ 40)

/-- The first and last bytes of the elements of one side. -/
def CmdDesc.places (d : CmdDesc) (off : Nat) (st : List Int) : List (Nat × Nat) :=
  (List.range d.elems).map fun i => (plusInt off (strideSum d.ext st i), d.e)

/-- The package number of this package (R33, R416). -/
def State.pkg (s : State) : Nat := bits s.group 12 12

/-- The checks of a tensor command (R336 to R339). -/
def State.tensorChecks (s : State) (x : Ctx) (kind : Nat) (D : List Byte) : Res CmdDesc := do
  need (tensorOk kind s.pkg D) ILLEGAL 5
  let d := tensorDesc x kind D
  if kind ≠ 5 then sideAccess d.src d.soff false
  if kind ≠ 4 then sideAccess d.dst d.doff true
  if kind = 3 then do
    needDet (d.cores.all fun k => (List.range 66).any fun q =>
      let w := s.warp (x.c / 4 * 4 + k) q
      w.st != .free && w.id.job == x.w.id.job) ACCESS 5 (BitVec.ofNat 64 (recBase d.dst + d.doff)) 0 0
    needDet (recSpace d.dst == SP_CORE) ACCESS 4 (BitVec.ofNat 64 (recBase d.dst + d.doff)) 0 0
  if kind ≠ 5 then sideBounds d.src (tensorSpan d.soff d.e d.ext d.sstr)
  if kind ≠ 4 then sideBounds d.dst (tensorSpan d.doff d.e d.ext d.dstr)
  let okA := fun (r : BufRec) (off : Nat) (st : List Int) =>
    off % d.e == 0 && (recBase r + off) % d.e == 0 && st.all fun t => t % (d.e : Int) == 0
  alignNeed (okA (if kind = 5 then 0 else d.src) d.soff d.sstr) (if kind = 5 then 0 else d.src) d.soff
  alignNeed (okA (if kind = 4 then 0 else d.dst) d.doff d.dstr) (if kind = 4 then 0 else d.dst) d.doff
  needDet (!(kind == 3 && d.level == 4) || (d.xword % 16 == 0 && decide (d.xword < 2 ^ 57))) ALIGNMENT 0
    (BitVec.ofNat 64 d.xword) 0 0
  if kind ≠ 5 ∧ recSpace d.src ∈ [3, 4, 5] then s.sideBacked x d.src (d.places d.soff d.sstr)
  if kind ≠ 4 ∧ recSpace d.dst ∈ [3, 4, 5] then s.sideBacked x d.dst (d.places d.doff d.dstr)
  .ok d

/-- The fields of a row descriptor (R340). -/
def rowDesc (x : Ctx) (D : List Byte) : CmdDesc :=
  let c := descNat D 0 8
  { src := x.bufRec (c % 16), dst := x.bufRec (c / 16 % 16), idx := x.bufRec (c / 256 % 16)
    soff := descNat D 8 8, doff := descNat D 16 8, ioff := descNat D 24 8, e := descNat D 32 4
    count := descNat D 36 4, spitch := descInt D 40, dpitch := descInt D 48 }

/-- The checks of a row command (R340). -/
def State.rowChecks (s : State) (x : Ctx) (kind : Nat) (D : List Byte) : Res CmdDesc := do
  let d := rowDesc x D
  need (descNat D 0 8 / 2 ^ 12 == 0 && descNat D 56 8 == 0 && decide (4 ≤ d.e) && decide (d.e ≤ 65536) &&
    d.e % 4 == 0 && decide (1 ≤ d.count) && decide (d.count ≤ 2 ^ 24)) ILLEGAL 5
  sideAccess d.src d.soff false
  sideAccess d.dst d.doff true
  sideAccess d.idx d.ioff false
  let free := fun (off : Nat) (pitch : Int) => tensorSpan off d.e [d.count] [pitch]
  sideBounds d.idx (tensorSpan d.ioff 4 [d.count] [4])
  if kind = 1 then sideBounds d.dst (free d.doff d.dpitch) else sideBounds d.src (free d.soff d.spitch)
  alignNeed (d.soff % 4 == 0 && d.spitch % 4 == 0 && recBase d.src % 4 == 0) d.src d.soff
  alignNeed (d.doff % 4 == 0 && d.dpitch % 4 == 0 && recBase d.dst % 4 == 0) d.dst d.doff
  alignNeed (d.ioff % 4 == 0 && recBase d.idx % 4 == 0) d.idx d.ioff
  if recSpace d.idx ∈ [3, 4, 5] then s.sideBacked x d.idx [(d.ioff, 4 * d.count)]
  let side := fun (off : Nat) (pitch : Int) => (List.range d.count).map fun (i : Nat) => (plusInt off ((i : Int) * pitch), d.e)
  if kind = 1 ∧ recSpace d.dst ∈ [3, 4, 5] then s.sideBacked x d.dst (side d.doff d.dpitch)
  if kind = 2 ∧ recSpace d.src ∈ [3, 4, 5] then s.sideBacked x d.src (side d.soff d.spitch)
  .ok d

/-- The fields of an NMV descriptor (R346). `src` is W, `idx` is x, `dst` is y. -/
def nmvDesc (x : Ctx) (D : List Byte) : CmdDesc :=
  let c := descNat D 0 8
  { src := x.bufRec (c % 16), idx := x.bufRec (c / 16 % 16), dst := x.bufRec (c / 256 % 16)
    nv := c / 2 ^ 12 % 8 + 1, add := c.testBit 15, wfmt := c / 2 ^ 16 % 16, xfmt := c / 2 ^ 20 % 16
    scale := toSigned 8 (c / 2 ^ 24) + toSigned 8 (c / 2 ^ 32)
    soff := descNat D 8 8, ioff := descNat D 16 8, doff := descNat D 24 8, count := descNat D 32 4
    k := descNat D 36 4, wpitch := descNat D 40 8, xpitch := descNat D 48 8, ypitch := descNat D 56 8, e := 4 }

/-- The places of one row of W: one bank segment of a bank-resident page, or the pages that do not translate
(R119). -/
def State.wRow (s : State) (x : Ctx) (d : CmdDesc) (r : Nat) : Located :=
  s.locate x d.src .engineRead 0 (recBase d.src + d.soff + r * d.wpitch) (rowBytes d.wfmt d.k)

/-- Does a row of W lie in one 8 KiB segment of a bank-resident page? -/
def segmentOk (z : Located) : Bool :=
  z.bank && match z.segs with
  | [] => true
  | q :: _ => z.segs.all fun p => p.1 / 8192 == q.1 / 8192 && (p.1 + p.2 - 1) / 8192 == q.1 / 8192

/-- The stack of a device physical address (R403). -/
def stackOf (pa : Nat) : Nat := pa / 2 ^ 36 % 8

/-- The checks of NMV (R346). -/
def State.nmvChecks (s : State) (x : Ctx) (D : List Byte) : Res CmdDesc := do
  let d := nmvDesc x D
  need (descNat D 0 8 / 2 ^ 40 == 0 && fmtClass d.wfmt != 0 && fmtClass d.wfmt == fmtClass d.xfmt &&
    decide (1 ≤ d.count) && decide (d.count ≤ 2 ^ 20) && decide (16 ≤ d.k) && decide (d.k ≤ 4096) && d.k % 16 == 0)
    ILLEGAL 5
  sideAccess d.src d.soff false
  needDet (recSpace d.src == SP_GLOBAL) ACCESS 4 (BitVec.ofNat 64 (recBase d.src + d.soff)) 0 0
  sideAccess d.idx d.ioff false
  sideAccess d.dst d.doff true
  sideBounds d.src (tensorSpan d.soff (rowBytes d.wfmt d.k) [d.count] [d.wpitch])
  sideBounds d.idx (tensorSpan d.ioff (rowBytes d.xfmt d.k) [d.nv] [d.xpitch])
  sideBounds d.dst (tensorSpan d.doff (4 * d.count) [d.nv] [d.ypitch])
  let al := fun (r : BufRec) (off pitch a : Nat) => off % a == 0 && pitch % a == 0 && recBase r % a == 0
  alignNeed (al d.src d.soff d.wpitch (fmtAlign d.wfmt)) d.src d.soff
  alignNeed (al d.idx d.ioff d.xpitch (fmtAlign d.xfmt)) d.idx d.ioff
  alignNeed (al d.dst d.doff d.ypitch 4) d.dst d.doff
  if recSpace d.idx ∈ [3, 4, 5] then
    s.sideBacked x d.idx ((List.range d.nv).map fun v => (d.ioff + v * d.xpitch, rowBytes d.xfmt d.k))
  if recSpace d.dst ∈ [3, 4, 5] then
    s.sideBacked x d.dst ((List.range d.nv).map fun v => (d.doff + v * d.ypitch, 4 * d.count))
  let rows := (List.range d.count).map fun r => s.wRow x d r
  let faults := rows.flatMap fun z => z.faults
  if !faults.isEmpty then forLanes (fun _ => 0) (.error (.fault (mergePages faults)))
  else do
    let pas := rows.flatMap fun z => z.segs.map Prod.fst
    let bad := rows.findIdx fun z => !(segmentOk z && z.segs.all fun p => stackOf p.1 == stackOf (pas.headD 0))
    needDet (decide (d.count ≤ bad)) ACCESS 11 (BitVec.ofNat 64 (recBase d.src + d.soff + bad * d.wpitch)) 0 0
    .ok d

/-- Descriptor bytes by kind (R334). -/
def descSize (kind : Nat) : Nat := if kind ∈ [1, 2, 6] then 64 else 256

/-- The index list as the engine reads it, when its pages translate and no earlier command still owns its lines (R122, R340). -/
def State.readIndex (s : State) (c me : Nat) (x : Cmd) : Sum (List PageReq) (List Nat × State) :=
  let zs := (List.range x.d.count).map fun i =>
    s.locate (x.ctx c) x.d.idx .engineRead 0 (recBase x.d.idx + x.d.ioff + 4 * i) 4
  let faults := zs.flatMap fun z => z.faults
  if !faults.isEmpty then .inl (mergePages faults)
  else if (linesAt zs).any (s.heldBefore me x.order) then .inl []
  else
    let s := s.chargeChunk c (linesAt zs) (4 * x.d.count)
    let (bs, bad, s) := s.engineRead c (zs.flatMap fun z => z.segs)
    let s := s.cmdReplaced c x 4 1 2 0 bad
    .inr ((List.range x.d.count).map fun i => descNat bs (4 * i) 4, s)

/-- The free command entries of a core's shuttle, rising. -/
def State.freeEntries (s : State) (c : Nat) : List Nat :=
  (List.range 16).filter fun e => !(s.core c).cmds.has e && !((s.core c).bob.any fun t => t.entry == some e) &&
    !((s.core c).dying.any fun t => t.1 == some e)

/-- Tasks that wait for an entry of the shuttle, within staging's limit of 8: they come before commands (R71, R334). -/
def State.stagingDemand (s : State) (c : Nat) : Nat :=
  let bob := (s.core c).bob
  let held := (bob.filter fun t => t.entry.isSome).length + ((s.core c).dying.filter fun t => t.1.isSome).length
  min (8 - held) (bob.filter fun t => t.st == .staging && t.entry.isNone && !t.blocks.isEmpty).length

/-- The entry that a command of the core may take: the lowest free one, when staging leaves it one (R334). -/
def State.entryFor (s : State) (c : Nat) : Option Nat :=
  let free := s.freeEntries c
  if free.length ≤ s.stagingDemand c then none else free.head?

/-- The entry that the warp's command has held since it issued (R334). -/
def State.heldEntry (s : State) (x : Ctx) : Option (Nat × Cmd) :=
  (s.core x.c).cmds.find? fun p => !p.2.ready && p.2.slot == x.k && p.2.sgen == x.w.gen

/-- A command that waits in the operand log holds its entry (R334). -/
def State.reserve (s : State) (kind : Fin 7) : State :=
  let w := s.cw
  match s.entryFor s.cur.1 with
  | some e =>
    { s.putCmd s.cur.1 e { kind := kind, slot := s.cur.2, sgen := w.gen, ident := w.id, ready := false, order := s.waitSeq } with
      waitSeq := s.waitSeq + 1 }
  | none => s

/-- The entry that a warp's command held is free: the command has trapped, or its warp is gone (R334). -/
def State.unreserve (s : State) (c k : Nat) : State :=
  let cr := s.core c
  s.setCore c { cr with cmds := cr.cmds.keep fun _ x => x.ready || x.slot != k }

/-- The entry and order with which a command acts: those that it has held, or the next. -/
def State.takeEntry (s : State) (x : Ctx) : Option (Nat × Nat × State) :=
  match s.heldEntry x with
  | some p => some (p.1, p.2.order, s)
  | none => (s.entryFor x.c).map fun e => (e, s.waitSeq, { s with waitSeq := s.waitSeq + 1 })

/-- What a command does at issue (R334): descriptor, checks, identity, ownership, promise. Far stores of its warp are performed
first (R136, R148). -/
def performCommand (kind : Fin 7) (d a c : Nat) (x : Ctx) (s : State) : Res State := do
  let q ← s.uaddr x a c (descSize kind.val) 8 false
  let s := s.farAll x.c x.k
  let (D, s) ← s.readAt x a q (descSize kind.val)
  let dd ←
    if kind.val = 6 then s.nmvChecks x D
    else if kind.val = 1 ∨ kind.val = 2 then s.rowChecks x kind.val D
    else s.tensorChecks x kind.val D
  match s.takeEntry x with
  | none => .error .stall
  | some (e, order, s) =>
    let cr := s.core x.c
    let id := 16 * cr.seq.toNat + e
    let (extra, s) := s.takeNat
    let p := laterTick s.tick extra
    let cmd : Cmd :=
      { kind := kind, slot := x.k, sgen := x.w.gen, ident := x.w.id, id := id, promise := p, d := dd, order := order }
    let (cmd, s) :=
      if kind.val = 1 ∨ kind.val = 2 then
        match s.readIndex x.c (cmdKey x.c e) cmd with
        | .inr (ix, s) => ({ cmd with rows := some ix }, s)
        | .inl ps => ({ cmd with pages := ps }, s)
      else (cmd, s)
    let s := s.setCore x.c { s.core x.c with seq := cr.seq + 1 }
    let s := s.hold x.c e cmd
    let stack := if kind.val = 6 then stackOf (((s.wRow x dd 0).segs.headD (0, 0)).1) else 0
    .ok (s.updWarp x fun w =>
      let w := (w.wrS d (BitVec.ofNat 64 p)).wrS (d + 1) (BitVec.ofNat 64 id)
      { w with hist := ({ id := id, kind := kind, promise := p } :: w.hist).take 32
               nmvStack := if kind.val = 6 then BitVec.ofNat 3 stack else w.nmvStack })

/-- A command issues only with an entry, which it holds from then on (R334); it is an ordering instruction. -/
def commandOp (kind : Fin 7) (d : SReg) (a : BReg) (c : SReg) (l : La) (s : State) :
    Host.Outcome State Fault Refusal :=
  let op := LongOp.command kind d a c
  match aligned 2 [d.val] with
  | .error e => .next (s.stopNow true e)
  | .ok _ =>
    if !s.cw.log.isEmpty || !s.hasRoom op then .next s
    else if (s.entryFor s.cur.1).isNone then .next s.turnedAway
    else
      match performCommand kind d.val a.val c.val s.ctx s with
      | .ok t => .next (t.retire t.cw.advance)
      | .error (.fault ps) => .next ((s.reserve kind).enterLog op l.val ps)
      | .error .defer => .next ((s.reserve kind).enterLog op l.val [])
      | .error e => .next (s.stopNow true e)

def execShcopy (d : SReg) (a : BReg) (c : SReg) (l : La) (s : State) := commandOp 0 d a c l s
def execShgath (d : SReg) (a : BReg) (c : SReg) (l : La) (s : State) := commandOp 1 d a c l s
def execShscat (d : SReg) (a : BReg) (c : SReg) (l : La) (s : State) := commandOp 2 d a c l s
def execShmcast (d : SReg) (a : BReg) (c : SReg) (l : La) (s : State) := commandOp 3 d a c l s
def execShput (d : SReg) (a : BReg) (c : SReg) (l : La) (s : State) := commandOp 4 d a c l s
def execShget (d : SReg) (a : BReg) (c : SReg) (l : La) (s : State) := commandOp 5 d a c l s
def execNmv (d : SReg) (a : BReg) (c : SReg) (l : La) (s : State) := commandOp 6 d a c l s

/-! ## SHCAN and SHQRY (R341) -/

/-- The entry that a command of the warp holds, once it is accepted: one that waits in the operand log has no identity yet. -/
def State.findCmd (s : State) (c slot : Nat) (gen : BitVec 21) (id : Nat) : Option (Nat × Cmd) :=
  (s.core c).cmds.find? fun p => p.2.ready && p.2.id == id && p.2.slot == slot && p.2.sgen == gen

/-- What SHCAN does (R341). A command that has not ended is marked, and the warp sleeps until it has: `done` then marks the
sleeper, whose answer is 0 when the command was cancelled. -/
def performShcan (d a : Nat) (x : Ctx) (s : State) : Res State :=
  let id := (x.w.regs.rdS a).toNat
  match x.w.hist.find? fun h => h.id == id with
  | none => .ok (s.updWarp x fun w => w.wrS d 2)
  | some h =>
    if h.code ≠ 0 then
      .ok ((s.updWarp x fun w => w.wrS d (if x.done ≠ 0 ∧ h.code = 4 then 0 else 1)).selfInvalidate x.c)
    else
      let t := s.sleepIn x (.command id) 1
      match s.findCmd x.c x.k x.w.gen id with
      | some (e, y) => .ok (t.putCmd x.c e { y with cancel := true })
      | none => .ok t

def execShcan (d a : SReg) (l : La) (s : State) : Host.Outcome State Fault Refusal :=
  issueLong false true (.shcan d a) l.val (fun _ => .ok ()) (performShcan d.val a.val) s

/-- What SHQRY does (R341). -/
def performShqry (d a : Nat) (x : Ctx) (s : State) : Res State :=
  let id := (x.w.regs.rdS a).toNat
  let (code, n) :=
    match x.w.hist.find? fun h => h.id == id with
    | none => (7, 0)
    | some h =>
      match s.findCmd x.c x.k x.w.gen id with
      | some (_, y) => (h.code, y.chunks)
      | none => (h.code, h.chunks)
  .ok (s.updWarp x fun w => (w.wrS d (BitVec.ofNat 64 code)).wrS (d + 1) (BitVec.ofNat 64 n))

def execShqry (d a : SReg) (l : La) (s : State) : Host.Outcome State Fault Refusal :=
  issueLong false true (.shqry d a) l.val (fun _ => aligned 2 [d.val]) (performShqry d.val a.val) s

/-! ## Chunks (R106) -/

/-- The handles that a command uses here. -/
def Cmd.handles (x : Cmd) : List Nat :=
  match x.kind.val with
  | 4 => [recHandle x.d.src]
  | 5 => [recHandle x.d.dst]
  | 1 => [recHandle x.d.src, recHandle x.d.dst, recHandle x.d.idx]
  | 2 => [recHandle x.d.src, recHandle x.d.dst, recHandle x.d.idx]
  | 6 => [recHandle x.d.src, recHandle x.d.idx, recHandle x.d.dst]
  | _ => [recHandle x.d.src, recHandle x.d.dst]

/-- What the re-reading of a handle's entry finds (R106). -/
inductive HandleState where
  | good | revoked
  | fault (q : PageReq)
  deriving DecidableEq, Repr

/-- Re-reads one handle's entry as an acquire at PACKAGE scope (R106), translated for a core or another agent u. A poisoned word of
it reads as zero and is recorded: `log` says how (R125). -/
def State.checkHandle (s : State) (u c job h : Nat) (log : State → Nat → State) : HandleState × State :=
  let jb := s.job job
  let slot := h % 2 ^ 24
  let va := jb.r.hbase + 32 * slot
  if jb.r.hcount ≤ slot then (.revoked, s)
  else
    match s.translate u jb.part false .engineRead va with
    | .fault perm => (.fault (pageOf va .engineRead perm), s)
    | .ok place _ _ =>
      let s := (s.acquireLine c (lineOf place) 3).selfInvalidate c
      if s.poisoned (place + 24) 4 then (if h = 0 then .good else .revoked, log s (unitOf (place + 24)))
      else (if natOf (s.sliceRead (place + 24) 4) = h then .good else .revoked, s)

/-- Re-reads several handles; the first that is not good decides. -/
def State.checkHandles (s : State) (c job : Nat) (log : State → Nat → State) : List Nat → HandleState × State
  | [] => (.good, s)
  | h :: hs =>
    match s.checkHandle c c job h log with
    | (.good, s) => s.checkHandles c job log hs
    | r => r

/-- The record of a poisoned word of a handle table met by a command. R435 has no operand code for it, which is a free value
(log 100). -/
def Cmd.handleError (x : Cmd) (c : Nat) (s : State) (place : Nat) : State :=
  let (code, s) := s.takeNat
  s.cmdReplaced c x (if x.kind.val = 6 then 2 else 4) (if x.kind.val = 6 then 3 else 1) (code % 256) (4096 * x.chunks) [(0, place)]

/-- The element vectors that an NMV's chunk reads: W's rows and x's vectors. -/
def State.nmvSegs (s : State) (x : Cmd) (c : Nat) (isW : Bool) (a n : Nat) : Located :=
  let r := if isW then x.d.src else x.d.idx
  s.locate (x.ctx c) r .engineRead 0 (recBase r + a) n

/-- The number of an NMV's first result that is still to be written in chunk i. -/
def Cmd.nmvFirst (x : Cmd) (i : Nat) : Nat := 1024 * i + if i = x.chunks then x.part else 0

/-- Every page that a chunk touches and that does not translate. -/
def State.chunkFaults (s : State) (x : Cmd) (c i : Nat) : List PageReq :=
  let dc := x.coreOf c i
  let src := fun (p : Piece) =>
    match p.src with
    | some o => if x.kind.val = 5 then [] else (s.locate (x.ctx c) x.d.src .engineRead 0 (recBase x.d.src + o) p.n).faults
    | none => []
  let dst := fun (p : Piece) =>
    if x.kind.val = 4 then []
    else (s.locate (x.ctx dc) x.d.dst .engineWrite 0 (recBase x.d.dst + p.dst) p.n).faults
  let own := fun (p : Piece) =>
    if x.kind.val = 6 && x.d.add then
      (s.locate (x.ctx dc) x.d.dst .engineRead 0 (recBase x.d.dst + p.dst) p.n).faults
    else []
  let cell :=
    if x.kind.val = 3 ∧ x.d.level = 4 then
      match s.translate c x.ident.part false .engineWrite x.d.xword with
      | .fault perm => [pageOf x.d.xword .engineWrite perm]
      | .ok _ _ _ => []
    else []
  let vecs :=
    if x.kind.val = 6 then
      (List.range (x.pieces i).length).flatMap fun k =>
        let j := x.nmvFirst i + k
        (s.nmvSegs x c true (x.d.soff + j % x.d.count * x.d.wpitch) (rowBytes x.d.wfmt x.d.k)).faults ++
        (s.nmvSegs x c false (x.d.ioff + j / x.d.count * x.d.xpitch) (rowBytes x.d.xfmt x.d.k)).faults
    else []
  mergePages (((x.pieces i).flatMap fun p => src p ++ dst p ++ own p) ++ cell ++ vecs)

/-- The lines that a chunk touches: its destinations, its sources, and for NMV the rows of W and the vectors. -/
def State.chunkLines (s : State) (x : Cmd) (c i : Nat) : List Nat :=
  let d := x.d
  let dst := if x.kind.val = 4 then [] else (x.pieces i).map fun p =>
    s.locate (x.ctx (x.coreOf c i)) d.dst .engineWrite 0 (recBase d.dst + p.dst) p.n
  let src :=
    if x.kind.val = 5 then []
    else if x.kind.val = 6 then
      (List.range (x.pieces i).length).flatMap fun k =>
        let j := x.nmvFirst i + k
        [s.nmvSegs x c true (d.soff + j % d.count * d.wpitch) (rowBytes d.wfmt d.k),
         s.nmvSegs x c false (d.ioff + j / d.count * d.xpitch) (rowBytes d.xfmt d.k)]
    else
      (x.pieces i).filterMap fun p =>
        p.src.map fun o => s.locate (x.ctx c) d.src .engineRead 0 (recBase d.src + o) p.n
  linesAt (dst ++ src)

/-- Copies one piece: read, then written at its destination. `off` is its place in the transfer. -/
def State.movePiece (s : State) (x : Cmd) (c dc off : Nat) (p : Piece) : State :=
  let (bs, bad, s) :=
    match p.src with
    | some o => s.engineRead c (s.locate (x.ctx c) x.d.src .engineRead 0 (recBase x.d.src + o) p.n).segs
    | none => (bytesOf p.n 0, [], s)
  let s := s.cmdReplaced c x 4 1 0 off bad
  s.engineWrite dc (s.locate (x.ctx dc) x.d.dst .engineWrite 0 (recBase x.d.dst + p.dst) p.n).segs bs

/-- Copies some pieces in order, from a byte offset in the transfer on. -/
def State.movePieces (s : State) (x : Cmd) (c dc : Nat) : Nat → List Piece → State
  | _, [] => s
  | off, p :: ps => (s.movePiece x c dc off p).movePieces x c dc (off + p.n) ps

/-- One result of an NMV: row r of W with vector v (R202, R347). The slice obtains x's lines, and the home of W's stack its
own, before they are read (R119, R146). -/
def State.nmvPiece (s : State) (x : Cmd) (c j : Nat) (p : Piece) : State :=
  let d := x.d
  let r := j % d.count
  let v := j / d.count
  let dst := (s.locate (x.ctx c) d.dst .engineWrite 0 (recBase d.dst + p.dst) 4).segs
  let (ys, yb, s) := if d.add then s.engineRead c dst else ([], [], s)
  let xs := (s.nmvSegs x c false (d.ioff + v * d.xpitch) (rowBytes d.xfmt d.k)).segs
  let ws := (s.nmvSegs x c true (d.soff + r * d.wpitch) (rowBytes d.wfmt d.k)).segs
  let (_, _, s) := s.engineRead c (xs ++ ws)
  let (wv, wb) := s.rowAt (fun a n => (s.nmvSegs x c true a n).segs) d.wfmt (d.soff + r * d.wpitch) d.k r
  let (xv, xb) := s.rowAt (fun a n => (s.nmvSegs x c false a n).segs) d.xfmt (d.ioff + v * d.xpitch) d.k v
  let y := mmaElement (natOf ys) wv xv d.scale
  let log := fun (s : State) (operand : Nat) (rs : List Replaced) =>
    rs.foldl (fun s q => s.logError x.ident.part 3 operand c x.id q.row q.col 0 q.place) s
  let s := log (log s 0 wb) 1 xb
  let (code, s) := if yb.isEmpty then (0, s) else s.takeNat
  let s := log s (code % 256) (yb.map fun q => { place := q.2, row := r, col := v })
  let n := wb.length + xb.length + yb.length
  let s := if n = 0 then s else
    s.cmdWarp c x fun w => { w with stat := { w.stat with mstat := mstatAdd w.stat.mstat 2 n } }
  s.engineWrite c dst (bytesOf 4 y)

/-- The receiving barrier of a multicast counts the chunk's bytes at a destination core (R338). -/
def State.countBytes (s : State) (x : Cmd) (c dc n : Nat) : State :=
  let lost := s.countEvent c evBytesLost n
  match x.d.level with
  | 1 =>
    let ts := s.slots.filterMap fun p =>
      if p.1 / 128 = dc ∧ p.2.st ≠ .free ∧ p.2.id.job = x.ident.job ∧ !p.2.id.task ∧ !p.2.id.handler
      then some p.2 else none
    match ts with
    | [] => lost
    | w :: ws =>
      let t := ws.foldl (fun a b => if b.id.teamIdx < a.id.teamIdx then b else a) w
      let b := BarRef.team (teamCore t dc) (128 * t.id.teamIdx + x.d.number)
      if (s.barOpt b).isNone then lost else s.barBytes b n
  | 2 =>
    if (s.job x.ident.job).r.clusMasks.getD x.d.number 0 = 0 then lost
    else s.barBytes (.cluster x.ident.job (clusterOf dc) x.d.number) n
  | 4 =>
    match s.translate c x.ident.part false .engineWrite x.d.xword with
    | .ok place _ _ =>
      let (bad, s) := (s.obtainHome (lineOf place)).zeroBad place 16
      (s.cmdReplaced c x 4 1 0 (4096 * x.chunks) bad).cellBytes place n
    | .fault _ => s
  | _ => s

/-- The lowest and one past the highest byte offset that a tensor command touches in the remote record, with its signal word. -/
def Cmd.remoteSpan (x : Cmd) : Int × Int :=
  let z := if x.kind.val = 4 then tensorSpan x.d.doff x.d.e x.d.ext x.d.dstr else tensorSpan x.d.soff x.d.e x.d.ext x.d.sstr
  match x.d.sig with
  | some o => (min z.1 o, max z.2 (o + 8))
  | none => z

/-- A request to the remote package for some bytes of its record (R339). -/
def State.sendRemote (s : State) (x : Cmd) (cells : List (Nat × Byte)) (signal : Option Nat) : State :=
  let z := x.remoteSpan
  { s with sent := s.sent ++
      [{ put := x.kind.val == 4, pkg := BitVec.ofNat 12 s.pkg, djid := BitVec.ofNat 32 (s.job x.ident.job).r.djid
         handle := BitVec.ofNat 32 x.d.xword, ident := x.id, pos := 4096 * x.chunks, first := x.chunks == 0, lowest := z.1, highest := z.2
         cells := cells, signal := signal }] }

/-- SHPUT's chunk: the source's bytes are sent to the remote record. -/
def State.putChunk (s : State) (x : Cmd) (c i : Nat) : State :=
  let (cells, s) := (x.pieces i).foldl (fun (acc : List (Nat × Byte) × State) p =>
    let (bs, bad, s) :=
      match p.src with
      | some o => acc.2.engineRead c (acc.2.locate (x.ctx c) x.d.src .engineRead 0 (recBase x.d.src + o) p.n).segs
      | none => (bytesOf p.n 0, [], acc.2)
    let s := s.cmdReplaced c x 4 1 0 (4096 * i + acc.1.length) bad
    (acc.1 ++ bs.zipIdx.map fun b => (p.dst + b.2, b.1), s)) ([], s)
  s.sendRemote x cells none

/-- SHGET's chunk: the bytes that the remote package sends, which nothing here determines (log 15), are written. -/
def State.getChunk (s : State) (x : Cmd) (c i : Nat) : State :=
  let s := s.sendRemote x ((x.pieces i).flatMap fun p =>
    (List.range p.n).map fun k => ((p.src.getD 0) + k, (0 : Byte))) none
  (x.pieces i).foldl (fun s p =>
    let bs := Config.freeBytes s.freeIdx p.n
    let s := { s with freeIdx := s.freeIdx + 1 }
    s.engineWrite c (s.locate (x.ctx c) x.d.dst .engineWrite 0 (recBase x.d.dst + p.dst) p.n).segs
      ((List.range p.n).map fun k => bs.getD k 0)) s

/-- The pieces that one delivery of a multicast moves: those of the next destination line (R338). -/
def State.linePieces (s : State) (x : Cmd) (dc : Nat) (ps : List Piece) : List Piece :=
  let line := fun (p : Piece) =>
    (linesAt [s.locate (x.ctx dc) x.d.dst .engineWrite 0 (recBase x.d.dst + p.dst) p.n]).head?
  match ps with
  | [] => []
  | p :: _ => ps.takeWhile fun q => line q == line p

/-- Bytes of some pieces. -/
def pieceBytes (ps : List Piece) : Nat := ps.foldl (fun n p => n + p.n) 0

/-- The bytes of chunk i are moved, or for a multicast those of its next line, which its receiving barrier then counts. The
answer is the number of pieces moved. An NMV writes the results that the next 4 KiB of W give, at the end of which the handle of W is
read again (R347). -/
def State.moveChunk (s : State) (x : Cmd) (c i : Nat) : State × Nat :=
  let ps := x.pieces i
  match x.kind.val with
  | 4 => (s.putChunk x c i, ps.length)
  | 5 => (s.getChunk x c i, ps.length)
  | 6 =>
    let now := ps.take (max 1 (4096 / rowBytes x.d.wfmt x.d.k))
    (now.zipIdx.foldl (fun s p => s.nmvPiece x c (x.nmvFirst i + p.2) p.1) s, now.length)
  | 3 =>
    let dc := x.coreOf c i
    let now := s.linePieces x dc ps
    let off := 4096 * (i / x.d.cores.length) + pieceBytes ((x.piecesOf i).take x.part)
    ((s.movePieces x c dc off now).countBytes x c dc (pieceBytes now), now.length)
  | _ => (s.movePieces x c (x.coreOf c i) (4096 * i) ps, ps.length)

/-- A command waits for pages: they enter the filters (R221). -/
def State.stallCmd (s : State) (c e : Nat) (x : Cmd) (ps : List PageReq) : State :=
  let (ps, fs) := fileAll x.ident.part (unitOfCore c) (coreBit c) s.tick ps s.faults
  { s with faults := fs }.putCmd c e { x with pages := ps }

/-- Is an indexed row out of range with CLAMP clear (R340)? -/
def Cmd.rowsBad (x : Cmd) : Bool :=
  let d := x.d
  let (r, off, pitch) := if x.kind.val = 1 then (d.src, d.soff, d.spitch) else (d.dst, d.doff, d.dpitch)
  !recClamp r && (x.rows.getD []).any fun ix => (rowOffset r off pitch d.e ix).isNone

/-- Is a package a member of the group that has been declared unreachable (R419)? -/
def State.remoteGone (s : State) (pkg : Nat) : Bool :=
  (List.range 8).any fun pos => s.groupHas pos && s.packageAt pos == pkg && s.hd.unreach.getLsbD pos

/-- What the remote package answers to a chunk: 0 done, 1 refused or its link failed, 2 revoked. An unreachable one is the link's
failure; the answer of another is not determined here (log 15). -/
def State.remoteAnswer (s : State) (x : Cmd) : Nat × State :=
  if x.kind.val = 4 ∨ x.kind.val = 5 then
    if s.remoteGone x.d.rpkg then (1, s)
    else
      let (n, s) := s.takeNat
      (n % 3, s)
  else (0, s)

/-- A chunk has been moved: the command ends, or its unwritten lines stay owned. -/
def State.afterChunk (s : State) (c e : Nat) (x : Cmd) : State :=
  let x := { x with chunks := x.chunks + 1, part := 0 }
  let s := s.pulse x.ident.job
  if x.chunkCount ≤ x.chunks then
    let s := match x.d.sig with
      | some o => if x.kind.val = 4 then s.sendRemote x [] (some o) else s
      | none => s
    s.endCmd c e x 1
  else if x.cancel then s.endCmd c e x 4
  else s.hold c e x

/-- Some pieces of the next chunk have been moved. -/
def State.afterMove (s : State) (c e : Nat) (x : Cmd) (moved : Nat) : State :=
  if (x.pieces x.chunks).length ≤ moved then s.afterChunk c e x
  else s.hold c e { x with part := x.part + moved }

/-- The handles that a command reads again before its next move: all of them at a chunk's start; W's at each 4 KiB of W (R106,
R347). -/
def Cmd.handlesNow (x : Cmd) : List Nat :=
  if x.part = 0 then x.handles else if x.kind.val = 6 then [recHandle x.d.src] else []

/-- The bytes of some pieces take tokens at the core's port: once for the whole move, whatever their number (R413). SHPUT and SHGET
always pass the port. -/
def State.chargeMove (s : State) (x : Cmd) (c i n : Nat) : State :=
  let bytes := pieceBytes ((x.pieces i).take n)
  if x.kind.val = 4 ∨ x.kind.val = 5 then s.charge c bytes else s.chargeChunk c (s.chunkLines x c i) bytes

/-- The next chunk of a command, or the next part of the one in flight; none while a page or an earlier owner of its lines
keeps it back (R122, R146). An NMV whose W is revoked in the middle of a chunk stops there: the chunk does not count (log 112). -/
def State.runChunk (s : State) (c e : Nat) (x : Cmd) : Option State :=
  match s.checkHandles c x.ident.job (x.handleError c) x.handlesNow with
  | (.revoked, s) => some (s.endCmd c e x 2)
  | (.fault q, s) => some (s.stallCmd c e x [q])
  | (.good, s) =>
    if x.chunkCount = 0 then some (s.endCmd c e x 1)
    else
      match s.chunkFaults x c x.chunks with
      | [] =>
        if (s.chunkLines x c x.chunks).any (s.heldBefore (cmdKey c e) x.order) then none
        else
          let (r, s) := s.remoteAnswer x
          if r = 0 then
            let (t, n) := (s.hold c e x).moveChunk x c x.chunks
            some ((t.chargeMove x c x.chunks n).afterMove c e x n)
          else some (s.endCmd c e x (if r = 1 then 6 else 2))
      | ps => some (s.stallCmd c e x ps)

/-- The index list is read, checked against the indexed record, and the lines owned are those of its rows (R340). -/
def State.startRows (s : State) (c e : Nat) (x : Cmd) : Option State :=
  if x.rowsBad then some (s.endCmd c e x 5) else (s.hold c e x).runChunk c e x

/-- A command's next move: its index list, or its next chunk. -/
def State.stepCmd (s : State) (c e : Nat) (x : Cmd) : Option State :=
  if (x.kind.val = 1 ∨ x.kind.val = 2) ∧ x.chunks = 0 then
    match x.rows with
    | some _ => s.startRows c e x
    | none =>
      match s.readIndex c (cmdKey c e) x with
      | .inr (ix, s) => s.startRows c e { x with rows := some ix }
      | .inl [] => none
      | .inl ps => some (s.stallCmd c e x ps)
  else s.runChunk c e x

/-- ENGINE_CHUNK: a command's next chunk (R106, R334). One that SHCAN has stopped ends at the boundary, after the
chunk in flight if there is one (R341): which, is a free choice unless a part of the chunk has been moved. -/
def execEngineChunk (c : CoreId) (e : Fin 16) (s : State) : Host.Outcome State Fault Refusal :=
  match (s.core c.val).cmds.look e.val with
  | none => .refused (.notEnabled "ENGINE_CHUNK")
  | some x =>
    if !x.ready then .refused (.notEnabled "ENGINE_CHUNK")
    else if x.dead then .next (s.endCmd c.val e.val x 3)
    else if !x.pages.isEmpty then
      eventIf (x.cancel && x.part == 0) "ENGINE_CHUNK" (s.endCmd c.val e.val x 4)
    else
      let (flight, s) := if x.cancel && x.part == 0 then s.takeBit else (true, s)
      if !flight then .next (s.endCmd c.val e.val x 4)
      else
        match s.stepCmd c.val e.val x with
        | some t => .next t
        | none => .refused (.notEnabled "ENGINE_CHUNK")

/-! ## Promises (R121) -/

/-- Has the tick of a command's promise come without its being counted, or that of its latest P2? -/
def Cmd.expired (x : Cmd) (tick : Nat) : Bool :=
  !x.counted && decide (x.promise ≤ tick) || x.missed.any fun p => decide (p ≤ tick)

/-- PROMISE_EXPIRY: at its promise an incomplete command is marked missed and given a later one. -/
def execPromiseExpiry (c : CoreId) (e : Fin 16) (s : State) : Host.Outcome State Fault Refusal :=
  match (s.core c.val).cmds.look e.val with
  | none => .refused (.notEnabled "PROMISE_EXPIRY")
  | some x =>
    if !x.ready || !x.expired s.tick then .refused (.notEnabled "PROMISE_EXPIRY")
    else .next (s.markCmd c.val e.val x)

/-! ## Chunks of other packages (R339, R395) -/

/-- The running job here that belongs to a distributed job and counts the package among its peers (R395). -/
def State.peerJob (s : State) (djid pkg : Nat) : Option (Nat × Job) :=
  s.jobs.find? fun p =>
    p.2.r.djid == djid && djid != 0 && decide (pkg ∈ p.2.peers) && (p.2.phase == .running || p.2.phase == .ending)

/-- A chunk of another package's SHPUT or SHGET at the record that its handle names (R339): the pages that it waits for, or the
lines of an engine; else what it answers. The record is checked when the first chunk arrives: one that is null, read-only for
SHPUT, out of bounds, the signal word included, or of another space refuses the transfer (REMOTE); a handle that names no such
record revokes it at any chunk. -/
def State.remoteChunk (s : State) (req : RemoteReq) : Except (List PageReq) (State × RemoteAns) :=
  let no := fun (code : Nat) => ({ pkg := req.pkg, code := code } : RemoteAns)
  match s.peerJob req.djid.toNat req.pkg.toNat with
  | none => .ok (s, no 6)
  | some (j, jb) =>
    let log := fun (s : State) (place : Nat) =>
      let (code, s) := s.takeNat
      s.logError jb.part 1 (code % 256) 0 req.ident 0 0 req.pos place
    match s.checkHandle frontEnd 0 j req.handle.toNat log with
    | (.revoked, s) => .ok (s, no 2)
    | (.fault q, _) => .error [q]
    | (.good, s) =>
      let va := jb.r.hbase + 32 * (req.handle.toNat % 2 ^ 24)
      match s.translate frontEnd jb.part false .engineRead va with
      | .fault perm => .error [pageOf va .engineRead perm]
      | .ok place _ _ =>
        let (rb, rbad, s) := s.engineRead 0 [(place, 32)]
        let s := rbad.foldl (fun s p => log s p.2) s
        let r : BufRec := BitVec.ofNat 256 (natOf rb)
        let ok := !req.first || (recSpace r == SP_GLOBAL || recSpace r == SP_DIE) && !(req.put && recRdonly r) &&
          decide (0 ≤ req.lowest) && decide (req.highest ≤ recExtent r)
        let x : Ctx := { c := frontEnd, k := 0, w := { id := { part := jb.part, job := j } }, active := 0 }
        let kind := if req.put then AccessKind.engineWrite else .engineRead
        let seg := fun (o n : Nat) => s.locate x r kind 0 (recBase r + o) n
        let word := match req.signal with | some o => [s.locate x r .atomic 0 (recBase r + o) 8] | none => []
        let zs := req.cells.map fun p => seg p.1 1
        let faults := (zs ++ word).flatMap fun z => z.faults
        if !ok then .ok (s, no 6)
        else if !faults.isEmpty then .error (mergePages faults)
        else if (linesAt (zs ++ word)).any s.owned.has then .error []
        else if req.put then
          let s := (linesAt (zs ++ word)).foldl (fun s l => s.claimLine j l) s
          let s := (req.cells.zip zs).foldl (fun s p => s.engineWrite 0 p.2.segs [p.1.2]) s
          let segs := word.flatMap fun z => z.segs
          let (ws, bad, s) := s.engineRead 0 segs
          let s := bad.foldl (fun s p => log s p.2) s
          .ok (if segs.isEmpty then s else s.engineWrite 0 segs (bytesOf 8 (natOf ws + 1)), no 1)
        else
          let (bs, bad, s) := s.engineRead 0 (zs.flatMap fun z => z.segs)
          let s := bad.foldl (fun s p => s.logError jb.part 1 0 0 req.ident 0 0 (req.pos + p.1) p.2) s
          .ok (s, { no 1 with cells := (req.cells.map Prod.fst).zip bs })

/-- REMOTE_CHUNK: a chunk of another package's command is served and answered (R339). One whose pages do not translate files
its faults in the front end's stage and is not answered: the link holds it, and it comes again (log 15). No core's port carries
it, so it takes no tokens. -/
def execRemoteChunk (req : RemoteReq) (s : State) : Host.Outcome State Fault Refusal :=
  match s.remoteChunk req with
  | .ok (t, a) => .next { t with buckets := s.buckets, short := s.short, answers := t.answers ++ [a] }
  | .error [] => .refused (.notEnabled "REMOTE_CHUNK")
  | .error ps =>
    let part := ((s.peerJob req.djid.toNat req.pkg.toNat).map fun p => p.2.part).getD 0
    .next { s with faults := (fileAll part 128 0 s.tick ps s.faults).2 }

end Sys2Proof.Machine
end

