-- ==== Sys2Proof/Machine/Watch.lean ====
section
/-! DEFINITION. MON and MWAIT (R168, R169, R317, R318); WAITT (R121, R170, R319). -/

namespace Sys2Proof.Machine

/-! ## MON -/

/-- Is a watch registered at the slice that holds a line, on the die of a core (R168)? -/
def sameSlice (c line : Nat) (key : Nat) (x : Watch) : Bool :=
  x.st == .armed && isCachedPlace line && isCachedPlace x.line && dieOf (key / 128) == dieOf c &&
  homeSlice x.line == homeSlice line

/-- Where 1,024 watches are registered at a slice, the oldest is dropped (R169). -/
def State.dropWatch (s : State) (c line : Nat) : State :=
  let at_ := s.slots.filterMap fun p =>
    p.2.watch.bind fun x => if sameSlice c line p.1 x then some (p.1, x) else none
  if at_.length < 1024 then s
  else
    match at_ with
    | [] => s
    | q :: qs =>
      let old := qs.foldl (fun a b => if b.2.seq < a.2.seq then b else a) q
      { s with slots := s.slots.upd old.1 {} fun w => { w with watch := some { old.2 with st := .lost } } }

/-- What MON does (R317): its lanes' lines are compared before they are translated (R288). -/
def performMon (scope xr b : Nat) (x : Ctx) (s : State) : Res State := do
  let r := x.bufRec b
  let as ← s.addresses x b xr 1 1 false
  let cached := recSpace r == SP_GLOBAL || recSpace r == SP_HOST
  let _ ← oneLine ((okLanes as).map fun p => (p.1, p.2, if cached then p.2 else s.scratchPlace x (recSpace r) p.1 (swizzle r p.2)))
  let zs ← s.locateAll x r .read 1 (okLanes as)
  match (zs.head?.bind fun p => p.2.segs.head?).map fun q => lineOf q.1 with
  | none => .ok s
  | some line =>
    let s := s.updWarp x fun w => { w with watch := none }
    let s := s.dropWatch x.c line
    let host := recSpace r == SP_HOST
    let va := ((okLanes as).headD (0, 0)).2
    let entry := if recSpace r = SP_GLOBAL ∨ host then s.leafOf x.c x.w.id.part host va else none
    let v : Watch := { line := line, scope := scope, seq := s.waitSeq, host := host, va := va, entry := entry }
    .ok { s.updWarp x fun w => { w with watch := some v } with
          waitSeq := s.waitSeq + 1 }

/-- The checks of MON: SUB 3 at decode, and the WMODE.ET check that R289 makes for it as for LDA. -/
def monChecks (xr : Nat) (w : Warp) : Res Unit := do
  w.has [xr]
  need (widthOk (wmET w.ctl.wmode)) ILLEGAL 5

def monOp (sc : Fin 6) (x : VReg) (b : BReg) (l : La) (s : State) : Host.Outcome State Fault Refusal :=
  issueLong false false (.mon sc x b) l.val (monChecks x.val) (performMon sc.val x.val b.val) s

def execMonTeam (x : VReg) (b : BReg) (l : La) (s : State) := monOp 0 x b l s
def execMonCluster (x : VReg) (b : BReg) (l : La) (s : State) := monOp 1 x b l s
def execMonDie (x : VReg) (b : BReg) (l : La) (s : State) := monOp 2 x b l s
def execMonPackage (x : VReg) (b : BReg) (l : La) (s : State) := monOp 3 x b l s
def execMonGroup (x : VReg) (b : BReg) (l : La) (s : State) := monOp 4 x b l s
def execMonSystem (x : VReg) (b : BReg) (l : La) (s : State) := monOp 5 x b l s

/-! ## MWAIT -/

/-- The acquire of a WRITTEN wake: of the watch's line, at its scope (R140, R169). -/
def State.watchAcquire (s : State) (w : Warp) (c : Nat) (x : Watch) : State :=
  let s := if w.wide x.scope && isCachedPlace x.line then s.acquireLine c x.line (w.scoped x.scope) else s
  s.fenceAcquire w c x.scope

/-- MWAIT ends with a reason: the watch is disarmed; WRITTEN is an acquire of its line (R169, R318). -/
def State.mwaitEnd (s : State) (d code : Nat) : State :=
  let w := s.cw
  let s := s.setCw { (w.wrS d (BitVec.ofNat 64 code)).advance with watch := none }
  match w.watch with
  | some x => if code = 0 then s.watchAcquire w s.cur.1 x else s
  | none => s

/-- MWAIT (R318): WRITTEN 0, LOST 1, DEADLINE 2, UNARMED 3; else the warp sleeps. -/
def execMwait (d a : SReg) (s : State) : Host.Outcome State Fault Refusal :=
  let w := s.cw
  let t := w.rdS a.val
  if !w.log.isEmpty then .next s
  else
    match w.watch with
    | none => commitS s true (.ok (s.mwaitEnd d.val 3))
    | some x =>
      match x.st with
      | .fired => commitS s true (.ok (s.mwaitEnd d.val 0))
      | .lost => commitS s true (.ok (s.mwaitEnd d.val 1))
      | .armed =>
        if t ≠ 0 ∧ t.toNat ≤ s.tick then commitS s true (.ok (s.mwaitEnd d.val 2))
        else .next (s.sleepNow (.watch d.val t))

/-- MWAIT_DEADLINE: a sleeping MWAIT whose deadline has passed wakes with DEADLINE, or with WRITTEN when the watch
has fired in the same tick (R318). -/
def execMwaitDeadline (c : CoreId) (slot : SlotNo) (s : State) : Host.Outcome State Fault Refusal :=
  let w := s.warp c.val slot.val
  match w.wait with
  | .watch d t =>
    if w.st = .asleep ∧ t ≠ 0 ∧ t.toNat ≤ s.tick then
      let fired : Bool := match w.watch with | some x => x.st == .fired | none => false
      let s := ({ s with cur := (c.val, slot.val) }.setCw { w with st := .active, wait := .none })
      commitS s true (.ok (s.mwaitEnd d (if fired then 0 else 2)))
    else .refused (.notEnabled "MWAIT_DEADLINE")
  | _ => .refused (.notEnabled "MWAIT_DEADLINE")

/-! ## WAITT -/

/-- At tick P every incomplete command of the warp is marked missed and promised anew (R121). -/
def State.markMissed (s : State) (c slot : Nat) (gen : BitVec 21) : State :=
  (s.core c).cmds.foldl (fun s p =>
    if p.2.ready && p.2.slot == slot && p.2.sgen == gen && p.2.expired s.tick then s.markCmd c p.1 p.2 else s) s

/-- The missed commands of the warp whose promise lies at or before a deadline (R121). -/
def State.missedCmds (s : State) (c slot : Nat) (gen : BitVec 21) (d : Nat) : List Cmd :=
  (s.core c).cmds.vals.filter fun x =>
    x.ready && x.slot == slot && x.sgen == gen && x.missed.isSome && decide (x.promise ≤ d)

/-- The current warp's WAITT reaches its deadline: PROMISE_MISSED, or completion, which acquires the writes of
the commands promised by then (R121, R146). -/
def State.waittEnd (s : State) (d : Nat) : Host.Outcome State Fault Refusal :=
  let c := s.cur.1
  let w := s.cw
  let s := s.markMissed c s.cur.2 w.gen
  match s.missedCmds c s.cur.2 w.gen d with
  | x :: xs =>
    let old := xs.foldl (fun a b => if b.id / 16 < a.id / 16 then b else a) x
    let p2 := (x :: xs).foldl (fun m y => max m (y.missed.getD 0)) 0
    commitS s true
      (raiseDet PROMISE_MISSED 0 (BitVec.ofNat 64 old.id) (BitVec.ofNat 64 old.promise) (BitVec.ofNat 64 p2))
  | [] =>
    let t := s.setCw s.cw.advance
    commitS s true (.ok (if w.hist.any fun h => decide (h.promise ≤ d) then t.selfInvalidate c else t))

/-- WAITT sleeps until its deadline (R319). -/
def execWaitt (a : SReg) (s : State) : Host.Outcome State Fault Refusal :=
  let w := s.cw
  let d := w.rdS a.val
  if !w.log.isEmpty then .next s
  else if d.toNat ≤ s.tick then s.waittEnd d.toNat
  else .next (s.sleepNow (.tick d s.curWord))

/-- WAITT_DEADLINE: a sleeping WAITT reaches its deadline (R121). -/
def execWaittDeadline (c : CoreId) (slot : SlotNo) (s : State) : Host.Outcome State Fault Refusal :=
  let w := s.warp c.val slot.val
  match w.wait with
  | .tick d word =>
    if w.st = .asleep ∧ d.toNat ≤ s.tick then
      let s := { s with cur := (c.val, slot.val), curWord := word }.setCw { w with st := .active, wait := .none }
      s.waittEnd d.toNat
    else .refused (.notEnabled "WAITT_DEADLINE")
  | _ => .refused (.notEnabled "WAITT_DEADLINE")

end Sys2Proof.Machine
end

