-- ==== Sys2Proof/WellFormed.lean ====
section
/-! DEFINITION. The checks of R236 that a word's fields alone decide: pairs and quads (SUB 4), values
held in the word (SUB 5), control-register numbers (SUB 6). Checks on the warp's state are the meanings'. -/

namespace Sys2Proof

/-- A register number that names a pair is even (R233). -/
def evn {n : Nat} (r : Fin n) : Bool := r.val % 2 == 0

/-- A register number that names four registers is a multiple of 4 (R233). -/
def quad {n : Nat} (r : Fin n) : Bool := r.val % 4 == 0

/-- A barrier selector of a hardware barrier: level 1 to 3, and 0 to 15 for cluster and grid (R156, R247). -/
def selector (l : Fin 8) (k : Fin 128) : Bool :=
  l.val == 1 || ((l.val == 2 || l.val == 3) && decide (k.val < 16))

/-- The control-register numbers that R249 assigns. -/
def crReadable (n : BitVec 11) : Bool :=
  decide (n.toNat ∈ [0x000, 0x001, 0x002, 0x003, 0x004, 0x005, 0x006, 0x007, 0x008, 0x009, 0x00A, 0x00B,
    0x00C, 0x010, 0x011, 0x012, 0x020, 0x021, 0x022, 0x030, 0x040, 0x041, 0x042, 0x043, 0x044])

/-- The control registers whose CWR R249 permits. -/
def crWritable (n : BitVec 11) : Bool :=
  decide (n.toNat ∈ [0x000, 0x001, 0x012, 0x020, 0x021, 0x022])

/-- A well-formed instruction: no check of R236 on the word's own fields fails. -/
def Instr.wf : Instr → Bool
  | .sadd _ _ _ => true
  | .ssub _ _ _ => true
  | .smul _ _ _ => true
  | .smulh _ _ _ => true
  | .sand _ _ _ => true
  | .sor _ _ _ => true
  | .sxor _ _ _ => true
  | .sshl _ _ _ => true
  | .sshr _ _ _ => true
  | .ssra _ _ _ => true
  | .smin _ _ _ => true
  | .smax _ _ _ => true
  | .sminu _ _ _ => true
  | .smaxu _ _ _ => true
  | .smov _ _ => true
  | .snot _ _ => true
  | .sclz _ _ => true
  | .spopc _ _ => true
  | .sdiv _ _ _ => true
  | .srem _ _ _ => true
  | .sdivu _ _ _ => true
  | .sremu _ _ _ => true
  | .ssel _ _ _ => true
  | .scmpEq _ _ _ => true
  | .scmpNe _ _ _ => true
  | .scmpLt _ _ _ => true
  | .scmpLe _ _ _ => true
  | .scmpGt _ _ _ => true
  | .scmpGe _ _ _ => true
  | .scmpLtu _ _ _ => true
  | .scmpLeu _ _ _ => true
  | .scmpGtu _ _ _ => true
  | .scmpGeu _ _ _ => true
  | .mode _ _ => true
  | .modex _ _ _ => true
  | .exrd d => evn d
  | .exwr a => evn a
  | .pand _ _ _ => true
  | .por _ _ _ => true
  | .pxor _ _ _ => true
  | .pnot _ _ => true
  | .pmov _ _ => true
  | .ptos _ _ => true
  | .stop _ _ => true
  | .ldl _ _ => true
  | .ldlq _ _ => true
  | .ldlv _ _ => true
  | .crd _ n => crReadable n
  | .cwr _ n => crWritable n
  | .vadd _ _ _ => true
  | .vsub _ _ _ => true
  | .vmul _ _ _ => true
  | .vmulh _ _ _ => true
  | .vand _ _ _ => true
  | .vor _ _ _ => true
  | .vxor _ _ _ => true
  | .vshl _ _ _ => true
  | .vshr _ _ _ => true
  | .vsra _ _ _ => true
  | .vmin _ _ _ => true
  | .vmax _ _ _ => true
  | .vabs _ _ => true
  | .vneg _ _ => true
  | .vnot _ _ => true
  | .vmov _ _ => true
  | .vmad _ _ _ => true
  | .vmsb _ _ _ => true
  | .vclz _ _ => true
  | .vpopc _ _ => true
  | .vbrev _ _ => true
  | .vbfx _ _ _ => true
  | .vbfi _ _ _ => true
  | .vsel _ _ _ => true
  | .vcmpEq _ _ _ => true
  | .vcmpNe _ _ _ => true
  | .vcmpLt _ _ _ => true
  | .vcmpLe _ _ _ => true
  | .vcmpGt _ _ _ => true
  | .vcmpGe _ _ _ => true
  | .vcmpLtu _ _ _ => true
  | .vcmpLeu _ _ _ => true
  | .vcmpGtu _ _ _ => true
  | .vcmpGeu _ _ _ => true
  | .vcmpUnord _ _ _ => true
  | .vcmpOrd _ _ _ => true
  | .fadd _ _ _ => true
  | .fsub _ _ _ => true
  | .fmul _ _ _ => true
  | .fmin _ _ _ => true
  | .fmax _ _ _ => true
  | .fabs _ _ => true
  | .fneg _ _ => true
  | .fclass _ _ => true
  | .fscale _ _ _ => true
  | .frnd _ _ => true
  | .fcsgn _ _ _ => true
  | .ffma _ _ _ => true
  | .ffms _ _ _ => true
  | .fnma _ _ _ => true
  | .fcvt _ _ => true
  | .fcvts _ _ _ => true
  | .vpack _ _ _ => true
  | .vunpk _ _ k => decide (k.val ≤ 3)
  | .frcpa _ _ => true
  | .frsqa _ _ => true
  | .fexp2 _ _ => true
  | .flog2 _ _ => true
  | .fsin _ _ => true
  | .fcos _ _ => true
  | .ftanh _ _ => true
  | .fdiv _ _ _ => true
  | .fsqrt _ _ => true
  | .frsq _ _ => true
  | .fdsqResult _ _ => true
  | .vshuf _ _ _ => true
  | .vbcast _ _ _ => true
  | .vredadd _ _ => true
  | .vredmin _ _ => true
  | .vredmax _ _ => true
  | .vscan _ _ => true
  | .vballot _ _ => true
  | .vcompact _ _ _ => true
  | .vlane _ _ => true
  | .movsv _ _ => true
  | .movvs _ _ _ => true
  | .bra _ => true
  | .bdiv _ => true
  | .rcv _ => true
  | .bsr _ => true
  | .pool i => decide (0 < i.toInt)
  | .jmp _ _ => true
  | .rets _ => true
  | .sels _ => true
  | .exit => true
  | .nop => true
  | .trap _ => true
  | .tres _ => true
  | .trec d _ b => evn d && evn b
  | .tick _ => true
  | .tai d => evn d
  | .waitt _ => true
  | .waittDeadline _ _ => true
  | .ldU8 _ _ _ _ => true
  | .ldI8 _ _ _ _ => true
  | .ldU16 _ _ _ _ => true
  | .ldI16 _ _ _ _ => true
  | .ld32 _ _ _ _ => true
  | .ld64 d _ _ _ => evn d
  | .ld128 d _ _ _ => quad d
  | .st8 _ _ _ _ => true
  | .st16 _ _ _ _ => true
  | .st32 _ _ _ _ => true
  | .st64 d _ _ _ => evn d
  | .st128 d _ _ _ => quad d
  | .ldaTeam _ _ _ _ => true
  | .ldaCluster _ _ _ _ => true
  | .ldaDie _ _ _ _ => true
  | .ldaPackage _ _ _ _ => true
  | .ldaGroup _ _ _ _ => true
  | .ldaSystem _ _ _ _ => true
  | .stlTeam _ _ _ _ => true
  | .stlCluster _ _ _ _ => true
  | .stlDie _ _ _ _ => true
  | .stlPackage _ _ _ _ => true
  | .stlGroup _ _ _ _ => true
  | .stlSystem _ _ _ _ => true
  | .ldfe d _ _ => evn d
  | .ldff d _ _ => evn d
  | .stfe d _ _ => evn d
  | .stff d _ _ => evn d
  | .tagrd _ _ _ _ => true
  | .tagwr _ _ _ _ => true
  | .ldc _ _ _ => true
  | .stp _ _ _ => true
  | .lnrd _ _ _ _ => true
  | .lnwr _ _ _ _ => true
  | .pref _ _ _ => true
  | .cwb _ _ _ => true
  | .cinv _ _ _ => true
  | .iinv _ _ _ => true
  | .ldb _ _ _ => true
  | .mkb _ x _ _ => quad x
  | .brd d _ _ => quad d
  | .vqntSb3 _ _ _ _ => true
  | .vqntSb5 _ _ _ _ => true
  | .vqntSb8 _ _ _ _ => true
  | .vqntE4m3 _ _ _ _ => true
  | .vqntE5m2 _ _ _ _ => true
  | .vdqSb3 _ _ _ _ => true
  | .vdqSb5 _ _ _ _ => true
  | .vdqSb8 _ _ _ _ => true
  | .vdqE4m3 _ _ _ _ => true
  | .vdqE5m2 _ _ _ _ => true
  | .fence k s => decide (k.val ≠ 3) && decide (s.val ≠ 6)
  | .fbar => true
  | .atomAdd _ _ _ _ => true
  | .atomMin _ _ _ _ => true
  | .atomMax _ _ _ _ => true
  | .atomAnd _ _ _ _ => true
  | .atomOr _ _ _ _ => true
  | .atomXor _ _ _ _ => true
  | .atomXchg _ _ _ _ => true
  | .atomFadd _ _ _ _ => true
  | .atomaAdd _ _ _ _ => true
  | .atomaMin _ _ _ _ => true
  | .atomaMax _ _ _ _ => true
  | .atomaAnd _ _ _ _ => true
  | .atomaOr _ _ _ _ => true
  | .atomaXor _ _ _ _ => true
  | .atomaXchg _ _ _ _ => true
  | .atomaFadd _ _ _ _ => true
  | .atomlAdd _ _ _ _ => true
  | .atomlMin _ _ _ _ => true
  | .atomlMax _ _ _ _ => true
  | .atomlAnd _ _ _ _ => true
  | .atomlOr _ _ _ _ => true
  | .atomlXor _ _ _ _ => true
  | .atomlXchg _ _ _ _ => true
  | .atomlFadd _ _ _ _ => true
  | .acas d _ _ _ => evn d
  | .aredAdd _ _ _ _ => true
  | .aredMin _ _ _ _ => true
  | .aredMax _ _ _ _ => true
  | .aredAnd _ _ _ _ => true
  | .aredOr _ _ _ _ => true
  | .aredXor _ _ _ _ => true
  | .aredXchg _ _ _ _ => true
  | .aredFadd _ _ _ _ => true
  | .bar l k => selector l k
  | .bara l k => selector l k
  | .barw l k => selector l k
  | .barx _ l k => selector l k && decide (l.val ≤ 2)
  | .barinit _ l k => selector l k && decide (l.val ≤ 2)
  | .baralloc _ _ => true
  | .barfree _ _ => true
  | .barmAw _ => true
  | .barmArrive _ => true
  | .barmWait _ => true
  | .barmBytes a => evn a
  | .barmInit a => evn a
  | .wsync _ => true
  | .monTeam _ _ _ => true
  | .monCluster _ _ _ => true
  | .monDie _ _ _ => true
  | .monPackage _ _ _ => true
  | .monGroup _ _ _ => true
  | .monSystem _ _ _ => true
  | .mwait _ _ => true
  | .mwaitDeadline _ _ => true
  | .spawn _ _ _ _ => true
  | .join d _ _ => evn d
  | .ftest _ _ _ _ => true
  | .ffill _ _ c _ => quad c
  | .tret _ => true
  | .center _ _ b => evn b
  | .calu _ _ _ _ => true
  | .cmovCs _ _ => true
  | .cmovSc _ _ => true
  | .cmovCc _ _ => true
  | .cmovCi _ _ _ => true
  | .cld _ _ _ => true
  | .cst _ _ _ => true
  | .cbr i => decide (0 < i.toInt) && decide (i.toInt ≤ 1023)
  | .cstep => true
  | .cend => true
  | .cabort => true
  | .capsuleAcquire _ _ _ _ => true
  | .capsuleProbe _ _ => true
  | .capsuleProbeReply _ _ => true
  | .capsuleAdopt _ _ => true
  | .capsuleAdoptionComplete _ _ => true
  | .capsuleCommit _ _ => true
  | .capsuleEnd _ _ => true
  | .capsuleAbortRequest _ _ => true
  | .capsuleDepartureNotice _ => true
  | .capsuleKillNotice _ _ _ => true
  | .capsuleRebind _ _ => true
  | .shcopy d _ _ _ => evn d
  | .shgath d _ _ _ => evn d
  | .shscat d _ _ _ => evn d
  | .shmcast d _ _ _ => evn d
  | .shcan _ _ _ => true
  | .shqry d _ _ => evn d
  | .shput d _ _ _ => evn d
  | .shget d _ _ _ => evn d
  | .mma _ _ p _ _ => evn p
  | .mmaPass _ => true
  | .mmaComplete _ => true
  | .nmv d _ _ _ => evn d
  | .engineChunk _ _ => true
  | .remoteChunk _ => true
  | .promiseExpiry _ _ => true
  | .longLatencyComplete _ _ => true
  | .warpPromotion _ _ => true
  | .clockBalance _ => true
  | .clusterClockChange _ => true
  | .distributorStartTeam _ _ => true
  | .teamRequest _ _ => true
  | .readinessMonitorRead _ _ => true
  | .taskAdmission _ _ => true
  | .snapshotDrain _ _ => true
  | .stagingAllocate _ _ => true
  | .stagingChunk _ _ => true
  | .stagingCancelComplete _ => true
  | .writebackChunk _ _ => true
  | .bobbinRefill _ => true
  | .taskDispatch _ => true
  | .stealProbe _ => true
  | .stealRequest _ => true
  | .stealReply _ => true
  | .stealSweepWaitExpiry _ => true
  | .jobEnd _ => true
  | .jobEndRecord _ => true
  | .l1Eviction _ _ => true
  | .l2Eviction _ _ => true
  | .writebackAck _ _ => true
  | .heddleSnoop _ _ => true
  | .directoryRequest _ _ _ => true
  | .recallComplete _ => true
  | .recallTimeout _ => true
  | .overflowSweep => true
  | .heddleDieLoss _ => true
  | .requestResend _ => true
  | .directoryRebuildComplete => true
  | .scaskaxonPortDown _ => true
  | .memberUnreachable _ => true
  | .scrubPass _ _ => true
  | .pageWalk _ _ _ _ _ => true
  | .faultRecordSend _ _ => true
  | .faultReplyResolved _ _ => true
  | .faultReplyUnresolvable _ _ => true
  | .originAgeExpiry _ => true
  | .watchdogExpiry _ => true
  | .preemptionComplete _ => true
  | .restorePlace _ _ => true
  | .restoreResume _ _ => true
  | .queueEnable _ _ _ => true
  | .queueDisable _ _ => true
  | .feQwidxWrite _ _ _ => true
  | .feQridxWrite _ _ _ => true
  | .jobPreempt _ _ => true
  | .jobPreemptDie _ _ _ => true
  | .jobKill _ _ => true
  | .launch _ _ => true
  | .resume _ _ => true
  | .waitw _ _ => true
  | .waitwTimeout _ _ => true
  | .signal _ _ => true
  | .copy _ _ => true
  | .copyComplete _ _ => true
  | .timed _ _ => true
  | .timedPrepare _ _ => true
  | .timedRelease _ _ => true
  | .timedFirstIssue _ _ => true
  | .fencePacket _ _ => true
  | .mark _ _ => true
  | .lookaheadParse _ _ => true
  | .queueSlotAdmit _ _ => true
  | .taiSet _ => true
  | .ptmRequest => true
  | .ptmSample _ => true
  | .ppsEdge => true
  | .taiSampleTimeout => true
  | .tlbInvalidate _ _ => true
  | .invalidationComplete _ => true
  | .pageTagInit _ _ => true
  | .pageTagInitComplete _ => true
  | .partitionEnable _ => true
  | .partitionDisable _ => true
  | .partitionReset _ => true
  | .partitionResetComplete _ => true
  | .bucketRefill _ => true
  | .hdGroupWrite _ _ => true
  | .bar2Read _ _ _ => true
  | .bar2Write _ _ _ => true
  | .functionLevelReset _ => true
  | .pcieLinkDown => true
  | .pcieLinkUp => true
  | .hostCompletion _ => true
  | .bundleUpdate => true
  | .updateComplete => true
  | .measure => true
  | .measurementReport => true
  | .commitSvn _ => true
  | .packageReset _ => true
  | .recoveryBundle => true
  | .powerOn => true
  | .coldReset => true
  | .bootVerify => true
  | .bootLoad _ => true
  | .bootClear => true
  | .bootReady => true
  | .i3cStatus => true
  | .i3cImageBlock _ bytes => decide (bytes.length = 4096)
  | .i3cImageEnd _ => true
  | .i3cMeasure nonce => decide (nonce.length = 32)
  | .i3cPackageReset _ => true
  | .eolRecompute _ => true
  | .powerSample _ _ _ => true
  | .throttleStep => true
  | .inputUndervoltage => true
  | .inputOutOfRange => true
  | .thermalThrottle _ => true
  | .thermalShutdown => true
  | .feHeartbeat => true
  | .heartbeatTimeout => true
  | .autoReset => true
  | .registerWrite _ _ _ => true
  | .scaskaxonPortUp _ => true
  | .linkLevelReplay _ _ => true
  | .inputVoltageHeld => true
  | .timedPreparationComplete _ _ => true

end Sys2Proof
end

