-- ==== Sys2Proof/Machine/Control.lean ====
section
/-! DEFINITION. Control registers: CRD and CWR (R249, R266, R267, R29 to R34, R95, R190, R194, R197, R210 to R213,
R285, R286, R348 to R352). -/

namespace Sys2Proof.Machine

/-! ## Values -/

/-- cr.warp (R31). A handler warp's slots stand beside the 64 warp slots and have no number (R214): SLOT reads 0 or 1 there,
and TWARP and TWN read 0 (log 102). -/
def crWarp (w : Warp) (slot : Nat) : Nat :=
  let wid := if w.id.width = 16 then 0 else if w.id.width = 32 then 1 else 2
  slot % 64 + 2 ^ 6 * wid + 2 ^ 8 * w.id.twarp + (if w.id.task then 2 ^ 15 else 0) + 2 ^ 16 * w.gen.toNat +
  2 ^ 37 * w.id.twn + (if w.id.pair then 2 ^ 44 else 0)

/-- cr.core (R33). -/
def State.crCore (s : State) (w : Warp) (c : Nat) : Nat := c + 2 ^ 9 * s.pkg + 2 ^ 21 * w.id.part

/-- cr.role (R34). -/
def crRole (w : Warp) : Nat :=
  (if w.id.handler then 0 else w.id.role.toNat) + 4 * (if w.id.handler then 0 else w.id.allot.toNat) +
  16 * (if w.id.handler then 3 else w.id.prio.toNat) + (if w.ctl.promo || decide (256 ≤ w.ctl.wait) then 64 else 0) +
  (if w.id.handler then 128 else 0)

/-- cr.closure (R95). -/
def crClosure (w : Warp) : Nat :=
  match w.task with
  | none => 0
  | some t =>
    natOf (t.e.line.take 8) % 2 ^ 41 + 2 ^ 41 * t.home + (if t.e.nsteal != 0 then 2 ^ 50 else 0) +
    (if t.e.xdie then 2 ^ 51 else 0) + 2 ^ 52 * t.e.nsteal.toNat

/-- Shuttle entries that staging holds, those of cancelled staging included (R349). -/
def Core.stagingCount (x : Core) : Nat :=
  (x.bob.filter fun t => t.entry.isSome).length + (x.dying.filter fun t => t.1.isSome).length

/-- The warp's commands that have not ended. -/
def State.mine (s : State) (c slot : Nat) (w : Warp) : List Cmd :=
  (s.core c).cmds.vals.filter fun x => x.slot == slot && x.sgen == w.gen

/-- cr.shocc (R349). -/
def State.crShocc (s : State) (w : Warp) (c slot : Nat) : Nat :=
  let stg := (s.core c).stagingCount
  ((s.core c).cmds.length + stg) + 2 ^ 5 * stg + 2 ^ 9 * (s.mine c slot w).length

/-- cr.mxstat (R350). -/
def State.crMxstat (s : State) (w : Warp) (c slot : Nat) : Nat :=
  let t := s.mmaTable (clusterOf c)
  (t.filter fun e => e.core == c && e.slot == slot && e.sgen == w.gen).length + 2 ^ 5 * t.length +
  (if w.mxrpl then 2 ^ 10 else 0)

/-- cr.capst (R351). -/
def crCapst (w : Warp) : Nat :=
  (if w.adopted then 2 else 0) +
  match w.cap with
  | none => 0
  | some x => 1 + (if x.cf then 4 else 0) + (if x.store.isSome then 8 else 0) + 2 ^ 4 * x.step + 2 ^ 11 * x.count

/-- cr.nmvstat (R352). -/
def State.crNmvstat (s : State) (w : Warp) (c slot : Nat) : Nat :=
  ((s.mine c slot w).filter fun x => x.kind.val == 6).length + 2 ^ 8 * w.nmvStack.toNat

/-- The lanes of a handler warp that carry an origin. -/
def Warp.originMask (w : Warp) : W64 := maskOf (w.origins.keys)

/-- cr.trapcause of a trap (R212). -/
def trapCauseWord (cause sub : Byte) (defer : Bool) : W64 :=
  BitVec.ofNat 64 (cause.toNat + 2 ^ 8 * sub.toNat + if defer then 2 ^ 16 else 0)

/-- The value of a per-warp control register. -/
def State.crValue (s : State) (w : Warp) (c slot n : Nat) : W64 :=
  match n with
  | 0x000 => w.ctl.exec
  | 0x001 => w.ctl.wmode
  | 0x003 => BitVec.ofNat 64 (crWarp w slot)
  | 0x004 => w.id.team
  | 0x005 => w.id.grid
  | 0x006 => BitVec.ofNat 64 (s.crCore w c)
  | 0x007 => BitVec.ofNat 64 (crRole w)
  | 0x008 => BitVec.ofNat 64 (crClosure w)
  | 0x009 => if w.id.handler then w.originMask else w.trap.mask
  | 0x00A => BitVec.ofNat 64 (w.trap.pc.toNat % 2 ^ 57)
  | 0x00B => trapCauseWord w.trap.cause w.trap.sub w.trap.defer
  | 0x010 => BitVec.ofNat 64 s.tick
  | 0x011 => BitVec.ofNat 64 (s.tai / 2 ^ 16)
  | 0x012 => w.stat.rseed.zeroExtend 64
  | 0x020 => w.stat.fstat.zeroExtend 64
  | 0x021 => w.stat.mstat
  | 0x022 => w.stat.qstat.zeroExtend 64
  | 0x030 => BitVec.ofNat 64 (bits (s.job w.id.job).r.locthr 0 56)
  | 0x040 => w.shstat
  | 0x041 => BitVec.ofNat 64 (s.crShocc w c slot)
  | 0x042 => BitVec.ofNat 64 (s.crMxstat w c slot)
  | 0x043 => BitVec.ofNat 64 (crCapst w)
  | 0x044 => BitVec.ofNat 64 (s.crNmvstat w c slot)
  | _ => 0

/-- The trap record of the origin that a handler lane carries. -/
def State.originRec (s : State) (c : Nat) (w : Warp) (l : Nat) : TrapRec :=
  match w.origins.look l with
  | none => {}
  | some o => (s.warp c o.slot).trap.recs.getD o.lane {}

/-- The value of a per-lane control register (R30, R211 to R213). -/
def State.crLane (s : State) (w : Warp) (c n l : Nat) : W64 :=
  match n with
  | 0x002 => BitVec.ofNat 64 l
  | 0x00A => BitVec.ofNat 64 ((s.originRec c w l).pc.toNat % 2 ^ 57)
  | 0x00B => let r := s.originRec c w l; trapCauseWord r.cause r.sub r.defer
  | 0x00C =>
    match w.origins.look l with
    | none => 0
    | some o => BitVec.ofNat 64 (o.lane + 2 ^ 6 * o.slot + 2 ^ 12 * o.sgen.toNat + 2 ^ 33)
  | _ => 0

/-- Is the register per lane for the warp (R249)? -/
def perLane (w : Warp) (n : Nat) : Bool := n == 2 || n == 0x00C || (w.id.handler && (n == 0x00A || n == 0x00B))

/-! ## Waiting (R267) -/

def logsVqnt (e : LogEntry) : Bool := match e.op with | .vqnt _ _ _ _ => true | _ => false
def logsCommand (nmv : Bool) (e : LogEntry) : Bool :=
  match e.op with
  | .command k _ _ _ => (k.val == 6) == nmv
  | _ => false
def logsMma (e : LogEntry) : Bool := match e.op with | .mma _ _ _ _ => true | _ => false

/-- Must a CRD or CWR of this register by the current warp wait for earlier instructions (R267, R352)? An engine command can
set cr.mstat until its transfer ends. -/
def State.crWaits (s : State) (n : Nat) : Bool :=
  let w := s.cw
  match n with
  | 0x020 => !w.fdsq.isEmpty || w.log.any logsVqnt
  | 0x022 => w.log.any logsVqnt
  | 0x021 =>
    (w.log.any fun e => logsCommand true e || logsCommand false e || logsMma e) ||
      !(s.mine s.cur.1 s.cur.2 w).isEmpty
  | 0x040 => w.log.any (logsCommand false)
  | 0x044 => w.log.any (logsCommand true)
  | _ => false

/-! ## CRD and CWR (R266) -/

/-- CRD: a per-warp register into a scalar, a per-lane register into an even vector pair. The kind of d under an unassigned number is
not defined, and such a number is SUB 6 whatever d is (DEDUCED: log 125). -/
def execCrd (d : Fin 128) (n : BitVec 11) (s : State) : Host.Outcome State Fault Refusal :=
  let w := s.cw
  let c := s.cur.1
  let r := n.toNat
  if !crReadable n then .next (s.stopNow true (.trap { cause := ILLEGAL, sub := 6 }))
  else if s.crWaits r then .next s
  else if perLane w r then
    commitW s false do
      w.has [d.val, d.val + 1]
      aligned 2 [d.val]
      .ok (w.lanes.foldl (fun w l => w.set d.val l 3 (s.crLane w c r l).toNat) w).advance
  else
    commitW s true do
      need (decide (d.val < 64)) ILLEGAL 2
      .ok (w.wrS d.val (s.crValue w c s.cur.2 r)).advance

/-- CWR of one register (R10, R266). -/
def Warp.crWrite (w : Warp) (n : Nat) (x : W64) : Res Warp :=
  match n with
  | 0x000 => .ok { w with ctl := { w.ctl with exec := x &&& w.ctl.path } }
  | 0x001 => do
    need (wmodeOk x) ILLEGAL 2
    .ok (w.setMode x)
  | 0x012 => .ok (w.reseed (x.truncate 32))
  | 0x020 => .ok { w with stat := { w.stat with fstat := w.stat.fstat &&& ~~~ (x.truncate 5) } }
  | 0x021 =>
    let m := BitVec.ofNat 64 (bits (w.stat.mstat &&& ~~~ x) 0 4 + 256 * bits x 8 8)
    .ok { w with stat := { w.stat with mstat := m } }
  | 0x022 => .ok { w with stat := { w.stat with qstat := w.stat.qstat &&& ~~~ (x.truncate 4) } }
  | _ => raise ILLEGAL 6

def execCwr (a : SReg) (n : BitVec 11) (s : State) : Host.Outcome State Fault Refusal :=
  let w := s.cw
  if s.crWaits n.toNat then .next s
  else
    commitW s true do
      let w' ← w.crWrite n.toNat (w.rdS a.val)
      .ok w'.advance

end Sys2Proof.Machine
end

