-- ==== Sys2Proof/Machine/Fetch.lean ====
section
/-! DEFINITION. The instruction-fetch path (R220, R243, R302 to R304), the literal loads LDL, LDLQ and LDLV (R265), and
SELS (R43, R279). -/

namespace Sys2Proof.Machine

/-- The instruction cache holds 64 KiB in lines of 128 bytes (R2). -/
def icacheLines : Nat := 512

/-- A code line comes from the slice of the core's die, which obtains it; a full cache gives up a line, which one the spec
leaves open (log 98). -/
def State.fillCode (s : State) (c line : Nat) : State :=
  let s := ((s.charge c 128).obtain (dieOf c) line false).l2Keep (s.corePart c) line
  let ic := (s.core c).l1.icache
  let (i, s) := if ic.length < icacheLines then (ic.length, s) else s.takeOne ic.length
  let ic : FMap (List Byte) := ic.zipIdx.filterMap fun p => if p.2 = i then none else some p.1
  let x := s.core c
  s.setCore c { x with l1 := { x.l1 with icache := ic.ins line (s.l2Line line) } }

/-- The old words of a line that the warp's fetch buffer may still hold (R304). -/
def Warp.oldWords (w : Warp) (line off n : Nat) : List Nat :=
  (w.fbuf.filter fun p => p.1 == line).map fun p => natOf ((p.2.1.drop off).take n)

/-- The new word, or one of some old ones: each choice is free (R304). -/
def State.pickWord (s : State) (new : Nat) : List Nat → Nat × State
  | [] => (new, s)
  | v :: vs =>
    if v = new then s.pickWord new vs
    else
      let (pick, s) := s.takeBit
      if pick then (v, s) else s.pickWord new vs

/-- Reads n bytes of code at an address through the fetch path of the current warp's core: the instruction cache, filled from the
slice of the core's die. Until an IINV drops it, a line whose code another agent has written since may give either content, word
by word (R381); within 16 words of an IINV, the old content may still be read (R304). -/
def State.fetchBytes (s : State) (va n : Nat) : Res (Nat × State) :=
  let w := s.cw
  let c := s.cur.1
  match s.translate c w.id.part false .fetch va with
  | .fault perm => .error (.fault [pageOf va .fetch perm])
  | .ok place _ _ =>
    let line := lineOf place
    let x := s.core c
    if (!x.l1.icache.has line) && s.poisoned place n then .error (.poison place)
    else
      let now := if x.l1.icache.has line && !s.poisoned place n then [natOf (((s.l2Line line).drop (place - line)).take n)] else []
      let s := if x.l1.icache.has line then s else s.fillCode c line
      let new := natOf (((s.codeLine c line).drop (place - line)).take n)
      .ok (s.pickWord new (now ++ w.oldWords line (place - line) n))

/-- The current warp issues nothing until some pages of its fetch are resolved (R220). -/
def State.fetchFault (s : State) (ps : List PageReq) : State :=
  let w := s.cw
  let (ps, fs) := fileAll w.id.part (unitOfCore s.cur.1) (coreBit s.cur.1) s.tick ps s.faults
  { s with faults := fs }.setCw { w with fetch := ps }

/-- A literal load: an address, its width, and what it writes. -/
def literal (uniform : Bool) (disp : BitVec 18) (n : Nat) (checks : Warp → Res Unit) (put : Warp → Nat → Warp)
    (s : State) : Host.Outcome State Fault Refusal :=
  let w := s.cw
  let q := w.ctl.pc + dispL disp
  let go : Res (Nat × State) := do
    checks w
    needDet (q.toNat % n == 0) ALIGNMENT 0 q 0 0
    s.fetchBytes q.toNat n
  match go with
  | .ok (v, t) => commitS s uniform (.ok (t.setCw (put t.cw v).advance))
  | .error (.fault ps) => .next (s.fetchFault ps)
  | .error e => .next (s.stopNow uniform e)

def execLdl (d : SReg) (i : BitVec 18) (s : State) : Host.Outcome State Fault Refusal :=
  literal true i 4 (fun _ => .ok ()) (fun w v => w.wrS d.val ((BitVec.ofNat 32 v).signExtend 64)) s

def execLdlq (d : SReg) (i : BitVec 18) (s : State) : Host.Outcome State Fault Refusal :=
  literal true i 8 (fun _ => .ok ()) (fun w v => w.wrS d.val (BitVec.ofNat 64 v)) s

def execLdlv (d : VReg) (i : BitVec 18) (s : State) : Host.Outcome State Fault Refusal :=
  literal false i 4 (fun w => w.has [d.val])
    (fun w v => w.lanes.foldl (fun w l => w.wrV d.val l (BitVec.ofNat 32 v)) w) s

/-- The class that SELS chooses: the smallest maximum that is at least the size, the lowest-numbered among
equals (R43). -/
def chooseClass (size : Nat) (cs : List (Nat × Nat)) : Option (Nat × Nat) :=
  cs.foldl (fun best c =>
    if c.1 < size then best
    else
      match best with
      | none => some c
      | some b => if c.1 < b.1 then some c else best) none

/-- SELS branches to the entry of the class for the size in s[a] (R43). -/
def execSels (a : SReg) (s : State) : Host.Outcome State Fault Refusal :=
  let w := s.cw
  let jb := s.job w.id.job
  commitW s true
    (match chooseClass (w.rdS a.val).toNat jb.sched with
    | some c => .ok (w.setPc (BitVec.ofNat 64 (jb.r.code + c.2)))
    | none => raise SCHEDULE_RANGE 0)

end Sys2Proof.Machine
end

