-- ==== Sys2Proof/Machine/Future.lean ====
section
/-! DEFINITION. Futures: fills and fault records (R86 to R93), JOIN, FTEST and FFILL (R322 to R324). -/

namespace Sys2Proof.Machine

/-! Status codes of a future (R88). -/

def FS_STAGE_XLATE : Nat := 1
def FS_STAGE_REVOKED : Nat := 2
def FS_STAGE_BOUNDS : Nat := 3
def FS_STAGE_DESC : Nat := 4
def FS_STAGE_SIZE : Nat := 5
def FS_READY_UNTAGGED : Nat := 6
def FS_WB_FAULT : Nat := 7
def FS_KILLED : Nat := 8
def FS_FILL_FAULT : Nat := 9

/-! ## Fault records (R91, R92) -/

/-- The bytes of a core's part of the spill region (R74, R394). -/
def spillPart (jr : JobRec) : Nat := (4096 + 136 * jr.spill + 4095) / 4096 * 4096

/-- The address of a core's part of the spill region. -/
def spillAddr (jr : JobRec) (c : Nat) : Nat := jr.spillBase + spillPart jr * c

/-- What a fault record holds beside the entry word and the future's address. -/
structure FaultInfo where
  status : Nat
  op : Nat := 255
  rdy : Nat := 255
  chunks : Nat := 0
  va : Nat := 0
  handle : Nat := 0
  /-- tick of the fault, when it lies before the record's writing -/
  tick : Option Nat := none

/-- Writes bytes at a global address as a device write, when the page translates. -/
def State.deviceWrite (s : State) (c part va : Nat) (bs : List Byte) : State :=
  (cuts 128 40 va bs.length).foldl (fun (acc : State × List Byte) q =>
    let s := acc.1
    let s :=
      match s.translate c part false .engineWrite q.1 with
      | .ok place _ _ => (s.obtainHome (lineOf place)).write place (acc.2.take q.2)
      | .fault _ => s
    (s, acc.2.drop q.2)) (s, bs) |>.1

/-- Writes the next fault record of a core in a fault-record area, and answers its address (R91, R92). -/
def State.faultRecordAt (s : State) (c part area : Nat) (word fut : W64) (f : FaultInfo) : W64 × State :=
  let cr := s.core c
  let a := area + 64 * (cr.faultIdx % 64)
  let rec_ := bytesOf 8 word.toNat ++ bytesOf 8 fut.toNat ++ bytesOf 2 f.status ++ bytesOf 1 f.op ++ bytesOf 1 f.rdy ++
    bytesOf 4 f.chunks ++ bytesOf 8 f.va ++ bytesOf 4 f.handle ++ bytesOf 4 0 ++ bytesOf 8 (f.tick.getD s.tick) ++ bytesOf 2 c ++
    bytesOf 14 0
  (BitVec.ofNat 64 a, (s.setCore c { cr with faultIdx := cr.faultIdx + 1 }).deviceWrite c part a rec_)

/-- Writes the next fault record of a core in its own area. -/
def State.faultRecord (s : State) (c job : Nat) (word fut : W64) (f : FaultInfo) : W64 × State :=
  s.faultRecordAt c (s.job job).part (spillAddr (s.job job).r c) word fut f

/-! ## Fills (R87, R90) -/

/-- The outcome of a device fill. -/
inductive FillOut where
  | done (s : State)
  | lost (s : State)
  | wait (q : PageReq)

/-- Fills a future or a save area whose cell is at hand: nothing when its status tag is full already (R87). -/
def State.fillAt (s : State) (c place : Nat) (val : W64) (status : Nat) : State :=
  let s := s.obtainHome (lineOf place)
  if s.tag (place + 8) then s.countEvent c evFillFull 1
  else
    (((s.write place (bytesOf 8 val.toNat)).setTag place true).write (place + 8) (bytesOf 8 status)).setTag
      (place + 8) true

/-- Tries a fill: a release at SYSTEM scope of the filling core's writes (R87, R90). -/
def State.tryFill (s : State) (part c : Nat) (cell val : W64) (status : Nat) : FillOut :=
  match s.wordAt c part .tagWrite cell.toNat with
  | .untagged => .lost s
  | .fault q => if q.perm then .lost s else .wait { q with kind := .write }
  | .at place => .done ((s.drain c).fillAt c place val status)

/-- A fill that wrote nothing: a FILL_FAULT record for a future, and the count (R90, R178). -/
def State.fillLost (s : State) (c part area : Nat) (cell : W64) (word : Option W64) : State :=
  let s := s.countEvent c evFillLost 1
  match word with
  | none => s
  | some wd => (s.faultRecordAt c part area wd cell { status := FS_FILL_FAULT, va := cell.toNat }).2

/-- Range entries of a task leave the table; number 0 is of none. -/
def State.dropRanges (s : State) (job adm : Nat) : State :=
  if adm = 0 then s
  else { s with ranges := s.ranges.filter fun r => !(r.job == job && r.adm == adm) }

/-- A core releases a task's range entries: a release at PACKAGE scope of the core's writes (R68, R152). -/
def State.releaseAdm (s : State) (c job adm : Nat) : State :=
  if adm = 0 then s else (s.drain c).dropRanges job adm

/-- A device fill, after which a task's range entries are released: done, lost, or left waiting for its page. -/
def State.deviceFill (s : State) (part job c : Nat) (cell val : W64) (status : Nat) (word : Option W64)
    (adm : Nat) : State :=
  match s.tryFill part c cell val status with
  | .done t => (t.pulse job).releaseAdm c job adm
  | .lost t => (t.fillLost c part (spillAddr (s.job job).r c) cell word).releaseAdm c job adm
  | .wait q =>
    let (ps, fs) := fileAll part (unitOfCore c) (coreBit c) s.tick [q] s.faults
    { s with
      faults := fs
      fills := s.fills ++ [{ part := part, job := job, core := c, cell := cell, val := val, status := status
                             word := word, adm := adm, pages := ps, area := spillAddr (s.job job).r c }] }

/-! ## JOIN, FTEST, FFILL -/

/-- The cell that JOIN, FTEST and FFILL name, checked: uaddr(), global space, tagged page (R322 to R324). -/
def State.futureCell (s : State) (x : Ctx) (a c : Nat) (wr : Bool) : Res Nat := do
  let q ← s.uaddr x a c 16 16 wr
  let d := BitVec.ofNat 64 q
  needDet (recSpace (x.bufRec a) == SP_GLOBAL) ACCESS 8 d 0 0
  match s.wordAt x.c x.w.id.part (if wr then .tagWrite else .tagRead) q with
  | .at place => .ok place
  | .untagged => raiseDet ACCESS 8 d 0 0
  | .fault p => .error (.fault [p])

/-- Both words of a cell read by acquire_read() at SYSTEM scope (R322). -/
def State.readFuture (s : State) (c place : Nat) : W64 × W64 × State :=
  let s := (s.acquireLine c (lineOf place) 5).selfInvalidate c
  (BitVec.ofNat 64 (s.readNat place 8), BitVec.ofNat 64 (s.readNat (place + 8) 8), s)

/-- A status that is a fault status (R88). -/
def faultStatus (st : W64) : Bool := decide (1 ≤ st.toNat % 2 ^ 16) && decide (st.toNat % 2 ^ 16 ≤ 0xFF)

/-- What JOIN does (R322): the warp sleeps while the status tag is empty. -/
def performJoin (d a c : Nat) (x : Ctx) (s : State) : Res State := do
  let place ← s.futureCell x a c false
  if s.owned.has (lineOf place) || !s.tag (place + 8) then
    .ok (s.sleepIn x (.future (recBase (x.bufRec a) + (x.w.regs.rdS c).toNat)) 0)
  else
    let (val, st, t) := s.readFuture x.c place
    if t.poisoned place 16 then .error (.poison place)
    else if wmJFT x.mode && faultStatus st then raiseDet JOIN_FAULT (st.toNat % 256) st 0 0
    else .ok (t.updWarp x fun w => (w.wrS d val).wrS (d + 1) st)

def execJoin (d : SReg) (a : BReg) (c : SReg) (s : State) : Host.Outcome State Fault Refusal :=
  issueLong true true (.join d a c) 0 (fun _ => aligned 2 [d.val]) (performJoin d.val a.val c.val) s

/-- What FTEST does (R323). -/
def performFtest (d a c : Nat) (x : Ctx) (s : State) : Res State := do
  let place ← s.futureCell x a c false
  if s.owned.has (lineOf place) then .error .defer
  else if s.tag (place + 8) then
    let (_, st, t) := s.readFuture x.c place
    if t.poisoned (place + 8) 8 then .error (.poison (place + 8)) else .ok (t.updWarp x fun w => w.wrS d st)
  else .ok (s.updWarp x fun w => w.wrS d (BitVec.allOnes 64))

/-- Does FTEST find the tag full? It is then an ordering instruction (R323). -/
def State.ftestFull (s : State) (a c : Nat) : Bool :=
  match s.futureCell s.ctx a c false with
  | .ok place => s.tag (place + 8)
  | .error _ => false

def execFtest (d : SReg) (a : BReg) (c : SReg) (l : La) (s : State) : Host.Outcome State Fault Refusal :=
  issueLong (s.ftestFull a.val c.val) true (.ftest d a c) l.val (fun _ => .ok ())
    (performFtest d.val a.val c.val) s

/-- What FFILL does (R324). -/
def performFfill (d a c : Nat) (x : Ctx) (s : State) : Res State := do
  let st := x.w.regs.rdS (c + 2)
  need (x.w.regs.rdS (c + 3) == 0 && decide (st.toNat ≤ 0xFFFF) && !faultStatus st) ILLEGAL 5
  let place ← s.futureCell x a c true
  if s.owned.has (lineOf place) then .error .defer
  else if s.tag (place + 8) then
    .ok ((s.countEvent x.c evFillFull 1).updWarp x fun w => w.wrS d 1)
  else
    let t := (((s.farRelease x.c x.k 5).drain x.c).fillAt x.c place (x.w.regs.rdS (c + 1)) st.toNat).pulse x.w.id.job
    .ok (t.updWarp x fun w => w.wrS d 0)

def execFfill (d : SReg) (a : BReg) (c : SReg) (l : La) (s : State) : Host.Outcome State Fault Refusal :=
  issueLong true true (.ffill d a c) l.val (fun _ => aligned 4 [c.val]) (performFfill d.val a.val c.val) s

end Sys2Proof.Machine
end

