-- ==== Sys2Proof/Machine/Records.lean ====
section
/-! DEFINITION. LDB, MKB and BRD (R104, R105, R293 to R295). -/

namespace Sys2Proof.Machine

/-- Raises ACCESS with SUB 3 for a handle: DETAIL1 holds it in every lane's record, DETAIL0 the address of its entry in the handle
table (R209, R293, log 111). -/
def raiseHandle {α : Type} (va : Nat) (h : W64) : Res α := raiseDet ACCESS 3 (BitVec.ofNat 64 va) h 0

/-- The 32 bytes of a handle-table entry, read as an acquire at PACKAGE scope (R105). -/
def State.readHandle (s : State) (x : Ctx) (slot : Nat) : Res (BufRec × State) := do
  let jr := (s.jobOf x).r
  let (place, _) ← s.global x.c x.w.id.part .read (jr.hbase + 32 * slot)
  if s.owned.has (lineOf place) then .error .defer
  else
    let s := s.acquireLine x.c (lineOf place) 3
    if s.poisoned place 32 then .error (.poison place)
    else .ok (BitVec.ofNat 256 (natOf (s.sliceRead place 32)), s.selfInvalidate x.c)

/-- What LDB does (R293). -/
def performLdb (d h : Nat) (x : Ctx) (s : State) : Res State := do
  let v := x.w.regs.rdS h
  let slot := v.toNat % 2 ^ 24
  let jr := (s.jobOf x).r
  let va := jr.hbase + 32 * slot
  if v.toNat / 2 ^ 32 ≠ 0 ∨ jr.hcount ≤ slot then raiseHandle va v
  else do
    let (r, s) ← s.readHandle x slot
    if recHandle r ≠ v.toNat % 2 ^ 32 then raiseHandle va v
    else do
      needDet (recSpace r != 0) ACCESS 1 (BitVec.ofNat 64 va) 0 0
      needDet (recValid jr x.w.id.pair r) ACCESS 4 (BitVec.ofNat 64 va) 0 0
      .ok (s.updWarp x fun w => { w with regs := w.regs.wrB d r })

def execLdb (d : BReg) (x : SReg) (l : La) (s : State) : Host.Outcome State Fault Refusal :=
  issueLong false true (.ldb d x) l.val (fun _ => .ok ()) (performLdb d.val x.val) s

/-- A record from its words. -/
def mkRecord (base extent stride word20 handle : Nat) : BufRec :=
  BitVec.ofNat 256 (base + 2 ^ 64 * extent + 2 ^ 128 * stride + 2 ^ 160 * word20 + 2 ^ 192 * handle)

/-- What MKB does (R294). -/
def performMkb (d xr b : Nat) (x : Ctx) (s : State) : Res State := do
  let o := x.bufRec b
  let off := (x.w.regs.rdS xr).toNat
  let ext := (x.w.regs.rdS (xr + 1)).toNat
  let lay := (x.w.regs.rdS (xr + 2)).toNat
  need (recSpace o != 0) ACCESS 1
  need (x.w.regs.rdS (xr + 3) == 0 && decide (off + ext ≤ recExtent o)) ACCESS 4
  let n := mkRecord (recBase o + off) ext (lay % 2 ^ 32) (lay / 2 ^ 32) (recHandle o)
  need (recSpace n == recSpace o) ACCESS 4
  let n := if recRdonly o then n ||| BitVec.ofNat 256 (2 ^ 177) else n
  need (recValid (s.jobOf x).r x.w.id.pair n) ACCESS 4
  .ok (s.updWarp x fun w => { w with regs := w.regs.wrB d n })

def execMkb (d : BReg) (x : SReg) (b : BReg) (l : La) (s : State) : Host.Outcome State Fault Refusal :=
  issueLong false true (.mkb d x b) l.val (fun _ => aligned 4 [x.val]) (performMkb d.val x.val b.val) s

/-- What BRD does (R295). -/
def performBrd (d b : Nat) (x : Ctx) (s : State) : Res State :=
  let r := x.bufRec b
  .ok (s.updWarp x fun w =>
    (List.range 4).foldl (fun w i => w.wrS (d + i) (BitVec.ofNat 64 (recBits r (64 * i) 64))) w)

def execBrd (d : SReg) (b : BReg) (l : La) (s : State) : Host.Outcome State Fault Refusal :=
  issueLong false true (.brd d b) l.val (fun _ => aligned 4 [d.val]) (performBrd d.val b.val) s

end Sys2Proof.Machine
end

