-- ==== Sys2Proof/Machine/Task.lean ====
section
/-! DEFINITION. Tasks: closures (R53 to R58), the bobbin and its spill ring (R74 to R77), readiness (R61, R62),
admission (R63 to R68), staging (R70 to R73), dispatch (R78, R94), and SPAWN (R321). -/

namespace Sys2Proof.Machine

/-! ## Closures (R53 to R57) -/

/-- The entry word (R54). -/
def TaskEntry.word (e : TaskEntry) : Nat := descNat e.line 0 8
def TaskEntry.nops (e : TaskEntry) : Nat := e.word / 2 ^ 41 % 4
def TaskEntry.nrdy (e : TaskEntry) : Nat := e.word / 2 ^ 43 % 8
def TaskEntry.nofut (e : TaskEntry) : Bool := e.word.testBit 46
/-- LOCAL (R54). -/
def TaskEntry.isLocal (e : TaskEntry) : Bool := e.word.testBit 47
def TaskEntry.origin (e : TaskEntry) : Nat := e.word / 2 ^ 32 % 512
def TaskEntry.fut (e : TaskEntry) : Nat := descNat e.line 8 8
/-- Readiness address i. -/
def TaskEntry.rdy (e : TaskEntry) (i : Nat) : Nat := descNat e.line (64 + 8 * i) 8
/-- Operand descriptor i (R56). -/
def TaskEntry.opnd (e : TaskEntry) (i : Nat) : Nat := descNat e.line (16 + 16 * i) 16

def opHandle (o : Nat) : Nat := o % 2 ^ 32
def opOffset (o : Nat) : Nat := o / 2 ^ 32 % 2 ^ 40
def opRows (o : Nat) : Nat := o / 2 ^ 72 % 2 ^ 12 + 1
def opCols (o : Nat) : Nat := o / 2 ^ 84 % 2 ^ 12 + 1
def opFmt (o : Nat) : Nat := o / 2 ^ 96 % 16
def opWr (o : Nat) : Bool := o.testBit 100
def opPitch (o : Nat) : Nat := o / 2 ^ 101 % 2 ^ 24

/-- Row bytes of an operand (R57). -/
def opRowBytes (o : Nat) : Nat := rowBytes (opFmt o) (opCols o)

/-- Is a descriptor malformed (R57)? -/
def opMalformed (o : Nat) : Bool :=
  opFmt o == 15 || (isBlock (opFmt o) && opCols o % 16 != 0) ||
  (opRows o != 1 && decide (opPitch o < opRowBytes o)) || o / 2 ^ 125 != 0

/-- Bytes from the start of the source range to its end (R57). -/
def opSpan (o : Nat) : Nat := (opRows o - 1) * opPitch o + opRowBytes o

/-- The staged pitch and the bytes of a staged block, in whole lines (R70). -/
def opStaged (o : Nat) : Nat := (opRowBytes o + 15) / 16 * 16
def opBlock (o : Nat) : Nat := (opRows o * opStaged o + 127) / 128 * 128

/-- Bytes that are staged, and chunks of them (R106). -/
def opBytes (o : Nat) : Nat := opRows o * opRowBytes o
def opChunks (o : Nat) : Nat := (opBytes o + 4095) / 4096

/-- The operands in use, ascending. -/
def TaskEntry.ops (e : TaskEntry) : List Nat := (List.range e.nops).map e.opnd

/-- Does a closure fail the checks of R58? -/
def closureBad (line : List Byte) : Bool :=
  let e : TaskEntry := { line := line }
  let badAddr := fun (a k : Nat) => a % k != 0 || decide (2 ^ 57 ≤ a)
  decide (2 ^ 48 ≤ e.word) || e.word % 4 != 0 || decide (4 < e.nrdy) ||
  (!e.nofut && badAddr e.fut 16) || (List.range e.nrdy).any fun i => badAddr (e.rdy i) 8

/-! ## The bobbin (R74 to R77) -/

/-- The job that occupies a core. -/
def State.occJob (s : State) (c : Nat) : Nat := (s.core c).occ.getD 0

/-- Places that an outstanding steal reply holds: inline, and in the ring (R79). -/
def Core.heldInl (x : Core) : Nat := match x.steal with | some y => if y.inl then 1 else 0 | none => 0
def Core.heldRing (x : Core) : Nat := match x.steal with | some y => if y.inl then 0 else 1 | none => 0

/-- The depth of a bobbin (R74). -/
def Core.depth (x : Core) : Nat := x.bob.length + x.ring.length

/-- The staged blocks of a task: start and bytes. -/
def TaskEntry.blockList (e : TaskEntry) : List (Nat × Nat) := e.blocks.zip (e.ops.map opBlock)

/-- A task's staging is cancelled: its blocks stay taken while a chunk is in flight (R73). -/
def State.cancelStaging (s : State) (c : Nat) (e : TaskEntry) : State :=
  let s := s.own (stageKey e.key) []
  if e.entry.isNone then s
  else
    let x := s.core c
    s.setCore c { x with dying := x.dying ++ [(e.entry, e.blockList)] }

/-- A task as it waits again, its staging discarded (R59). One that was stolen is bound to its thief's reserved slot no more,
and the slot is free: the spec does not say what becomes of the reservation (log 104). -/
def TaskEntry.waitAgain (e : TaskEntry) : TaskEntry :=
  { e with st := .waiting, adm := 0, seen := 0, order := none, recs := [], blocks := [], op := 0, chunk := 0, entry := none
           pages := [], dead := none, bound := none }

/-- A task as its staging begins anew; one without operands has nothing to stage and is READY at once (R59, R96). -/
def TaskEntry.stageAgain (e : TaskEntry) : TaskEntry :=
  { e with st := if e.nops = 0 then .ready else .staging, blocks := [], op := 0, chunk := 0, entry := none, pages := []
           dead := none }

/-- The ring entry i's closure and parent number are written to the spill region (R74, log 17). -/
def State.writeRing (s : State) (c i : Nat) (e : TaskEntry) : State :=
  let jb := s.job (s.occJob c)
  let a := spillAddr jb.r c + 4096
  (s.deviceWrite c jb.part (a + 128 * i) e.line).deviceWrite c jb.part (a + 128 * jb.r.spill + 8 * i) (bytesOf 8 e.parent)

/-- The coldest inline entry moves to the hot side of the ring and waits again (R76). -/
def State.spillColdest (s : State) (c : Nat) : State :=
  let x := s.core c
  match x.bob.getLast? with
  | none => s
  | some e =>
    let j := s.occJob c
    let s := (s.cancelStaging c e).releaseAdm c j e.adm
    let x := s.core c
    let i := (x.ringBase + x.ring.length) % (s.job j).r.spill
    (s.setCore c { x with bob := x.bob.dropLast, ring := e.waitAgain :: x.ring }).writeRing c i e

/-- The lines that hold an entry's readiness words. -/
def TaskEntry.lines (e : TaskEntry) : List Nat :=
  ((List.range e.nrdy).map fun i => lineOf (e.rdy i)).foldl addNew []

/-- The monitor is to read some lines. -/
def State.watchLines (s : State) (c : Nat) (ls : List Nat) : State :=
  let x := s.core c
  s.setCore c { x with monitor := ls.foldl addNew x.monitor }

/-- A number that orders a core's ready tasks. -/
def State.nextSeq (s : State) : Nat × State := (s.taskSeq, { s with taskSeq := s.taskSeq + 1 })

/-- A push at the hot end; none when the bobbin and the ring are full (R76). A task without readiness words is
ready at once (R61). -/
def State.push (s : State) (c : Nat) (e : TaskEntry) : Option State :=
  let x := s.core c
  let inl := x.bob.length + x.heldInl < 64
  let ring := x.ring.length + x.heldRing < (s.job (s.occJob c)).r.spill
  if !inl && !ring then none
  else
    let s := if inl then s else s.spillColdest c
    let (o, s) := s.nextSeq
    let e := { e with key := o, order := if e.nrdy = 0 then some o else none }
    let x := s.core c
    some ((s.setCore c { x with bob := e :: x.bob }).watchLines c e.lines)

/-! ## SPAWN (R321) -/

/-- What SPAWN does (R321). -/
def performSpawn (d a c : Nat) (x : Ctx) (s : State) : Res State := do
  let role := (s.jobOf x).r.roles.getD 3 {}
  need (role.warps != 0) ILLEGAL 5
  let q ← s.uaddr x a c 128 128 false
  needDet (recSpace (x.bufRec a) != SP_LANE) ACCESS 4 (BitVec.ofNat 64 q) 0 0
  let s := s.farAll x.c x.k
  let (L, s) ← s.readAt x a q 128
  needDet (!closureBad L) ACCESS 9 (BitVec.ofNat 64 q) 0 0
  let w := descNat L 0 8
  let w' := w % 2 ^ 32 + 2 ^ 32 * x.c + w / 2 ^ 41 * 2 ^ 41
  let e : TaskEntry :=
    { line := bytesOf 8 w' ++ L.drop 8, parent := (x.w.task.map fun t => t.e.adm).getD 0
      marks := ((s.core x.c).l1.dirty.keys.map lineOf).foldl addNew [] }
  match s.push x.c e with
  | none => raise SPILL_FULL 0
  | some t => .ok (t.updWarp x fun w => w.wrS d (BitVec.ofNat 64 (t.core x.c).depth))

def execSpawn (d : SReg) (a : BReg) (c : SReg) (l : La) (s : State) : Host.Outcome State Fault Refusal :=
  issueLong true true (.spawn d a c) l.val (fun _ => .ok ()) (performSpawn d.val a.val c.val) s

/-! ## Entries by key -/

def Core.findTask (x : Core) (key : Nat) : Option TaskEntry := x.bob.find? fun e => e.key == key

def State.updTask (s : State) (c key : Nat) (f : TaskEntry → TaskEntry) : State :=
  let x := s.core c
  s.setCore c { x with bob := x.bob.map fun e => if e.key = key then f e else e }

def State.dropTask (s : State) (c key : Nat) : State :=
  let x := s.core c
  s.setCore c { x with bob := x.bob.filter fun e => e.key != key }

/-- A task in the bobbin ends in a fault: the record, the future, the range entries (R59, R89 to R92). -/
def State.taskFault (s : State) (c : Nat) (e : TaskEntry) (f : FaultInfo) : State :=
  let j := s.occJob c
  let w := BitVec.ofNat 64 e.word
  let fut := BitVec.ofNat 64 e.fut
  let (a, s) := (s.countEvent c evTaskFault 1).faultRecord c j w fut f
  let s := (s.own (stageKey e.key) []).dropTask c e.key
  if e.nofut then s.releaseAdm c j e.adm else s.deviceFill (s.job j).part j c fut a f.status (some w) e.adm

/-- A task waits for a page. -/
def State.taskPages (s : State) (c : Nat) (e : TaskEntry) (qs : List PageReq) : State :=
  let part := (s.job (s.occJob c)).part
  let (ps, fs) := fileAll part (unitOfCore c) (coreBit c) s.tick qs s.faults
  { s with faults := fs }.updTask c e.key fun e => { e with pages := e.pages ++ ps }

/-! ## Readiness (R61, R62) -/

/-- The monitor reads one readiness word of a task as an acquire at PACKAGE scope. The faulting address of READY_UNTAGGED is the word's,
also where its page was declared unresolvable (DESIGN CHOICE: log 121). -/
def State.monitorWord (c i : Nat) (s : State) (key : Nat) : State :=
  match (s.core c).findTask key with
  | none => s
  | some e =>
    let va := e.rdy i
    let bit : BitVec 4 := BitVec.ofNat 4 (2 ^ i)
    let lost := e.dead.bind fun (q : PageReq) => if q.kind = .tagRead ∧ q.page = va / 4096 then some q.tick else none
    if lost.isSome then s.taskFault c e { status := FS_READY_UNTAGGED, rdy := i, va := va, tick := lost }
    else
      match s.wordAt c (s.job (s.occJob c)).part .tagRead va with
      | .untagged => s.taskFault c e { status := FS_READY_UNTAGGED, rdy := i, va := va }
      | .fault q => (s.updTask c key fun e => { e with seen := e.seen &&& ~~~bit }).taskPages c e [q]
      | .at place =>
        let s := (s.acquireLine c (lineOf place) 3).selfInvalidate c
        let full := s.tag place
        s.updTask c key fun e => { e with seen := if full then e.seen ||| bit else e.seen &&& ~~~bit }

/-- A task is ready while every readiness word was last read full. -/
def State.monitorTask (c line : Nat) (s : State) (key : Nat) : State :=
  match (s.core c).findTask key with
  | none => s
  | some e =>
    let s := ((List.range e.nrdy).filter fun i => lineOf (e.rdy i) == line).foldl
      (fun s i => s.monitorWord c i key) s
    match (s.core c).findTask key with
    | none => s
    | some e =>
      if e.seen.toNat = 2 ^ e.nrdy - 1 then
        if e.order.isSome then s
        else
          let (o, s) := s.nextSeq
          s.updTask c key fun e => { e with order := some o }
      else s.updTask c key fun e => { e with order := none }

/-- READINESS_MONITOR_READ: the monitor re-reads the tags of the waiting entries of one line (R61). -/
def execReadinessMonitorRead (c : CoreId) (line : Nat) (s : State) : Host.Outcome State Fault Refusal :=
  let x := s.core c.val
  if line ∈ x.monitor then
    let s := s.setCore c.val { x with monitor := x.monitor.filter (· != line) }
    let keys := (x.bob.filter fun e => e.st == .waiting && decide (line ∈ e.lines)).map TaskEntry.key
    .next (keys.foldl (State.monitorTask c.val line) s)
  else .refused (.notEnabled "READINESS_MONITOR_READ")

/-! ## Admission (R63 to R68) -/

/-- The record of a poisoned word of a handle table met by a task's admission, staging or write-back: no command is involved,
and its identity reads 0; R435 has no operand code for the table, which is a free value (log 100). -/
def State.taskHandleError (part c : Nat) (s : State) (place : Nat) : State :=
  let (code, s) := s.takeNat
  s.logError part 1 (code % 256) c 0 0 0 0 place

/-- What the check of operands at admission finds. -/
inductive AdmitCheck where
  | fail (f : FaultInfo)
  | fault (q : PageReq)
  | ok (recs : List BufRec)

/-- The operand checks of R63, from operand i on. -/
def State.admitOps (s : State) (c job i : Nat) : List Nat → AdmitCheck × State
  | [] => (.ok [], s)
  | o :: os =>
    let jr := (s.job job).r
    let h := opHandle o
    if opMalformed o then (.fail { status := FS_STAGE_DESC, op := i, handle := h }, s)
    else
      match s.checkHandle c c job h (State.taskHandleError (s.job job).part c) with
      | (.revoked, s) => (.fail { status := FS_STAGE_REVOKED, op := i, handle := h }, s)
      | (.fault q, s) => (.fault q, s)
      | (.good, s) =>
        let va := jr.hbase + 32 * (h % 2 ^ 24)
        let (r, s) : BufRec × State :=
          match s.translate c (s.job job).part false .engineRead va with
          | .ok place _ _ =>
            let (bs, bad, s) := s.engineRead c [(place, 32)]
            (BitVec.ofNat 256 (natOf bs), bad.foldl (fun s p => State.taskHandleError (s.job job).part c s p.2) s)
          | .fault _ => (0, s)
        if recSpace r = 0 ∨ recSpace r = SP_LANE ∨ !recValid jr jr.paired r then
          (.fail { status := FS_STAGE_DESC, op := i, handle := h }, s)
        else
          match s.admitOps c job (i + 1) os with
          | (.ok rs, s) => (.ok (r :: rs), s)
          | z => z

/-- The range entries of a task's operands (R63). -/
def taskRanges (part job adm : Nat) (ops : List Nat) (recs : List BufRec) : List RangeEntry :=
  (ops.zip recs).map fun p =>
    let a := recBase p.2 + opOffset p.1
    { part := part, job := job, adm := adm, lo := a / 256 * 256, hi := (a + opSpan p.1 + 255) / 256 * 256, wr := opWr p.1 }

/-- Two range entries conflict (R64). -/
def rangesConflict (a b : RangeEntry) : Bool :=
  a.job == b.job && (a.wr || b.wr) && decide (a.lo < b.hi) && decide (b.lo < a.hi)

/-- A partition's share of the range table (R67). -/
def rangeShare (p : Partition) : Nat :=
  let n := popBits 128 p.clus.toNat
  if n = 0 then 0 else 32 * n

/-- Do a task's entries conflict with none but its parent's (R64 to R66)? -/
def State.rangesFree (s : State) (parent : Nat) (rs : List RangeEntry) : Bool :=
  rs.all fun r => s.ranges.all fun h => (parent != 0 && h.adm == parent) || !rangesConflict r h

/-- Do a task's entries fit and conflict with none but its parent's (R65 to R67)? -/
def State.rangesFit (s : State) (part parent : Nat) (rs : List RangeEntry) : Bool :=
  decide ((s.ranges.filter fun r => r.part == part).length + rs.length ≤ rangeShare (s.part part)) && s.rangesFree parent rs

/-- Can a ready task's admission go forward now: it fails, meets a fault, or is admitted? -/
def State.admitNow (s : State) (c : Nat) (e : TaskEntry) : Bool :=
  let j := s.occJob c
  let part := (s.job j).part
  e.st == .waiting && e.order.isSome && e.pages.isEmpty &&
  (e.dead.isSome ||
    match (s.admitOps c j 0 e.ops).1 with
    | .ok rs => s.rangesFit part e.parent (taskRanges part j 0 e.ops rs)
    | _ => true)

/-- The operand whose handle-table entry lies on the page that was declared unresolvable at admission (R63). -/
def TaskEntry.lostHandle (e : TaskEntry) (jr : JobRec) : Option (Nat × PageReq) :=
  match e.dead with
  | some q =>
    if q.kind = .engineRead then
      ((List.range e.nops).find? fun i => (jr.hbase + 32 * (opHandle (e.opnd i) % 2 ^ 24)) / 4096 == q.page).map fun i => (i, q)
    else none
  | none => none

/-- A ready task is admitted, fails, or meets a fault (R63). The faulting address of a page declared unresolvable is recorded
as the page's first byte (log 103). -/
def State.admitTask (s : State) (c : Nat) (e : TaskEntry) : State :=
  let j := s.occJob c
  let part := (s.job j).part
  match e.lostHandle (s.job j).r with
  | some (i, q) =>
    s.taskFault c e { status := FS_STAGE_XLATE, op := i, va := 4096 * q.page, handle := opHandle (e.opnd i), tick := some q.tick }
  | none =>
  match s.admitOps c j 0 e.ops with
  | (.fail f, s) => s.taskFault c e f
  | (.fault q, s) => s.taskPages c e [q]
  | (.ok rs, s) =>
    let n := (s.job j).adm + 1
    let s := s.updJob j fun jb => { jb with adm := n }
    let s := ({ s with ranges := s.ranges ++ taskRanges part j n e.ops rs }).pulse j
    s.updTask c e.key fun e =>
      { e with adm := n, recs := rs, st := if e.nops = 0 then .ready else .staging, dead := none }

/-- TASK_ADMISSION of the n-th inline entry, hot end first, in the order in which tasks became ready (R65). -/
def execTaskAdmission (c : CoreId) (n : Nat) (s : State) : Host.Outcome State Fault Refusal :=
  let x := s.core c.val
  match x.bob[n]? with
  | none => .refused (.notEnabled "TASK_ADMISSION")
  | some e =>
    let earlier := x.bob.any fun y =>
      decide (y.order.getD 0 < e.order.getD 0) && s.admitNow c.val y
    if s.admitNow c.val e && !earlier then .next (s.admitTask c.val e)
    else .refused (.notEnabled "TASK_ADMISSION")

/-! ## Staging (R70 to R73) -/

/-- SNAPSHOT_DRAIN: the lines that the ORIGIN core held dirty at the SPAWN are written back (R72). -/
def State.snapshot (s : State) (e : TaskEntry) : State :=
  if e.drained then s else s.writeBack e.origin fun l => decide (l ∈ e.marks)

def execSnapshotDrain (c : CoreId) (n : Nat) (s : State) : Host.Outcome State Fault Refusal :=
  match (s.core c.val).bob[n]? with
  | none => .refused (.notEnabled "SNAPSHOT_DRAIN")
  | some e =>
    if e.st = .staging ∧ !e.drained then
      .next ((s.snapshot e).updTask c.val e.key fun e => { e with drained := true })
    else .refused (.notEnabled "SNAPSHOT_DRAIN")

/-- The blocks in use in a core's staging area: of its bobbin, of its running tasks and of cancelled staging. -/
def State.usedBlocks (s : State) (c : Nat) : List (Nat × Nat) :=
  let x := s.core c
  (x.bob.flatMap TaskEntry.blockList) ++ (x.dying.flatMap Prod.snd) ++
  ((s.slots.keep fun key w => key / 128 == c && w.st != .free).vals.flatMap fun w =>
    match w.task with
    | some t => t.e.blockList
    | none => [])

/-- First-fit: the lowest place of a size between two bounds that meets no used block (R70). -/
def firstFit (lo hi size : Nat) (used : List (Nat × Nat)) : Option Nat :=
  let starts := lo :: used.map fun b => b.1 + b.2
  let ok := starts.filter fun a =>
    decide (lo ≤ a) && decide (a + size ≤ hi) && used.all fun b => decide (a + size ≤ b.1) || decide (b.1 + b.2 ≤ a)
  match ok with
  | [] => none
  | a :: as => some (as.foldl min a)

/-- Blocks for all operands of a task. -/
def allocBlocks (lo hi : Nat) : List Nat → List (Nat × Nat) → Option (List Nat)
  | [], _ => some []
  | n :: ns, used =>
    match firstFit lo hi n used with
    | none => none
    | some a => (allocBlocks lo hi ns ((a, n) :: used)).map (a :: ·)

/-- The staging carve-out of a core: its first byte and its end (R98). -/
def State.stageArea (s : State) (c : Nat) : Nat × Nat :=
  let jr := (s.job (s.occJob c)).r
  let top := 2 ^ 19 - s.carve c
  (top - 4096 * jr.stage, top)

/-- The pieces of a chunk of an operand: offset from the source range's start, offset in the block, bytes. -/
def opPieces (o i : Nat) : List (Nat × Nat × Nat) :=
  let rb := opRowBytes o
  let lo := 4096 * i
  let hi := min (opBytes o) (lo + 4096)
  (List.range (opRows o)).filterMap fun r =>
    let a := max lo (rb * r)
    let b := min hi (rb * (r + 1))
    if a < b then some (r * opPitch o + (a - rb * r), r * opStaged o + (a - rb * r), b - a) else none

/-- The segments of a chunk in its staged block. -/
def blockSegs (c block o i : Nat) : Segs :=
  (opPieces o i).map fun p => (scratchBase c + block + p.2.1, p.2.2)

/-- The scratchpad lines that a task's staging has still to write (R122). -/
def TaskEntry.unstaged (e : TaskEntry) (c : Nat) : List Nat :=
  let segs := ((List.range e.nops).filter fun i => decide (e.op ≤ i)).flatMap fun i =>
    let o := e.opnd i
    let from_ := if i = e.op then e.chunk else 0
    (List.range (opChunks o - from_)).flatMap fun j => blockSegs c (e.blocks.getD i 0) o (from_ + j)
  segs.foldl (fun ls q => (List.range ((q.1 + q.2 - 1) / 128 - q.1 / 128 + 1)).foldl (fun ls n => addNew ls (128 * (q.1 / 128 + n))) ls) []

/-- STAGING_ALLOCATE: a task obtains its lines, in order of admission, or ends with STAGE_SIZE (R70). An entry that was admitted on
another core, and stolen or restored, takes its place by its admission number in the job (DESIGN CHOICE: log 120). -/
def execStagingAllocate (c : CoreId) (n : Nat) (s : State) : Host.Outcome State Fault Refusal :=
  let x := s.core c.val
  match x.bob[n]? with
  | none => .refused (.notEnabled "STAGING_ALLOCATE")
  | some e =>
    let wants := fun (y : TaskEntry) => y.st == .staging && y.blocks.isEmpty
    let (lo, hi) := s.stageArea c.val
    if !wants e || !e.drained || x.bob.any fun y => wants y && decide (y.adm < e.adm) then
      .refused (.notEnabled "STAGING_ALLOCATE")
    else if hi - lo < (e.ops.map opBlock).foldl (· + ·) 0 then
      .next (s.taskFault c.val e { status := FS_STAGE_SIZE })
    else
      match allocBlocks lo hi (e.ops.map opBlock) (s.usedBlocks c.val) with
      | some bs =>
        let e := { e with blocks := bs, began := s.waitSeq }
        let s := { s with waitSeq := s.waitSeq + 1 }
        .next ((s.updTask c.val e.key fun _ => e).own (stageKey e.key) (e.unstaged c.val))
      | none => .refused (.notEnabled "STAGING_ALLOCATE")

/-- The context in which a core's shuttle moves a task's operands. -/
def State.stageCtx (s : State) (c : Nat) : Ctx :=
  let j := s.occJob c
  { c := c, k := 0, w := { id := { part := (s.job j).part, job := j } }, active := 0 }

/-- The segments of a chunk at its source. -/
def State.sourceSegs (s : State) (c : Nat) (r : BufRec) (kind : AccessKind) (o i : Nat) : Located :=
  (opPieces o i).foldl (fun (z : Located) p =>
    let y := s.locate (s.stageCtx c) r kind 0 (recBase r + opOffset o + p.1) p.2.2
    { z with segs := z.segs ++ y.segs, faults := z.faults ++ y.faults }) {}

/-- Poisoned words that a task's transfer replaced by zero, in the error log, each with its byte offset in the transfer. A
staging or write-back is no command, and the record's command identity reads 0: the spec names none (R125, log 100). -/
def State.logReplaced (s : State) (part c off : Nat) (bad : List (Nat × Nat)) : State :=
  bad.foldl (fun s p => s.logError part 1 0 c 0 0 0 (off + p.1) p.2) s

/-- One chunk of an operand is staged, its pages and its handle at hand. -/
def State.stageChunk (s : State) (c : Nat) (e : TaskEntry) (o block : Nat) (segs : Segs) : State :=
  let part := (s.job (s.occJob c)).part
  let s := s.chargeChunk c (segs.map Prod.fst) ((opPieces o e.chunk).foldl (fun n p => n + p.2.2) 0)
  let (bs, bad, s) := s.engineRead c segs
  let s := (s.logReplaced part c (4096 * e.chunk) bad).engineWrite c (blockSegs c block o e.chunk) bs
  let s := s.pulse (s.occJob c)
  let e := if e.chunk + 1 < opChunks o then { e with chunk := e.chunk + 1 }
    else if e.op + 1 < e.nops then { e with op := e.op + 1, chunk := 0 }
    else { e with st := .ready, op := e.nops, entry := none }
  (s.updTask c e.key fun _ => e).own (stageKey e.key) (e.unstaged c)

/-- STAGING_CHUNK: the shuttle stages the next chunk of a task; the handle is checked at each (R71, R91, R106). The faulting address of
STAGE_BOUNDS is the start of the operand's source (DESIGN CHOICE: log 121). -/
def execStagingChunk (c : CoreId) (n : Nat) (s : State) : Host.Outcome State Fault Refusal :=
  let x := s.core c.val
  match x.bob[n]? with
  | none => .refused (.notEnabled "STAGING_CHUNK")
  | some e =>
    let busy := (x.bob.filter fun y => y.entry.isSome).length + (x.dying.filter fun y => y.1.isSome).length
    let entry := if e.entry.isSome then e.entry else if busy < 8 then (s.freeEntries c.val).head? else none
    if !(e.st == .staging) || e.blocks.isEmpty || !e.pages.isEmpty || entry.isNone then
      .refused (.notEnabled "STAGING_CHUNK")
    else
      let o := e.opnd e.op
      let r := e.recs.getD e.op 0
      let info : FaultInfo := { status := FS_STAGE_XLATE, op := e.op, chunks := e.chunk, handle := opHandle o }
      let s := s.updTask c.val e.key fun e => { e with entry := entry }
      match e.dead with
      | some q => .next (s.taskFault c.val e { info with va := 4096 * q.page, tick := some q.tick })
      | none =>
      if recExtent r < opOffset o + opSpan o then
        .next (s.taskFault c.val e { info with status := FS_STAGE_BOUNDS, va := recBase r + opOffset o })
      else
        match s.checkHandle c.val c.val (s.occJob c.val) (opHandle o) (State.taskHandleError (s.job (s.occJob c.val)).part c.val) with
        | (.revoked, s) => .next (s.taskFault c.val e { info with status := FS_STAGE_REVOKED })
        | (.fault q, s) => .next (s.taskPages c.val e [q])
        | (.good, s) =>
          let z := s.sourceSegs c.val r .engineRead o e.chunk
          match mergePages z.faults with
          | [] =>
            if (linesAt [z]).any (s.heldBefore (stageKey e.key) e.began) then .refused (.notEnabled "STAGING_CHUNK")
            else .next (s.stageChunk c.val { e with entry := entry } o (e.blocks.getD e.op 0) z.segs)
          | qs => .next (s.taskPages c.val e qs)

/-- STAGING_CANCEL_COMPLETE: the last chunk in flight of a cancelled staging completes; its lines are free
(R73). -/
def execStagingCancelComplete (c : CoreId) (s : State) : Host.Outcome State Fault Refusal :=
  let x := s.core c.val
  match x.dying with
  | [] => .refused (.notEnabled "STAGING_CANCEL_COMPLETE")
  | _ :: ds => .next (s.setCore c.val { x with dying := ds })

/-! ## Dispatch (R78, R94) -/

/-- ESIZE for an operand's format (R94, R101). -/
def fmtEsize (f : Nat) : Nat :=
  if isBlock f then blockEsize (f - 10)
  else match typeBits f with | 8 => 0 | 16 => 1 | 32 => 2 | _ => 3

/-- The record of a staged operand (R94). -/
def stagedRec (o block : Nat) : BufRec :=
  mkRecord block (opRows o * opStaged o) (rowBytes (opFmt o) (if isBlock (opFmt o) then 16 else 1))
    (SP_CORE + 16 * fmtEsize (opFmt o)) (opHandle o)

/-- The packing of cr.team and cr.grid (R32). -/
def packXYZ (x y z : Nat) : W64 := BitVec.ofNat 64 (x % 2 ^ 32 + 2 ^ 32 * (y % 2 ^ 16) + 2 ^ 48 * (z % 2 ^ 16))

/-- cr.grid of a job (R32). -/
def jobGrid (jr : JobRec) : W64 := packXYZ (jr.gx - 1) (jr.gy - 1) (jr.gz - 1)

/-- The registers with which a task begins (R94). -/
def taskRegs (e : TaskEntry) : Regs :=
  let arg := fun (r : Regs) (i : Nat) => r.wrS (1 + i) (BitVec.ofNat 64 (descNat e.line (96 + 8 * i) 8))
  let r := (List.range 4).foldl arg {}
  let r := r.wrS 5 (if e.nofut then 0 else BitVec.ofNat 64 e.fut)
  (List.range e.nops).foldl (fun (r : Regs) i =>
    (r.wrS (6 + i) (BitVec.ofNat 64 (opStaged (e.opnd i)))).wrB (13 + i) (stagedRec (e.opnd i) (e.blocks.getD i 0))) r

/-- Puts a new warp into a slot: its generation advances (R27). -/
def State.placeWarp (s : State) (c k : Nat) (w : Warp) : State :=
  s.setWarp c k { w with st := .active, gen := (s.warp c k).gen + 1 }

/-- Slots of a core that thieves have reserved (R79). -/
def Core.reserved (x : Core) : List Nat :=
  (x.bob.filterMap TaskEntry.bound) ++ (match x.steal with | some y => [y.slot] | none => [])

/-- Task warps on a core. -/
def State.taskWarps (s : State) (c : Nat) : Nat :=
  (s.slots.keep fun key w => key / 128 == c && w.st != .free && w.id.task).length

/-- The lowest free slot of a core below its slice places. -/
def State.freeSlot (s : State) (c : Nat) : Option Nat :=
  let x := s.core c
  (List.range x.places).find? fun k => decide ((s.warp c k).st = .free) && decide (k ∉ x.reserved)

/-- A free task slot of the core's job that no thief has reserved (R22, R98). -/
def State.taskSlot (s : State) (c : Nat) : Option Nat :=
  let r := ((s.job (s.occJob c)).r.roles.getD 3 {}).warps
  if s.taskWarps c + (s.core c).reserved.length < r then s.freeSlot c else none

/-- The slot into which an entry may be dispatched. -/
def State.slotFor (s : State) (c : Nat) (e : TaskEntry) : Option Nat :=
  if e.st = .ready then (match e.bound with | some k => some k | none => s.taskSlot c) else none

/-- A task's warp at its start (R94). -/
def State.taskWarp (s : State) (c : Nat) (e : TaskEntry) : Warp :=
  let j := s.occJob c
  let jr := (s.job j).r
  let role := jr.roles.getD 3 {}
  let m := laneMask jr.width
  { id := { part := (s.job j).part, job := j, width := jr.width, role := 3, allot := role.allot, prio := role.prio
            task := true, grid := jobGrid jr }
    regs := taskRegs e
    ctl := { pc := BitVec.ofNat 64 (jr.code + e.word % 2 ^ 32), exec := m, live := m, path := m }
    task := some { e := { e with drained := true }, home := c } }

/-- The owner's next dispatch: the hottest READY entry that has a slot, and the slot (R78). -/
def State.dispatchable (s : State) (c : Nat) : Option (TaskEntry × Nat) :=
  (s.core c).bob.findSome? fun e => (s.slotFor c e).map fun k => (e, k)

/-- TASK_DISPATCH: the hottest READY entry starts in a free task slot (R78). Its first issue performs the snapshot drain when
staging has not, but on the ORIGIN core that drain is empty; it acquires what the spawning warp, and the release that its
admission waited for, made visible: the core's clean lines go (R72, R83, R94, R152). -/
def execTaskDispatch (c : CoreId) (s : State) : Host.Outcome State Fault Refusal :=
  match s.dispatchable c.val with
  | none => .refused (.notEnabled "TASK_DISPATCH")
  | some (e, k) =>
    let s := if e.origin = c.val then s else s.snapshot e
    let w := s.taskWarp c.val e
    .next ((((s.dropTask c.val e.key).placeWarp c.val k w).selfInvalidate c.val).pulse (s.occJob c.val))

/-- May the bobbin move a spilled entry inline (R77)? -/
def Core.refillable (x : Core) : Bool := !x.ring.isEmpty && decide (x.bob.length < 32)

/-- BOBBIN_REFILL: the hottest spilled entry moves to the cold end of the inline entries, when no dispatch is to be granted
(R75, R77). The entry goes on as the bobbin spilled it: what another agent has written to the ring since is not read back
(DESIGN CHOICE: log 122). -/
def execBobbinRefill (c : CoreId) (s : State) : Host.Outcome State Fault Refusal :=
  let x := s.core c.val
  match x.ring with
  | [] => .refused (.notEnabled "BOBBIN_REFILL")
  | e :: es =>
    if x.refillable && (s.dispatchable c.val).isNone then
      let (o, s) := s.nextSeq
      let e := { e with order := if e.nrdy = 0 then some o else none }
      .next ((s.setCore c.val { x with bob := x.bob ++ [e], ring := es }).watchLines c.val e.lines)
    else .refused (.notEnabled "BOBBIN_REFILL")

end Sys2Proof.Machine
end

