-- ==== Sys2Proof/Machine/EndWarp.lean ====
section
/-! DEFINITION. How a warp ends (R41, R161, R280), and how a task ends: TRET, write-back, its fill (R59, R87, R93,
R325). -/

namespace Sys2Proof.Machine

/-! ## end_warp() -/

/-- A slot identity (R27, R171): package, die, cluster, core, slot and generation. -/
def State.identity (s : State) (c k : Nat) (gen : BitVec 21) : Nat :=
  gen.toNat + 2 ^ 21 * (k % 64) + 2 ^ 27 * (c % 4) + 2 ^ 29 * (c / 4 % 32) + 2 ^ 34 * (c / 128 % 4) + 2 ^ 36 * s.pkg

/-- A team's barriers return to the pool when its last warp has ended. -/
def State.freeTeam (s : State) (w : Warp) (c : Nat) : State :=
  let core := teamCore w c
  let left := s.slots.any fun p =>
    p.2.st != .free && !p.2.id.task && !p.2.id.handler && p.2.id.teamIdx == w.id.teamIdx &&
    teamCore p.2 (p.1 / 128) == core
  if left then s
  else
    let x := s.core core
    s.setCore core { x with bars := x.bars.keep fun k _ => k / 128 != w.id.teamIdx }

/-- A notice of departure goes to a record's home slice; while the record's page does not translate nobody sleeps at it
(R177). -/
def State.depart (s : State) (c part : Nat) (rec : W64) : State :=
  match s.translate c part false .atomic rec.toNat with
  | .ok place _ _ => { s with notices := s.notices ++ [place] }
  | .fault _ => s

/-- A warp that ends with an active capsule sends a notice of departure, and its core keeps the record's address
(R228). -/
def State.leaveCapsule (s : State) (w : Warp) (c k : Nat) : State :=
  match w.cap with
  | none => s
  | some cp =>
    (s.depart c w.id.part cp.record).updJob w.id.job fun jb =>
      { jb with orphans := jb.orphans ++ [(c, cp.record.toNat, s.identity c k w.gen)] }

/-- end_warp(): the slot becomes FREE, keeping its generation; far stores and an entry that it held are done with, and the warp leaves its barriers (R40, R161). -/
def State.endWarp (s : State) (c k : Nat) : State :=
  let w := s.warp c k
  let s := (((s.farAll c k).unreserve c k).leaveCapsule w c k).setWarp c k { gen := w.gen }
  if w.id.task || w.id.handler then s else (s.leaveBarriers w c).freeTeam w c

/-! ## The end of a task (R59, R93, R325) -/

/-- A running task's fill, after which its slot is FREE and it is DONE. -/
def State.taskFill (s : State) (c k : Nat) (t : RunTask) (f : Finish) : State :=
  let w := s.warp c k
  let e := t.e
  let fin := fun (s : State) => ((s.own (wbKey e.key) []).releaseAdm c w.id.job e.adm).endWarp c k
  if !f.fill || e.nofut then fin s
  else
    let cell := BitVec.ofNat 64 e.fut
    let lost := fun (s : State) => fin (s.fillLost c w.id.part (spillAddr (s.job w.id.job).r c) cell (some (BitVec.ofNat 64 e.word)))
    match s.tryFill w.id.part c cell f.val f.status with
    | .done s => fin (s.pulse w.id.job)
    | .lost s => lost s
    | .wait q =>
      if f.dead.isSome then lost s
      else
        let (ps, fs) := fileAll w.id.part (unitOfCore c) (coreBit c) s.tick [q] s.faults
        { s with faults := fs }.setWarp c k { w with task := some { t with fin := some { f with pages := ps } } }

/-- The destinations of a task's write-back that are still to be written, as far as their pages translate. -/
def State.wbDest (s : State) (c : Nat) (t : RunTask) (f : Finish) : List Located :=
  ((List.range t.e.nops).filter fun i => decide (f.op ≤ i) && opWr (t.e.opnd i)).flatMap fun i =>
    let o := t.e.opnd i
    let from_ := if i = f.op then f.chunk else 0
    (List.range (opChunks o - from_)).map fun j => s.sourceSegs c (t.e.recs.getD i 0) .engineWrite o (from_ + j)

/-- A task's end as it stands, with ownership of every unwritten destination line whose page translates (R122). -/
def State.wbHold (s : State) (c k : Nat) (t : RunTask) (f : Finish) : State :=
  let zs := s.wbDest c t f
  let w := s.warp c k
  let s := s.holdLines (wbKey t.e.key) w.id.job (linesAt zs)
  s.setWarp c k { s.warp c k with task := some { t with fin := some { f with unheld := zs.any fun z => !z.faults.isEmpty } } }

/-- Goes on with a task's end: read operands are passed over; the fill follows the last write-back. -/
def State.finishOn (s : State) (c k : Nat) (t : RunTask) (f : Finish) : State :=
  let next := ((List.range t.e.nops).find? fun i => decide (f.op ≤ i) && opWr (t.e.opnd i)).getD t.e.nops
  let f := if next = f.op then f else { f with op := next, chunk := 0 }
  if f.op < t.e.nops then s.wbHold c k t f else s.taskFill c k t f

/-- A task's warp issues nothing more: it waits for its write-back and its fill, which follow its far stores. -/
def State.startFinish (s : State) (c k : Nat) (f : Finish) : State :=
  let s := s.farAll c k
  let w := s.warp c k
  match w.task with
  | none => s.endWarp c k
  | some t =>
    (s.setWarp c k { w with st := .asleep, wait := .finish, task := some { t with fin := some f } }).finishOn c k t f

/-- A write-back that meets a revoked handle or an unresolvable translation: the record, and WB_FAULT (R93). The record's
chunks are those of the faulting operand: the spec does not say whether they count that operand's or the whole write-back's
(log 103). -/
def State.wbFault (s : State) (c k : Nat) (t : RunTask) (f : Finish) (va : Nat) (tick : Option Nat) : State :=
  let w := s.warp c k
  let (a, s) := (s.countEvent c evTaskFault 1).faultRecord c w.id.job (BitVec.ofNat 64 t.e.word) (BitVec.ofNat 64 t.e.fut)
    { status := FS_WB_FAULT, op := f.op, chunks := f.chunk, va := va, handle := opHandle (t.e.opnd f.op), tick := tick }
  let s := s.own (wbKey t.e.key) []
  s.finishOn c k t { f with op := t.e.nops, chunk := 0, val := a, status := FS_WB_FAULT, dead := none }

/-- The write-back of a chunk waits for pages. -/
def State.wbPages (s : State) (c k : Nat) (t : RunTask) (f : Finish) (qs : List PageReq) : State :=
  let w := s.warp c k
  let (ps, fs) := fileAll w.id.part (unitOfCore c) (coreBit c) s.tick qs s.faults
  { s with faults := fs }.setWarp c k { w with task := some { t with fin := some { f with pages := ps } } }

/-- One chunk of an operand is written back. A record that has RDONLY set stops nothing here: R91 and R93 name no such
failure of a write-back (log 105). -/
def State.wbChunk (s : State) (c k : Nat) (t : RunTask) (f : Finish) (segs : Segs) : State :=
  let w := s.warp c k
  let o := t.e.opnd f.op
  let s := s.chargeChunk c (segs.map Prod.fst) ((opPieces o f.chunk).foldl (fun n p => n + p.2.2) 0)
  let (bs, bad, s) := s.engineRead c (blockSegs c (t.e.blocks.getD f.op 0) o f.chunk)
  let s := (s.logReplaced w.id.part c (4096 * f.chunk) bad)
  let s := (s.engineWrite c segs bs).pulse w.id.job
  s.finishOn c k t
    (if f.chunk + 1 < opChunks o then { f with chunk := f.chunk + 1 } else { f with op := f.op + 1, chunk := 0 })

/-- WRITEBACK_CHUNK: one chunk of a read-write operand is written back at a task's end, or its fill is tried again
(R93, R90). -/
def execWritebackChunk (c : CoreId) (slot : SlotNo) (s : State) : Host.Outcome State Fault Refusal :=
  let w := s.warp c.val slot.val
  match w.task with
  | none => .refused (.notEnabled "WRITEBACK_CHUNK")
  | some t =>
    match t.fin with
    | none => .refused (.notEnabled "WRITEBACK_CHUNK")
    | some f =>
      if !(w.st == .asleep && w.wait == .finish) || !f.pages.isEmpty then .refused (.notEnabled "WRITEBACK_CHUNK")
      else if t.e.nops ≤ f.op then .next (s.taskFill c.val slot.val t f)
      else
        let o := t.e.opnd f.op
        let r := t.e.recs.getD f.op 0
        match f.dead with
        | some q => .next (s.wbFault c.val slot.val t f (4096 * q.page) (some q.tick))
        | none =>
          match s.checkHandle c.val c.val w.id.job (opHandle o) (State.taskHandleError w.id.part c.val) with
          | (.revoked, s) => .next (s.wbFault c.val slot.val t f 0 none)
          | (.fault q, s) => .next (s.wbPages c.val slot.val t f [q])
          | (.good, s) =>
            let z := s.sourceSegs c.val r .engineWrite o f.chunk
            match mergePages z.faults with
            | [] => .next ((s.wbHold c.val slot.val t f).wbChunk c.val slot.val t f z.segs)
            | qs => .next (s.wbPages c.val slot.val t f qs)

/-- A task all of whose lanes were killed, or whose context was killed: KILLED, and no write-back (R59). -/
def State.killTask (s : State) (c k : Nat) : State :=
  let w := s.warp c k
  match w.task with
  | none => s.endWarp c k
  | some t =>
    let s := s.endWarp c k
    let s := s.own (wbKey t.e.key) []
    if t.e.nofut then s.releaseAdm c w.id.job t.e.adm
    else
      s.deviceFill w.id.part w.id.job c (BitVec.ofNat 64 t.e.fut) 0 FS_KILLED (some (BitVec.ofNat 64 t.e.word)) t.e.adm

/-! ## TRET and EXIT -/

/-- Has the warp a shuttle command, an MMA, or another issued instruction that is not complete? -/
def State.busy (s : State) (c k : Nat) : Bool :=
  let w := s.warp c k
  !w.log.isEmpty || !w.fdsq.isEmpty ||
  (s.core c).cmds.any (fun p => p.2.slot == k && p.2.sgen == w.gen) ||
  s.mma.any fun p => p.2.any fun m => m.core == c && m.slot == k && m.sgen == w.gen

/-- TRET ends the task that the warp runs (R325). -/
def execTret (a : SReg) (s : State) : Host.Outcome State Fault Refusal :=
  let w := s.cw
  let c := s.cur.1
  let k := s.cur.2
  if w.task.isNone then .next (s.stopNow true (.trap { cause := ILLEGAL, sub := 5 }))
  else if s.busy c k || !s.hasRoom (.tret a) then .next s
  else .next ((s.retire w).startFinish c k { val := w.rdS a.val })

/-- The lanes of x leave; answers whether the warp ends (R40). -/
def Warp.laneExit (w : Warp) (x : W64) : Bool × Warp :=
  let t := w.ctl
  let live := t.live &&& ~~~x
  let exec := t.exec &&& live
  let u : Ctl := { t with live := live, exec := exec, path := t.path &&& live }
  if live = 0 then (true, { w with ctl := u })
  else if exec ≠ 0 then (false, { w with ctl := { u with pc := t.pc + 4 } })
  else
    match t.stk with
    | [] => (true, { w with ctl := u })
    | e :: _ => (false, { w with ctl := { u with pc := e.rpc } })

/-- The outstanding work that an ending warp waits for: a task warp for its commands too (R280, log 18). -/
def State.endBusy (s : State) (c k : Nat) : Bool :=
  let w := s.warp c k
  if w.id.task then s.busy c k
  else
    !w.log.isEmpty || !w.fdsq.isEmpty || s.mma.any fun p => p.2.any fun m => m.core == c && m.slot == k && m.sgen == w.gen

/-- A warp's lanes have all retired: it ends, a task as TRET ends it but with no fill (R280). -/
def State.warpOver (s : State) (c k : Nat) : State :=
  if (s.warp c k).id.task then s.startFinish c k { fill := false } else s.endWarp c k

end Sys2Proof.Machine
end

