-- ==== Sys2Proof/Machine/Traps.lean ====
section
/-! DEFINITION. Handler warps (R214 to R216), the return from a trap (R217, R218), TRES and TREC (R282, R283), and EXIT
(R280). -/

namespace Sys2Proof.Machine

/-! ## Return from a trap (R217, R218) -/

/-- The lanes of a warp's latest trap that were resolved in one way. -/
def Trapped.lanesAs (t : Trapped) (r : Resolution) : W64 :=
  maskOf ((t.res.keep fun _ x => x == r).keys)

/-- The lanes X of R218 that take part in the re-execution, after the killed lanes have left. -/
def resumeLanes (t : Trapped) (live : W64) : W64 :=
  if t.uniform then (if t.lanesAs .resume &&& live = 0 then 0 else t.active &&& live)
  else t.active &&& ~~~(t.lanesAs .kill) &&& ~~~(t.lanesAs .skip)

/-- RETURNING FROM AN EXCEPTION: origin_resume() (R218). A deferred instruction goes back to the operand log, to be replayed
from its logged operands in the lanes X. -/
def State.originResume (s : State) (c k : Nat) : State :=
  let w := s.warp c k
  let t := w.trap
  let live := w.ctl.live &&& ~~~(t.lanesAs .kill)
  let ctl : Ctl := { w.ctl with live := live, exec := w.ctl.exec &&& live, path := w.ctl.path &&& live }
  let w := { w with ctl := ctl, st := .active, trap := { t with recs := [], res := [], entry := none } }
  let on := fun (w : Warp) => s.setWarp c k w
  if live = 0 then (on { w with st := .held }).killTask c k
  else if t.cause.toNat = CAPSULE_LIMIT ∨ t.cause.toNat = CAPSULE_ABORT then on (w.setPc t.cont)
  else
    let x := resumeLanes t live
    if x = 0 then on (w.setPc t.cont)
    else
      match t.entry with
      | none => on { w.setPc t.pc with ctl := { ctl with pc := t.pc, reexec := some x } }
      | some e =>
        on { w.setPc t.cont with log := { e with active := x, pages := [], dead := none, replay := true } :: w.log }

/-- Resolves one origin; its warp leaves HELD when every trapped lane is resolved (R217, R218). -/
def State.resolve (c : Nat) (r : Resolution) (s : State) (o : Origin) : State :=
  let w := s.warp c o.slot
  if w.gen = o.sgen ∧ w.st = .held then
    let res := w.trap.res.ins o.lane r
    let s := s.setWarp c o.slot { w with trap := { w.trap with res := res } }
    if (lanesIn 64 w.trap.mask).all fun l => res.has l then s.originResume c o.slot else s
  else s

/-! ## Handler warps (R214 to R216) -/

/-- The two handler slots of a core. -/
def handlerSlots : List Nat := [64, 65]

/-- A handler warp for some origins of a cause (R215, R216). -/
def handlerWarp (jb : Job) (j : Nat) (entry : Nat) (os : List PendingOrigin) : Warp :=
  let m := laneMask os.length
  { id := { part := jb.part, job := j, width := jb.r.width, prio := 3, handler := true, grid := jobGrid jb.r }
    ctl := { pc := BitVec.ofNat 64 (jb.r.code + entry), exec := m, live := m, path := m }
    origins := os.zipIdx.map fun p => (p.2, p.1.origin) }

/-- Starts a handler warp for the oldest origins of a cause; where the cause has no entry the context is stopped with
UNHANDLED_TRAP (R216). -/
def State.startHandler (s : State) (c k : Nat) (cause : Byte) : State :=
  let x := s.core c
  let j := s.occJob c
  let jb := s.job j
  let mine := x.pend.filter fun o => o.cause == cause
  let os := mine.take jb.r.width
  match jb.handlers.look cause.toNat with
  | none =>
    let pc := match mine with
      | o :: _ => (s.warp c o.origin.slot).trap.pc.toNat
      | [] => 0
    s.stopJob j { reason := 3, info := BitVec.ofNat 64 (cause.toNat + 2 ^ 8 * (pc / 4)) }
  | some entry =>
    let rest := x.pend.filter fun o => decide (o ∉ os)
    (s.setCore c { x with pend := rest }).placeWarp c k (handlerWarp jb j entry os)

/-- The causes with pending origins of a core, the oldest origin's first. -/
def Core.causes (x : Core) : List Byte := (x.pend.map PendingOrigin.cause).foldl addNew []

/-- Does a cause qualify without waiting (R215)? -/
def State.qualifies (s : State) (c : Nat) (cause : Byte) : Bool :=
  let x := s.core c
  decide ((s.job (s.occJob c)).r.width ≤ (x.pend.filter fun o => o.cause == cause).length) ||
  !(List.range 64).any fun k => (s.warp c k).st == .active

/-- The free handler slot of a core. -/
def State.freeHandler (s : State) (c : Nat) : Option Nat := handlerSlots.find? fun k => (s.warp c k).st == .free

/-- Handler warps that start without waiting, at most as many as there are slots (R215). -/
def State.startHandlers (c : Nat) : Nat → State → State
  | 0, s => s
  | n + 1, s =>
    if ((s.job (s.occJob c)).stop).isSome then s
    else
      match s.freeHandler c, (s.core c).causes.find? fun cause => s.qualifies c cause with
      | some k, some cause => State.startHandlers c n (s.startHandler c k cause)
      | _, _ => s

/-- Has an origin of a core waited 64 cycles of its cluster's clock, 900 MHz and 50 MHz a step, by the 1.5 GHz tick counter
(R2, R215, R411)? -/
def State.aged (s : State) (c : Nat) (o : PendingOrigin) : Bool :=
  decide (64 * 1500 ≤ (s.tick - o.tick) * (900 + 50 * s.clocks.getD (clusterOf c) 12))

/-- The oldest pending origin of a cause. -/
def Core.oldestOf (x : Core) (cause : Byte) : Option PendingOrigin := x.pend.find? fun o => o.cause == cause

/-- ORIGIN_AGE_EXPIRY: the oldest pending origin of a cause has waited 64 cycles, and a handler warp starts for the cause
(R215); a context that is stopped starts none (R223). -/
def execOriginAgeExpiry (c : CoreId) (s : State) : Host.Outcome State Fault Refusal :=
  let x := s.core c.val
  let old := x.causes.find? fun cause => (x.oldestOf cause).any (s.aged c.val)
  match s.freeHandler c.val, old with
  | some k, some cause =>
    eventIf ((s.job (s.occJob c.val)).stop).isNone "ORIGIN_AGE_EXPIRY" (s.startHandler c.val k cause)
  | _, _ => .refused (.notEnabled "ORIGIN_AGE_EXPIRY")

/-! ## TRES (R282) -/

/-- The resolution that TRES names. -/
def resolutionOf (n : Nat) : Resolution := match n with | 0 => .resume | 1 => .skip | _ => .kill

/-- The lanes leave the current warp, which ends when none is left. -/
def State.exitLanes (s : State) (x : W64) : State :=
  let (ends, w) := s.cw.laneExit x
  let s := s.setCw w
  if ends then s.warpOver s.cur.1 s.cur.2 else s

/-- Origins of handler lanes that retire without TRES are killed, and counted (R217). -/
def State.dropOrigins (s : State) (w : Warp) (x : W64) : State :=
  if w.id.handler then
    (lanesIn 64 x).foldl (fun (s : State) l =>
      match w.origins.look l with
      | some o => (s.resolve s.cur.1 .kill o).countEvent s.cur.1 evNoTres 1
      | none => s) s
  else s

/-- TRES resolves the origins of the active lanes, every earlier access performed, and retires those lanes. Where that
ends the warp, its other live lanes retire without TRES (R40, R217). -/
def execTres (a : VReg) (s : State) : Host.Outcome State Fault Refusal :=
  let w := s.cw
  let go : Res Unit := do
    w.has [a.val]
    need w.id.handler ILLEGAL 5
    need (w.lanes.all fun l => (w.rdV a.val l).toNat % 4 != 3) ILLEGAL 5
  match go with
  | .error e => .next (s.stopNow false e)
  | .ok _ =>
    if s.endBusy s.cur.1 s.cur.2 then .next s
    else
      let c := s.cur.1
      let t := w.lanes.foldl (fun (s : State) l =>
        match w.origins.look l with
        | some o => s.resolve c (resolutionOf ((w.rdV a.val l).toNat % 4)) o
        | none => s) ((s.retire w).farAll c s.cur.2)
      let t := if (w.laneExit w.active).1 then t.dropOrigins w (w.ctl.live &&& ~~~ w.active) else t
      .next (t.exitLanes w.active)

/-! ## TREC (R283) -/

/-- Doubleword k of a trap record (R209). -/
def recWord (r : TrapRec) (k : Nat) : W64 :=
  match k with
  | 0 => BitVec.ofNat 64 (r.cause.toNat + 2 ^ 8 * r.sub.toNat + 2 ^ 16 * r.lane + (if r.defer then 2 ^ 22 else 0) +
      2 ^ 32 * r.word.toNat)
  | 1 => r.pc
  | 2 => r.cont
  | 3 => r.d0
  | 4 => r.d1
  | 5 => r.d2
  | 6 => r.tick
  | _ => r.mask

/-- The predicates p0 to p7 of a lane as bits 7:0. -/
def Warp.predByte (w : Warp) (l : Nat) : Nat :=
  (List.range 8).foldl (fun n k => n + if (w.regs.rdP k).getLsbD l then 2 ^ k else 0) 0

/-- What an item of an origin reads; none for a selector outside the table. -/
def Warp.recItem (w : Warp) (o : Origin) (n : Nat) : Option W64 :=
  if n < 8 then some (recWord (w.trap.recs.getD o.lane {}) n)
  else if 0x100 ≤ n ∧ n < 0x180 then
    if n - 0x100 < w.vregs then some ((w.rdV (n - 0x100) o.lane).setWidth 64) else none
  else if 0x200 ≤ n ∧ n < 0x240 then some (w.rdS (n - 0x200))
  else if n = 0x300 then some (BitVec.ofNat 64 (w.predByte o.lane))
  else if n = 0x301 then some w.ctl.wmode
  else if n = 0x302 then some w.ctl.exec
  else none

/-- May an item take a value? -/
def recWritable (n : Nat) (x : W64) : Bool :=
  !decide (n < 8) && n != 0x302 && (n != 0x301 || wmodeOk x)

/-- An item takes a value. -/
def Warp.recWrite (w : Warp) (o : Origin) (n : Nat) (x : W64) : Warp :=
  if 0x100 ≤ n ∧ n < 0x180 then w.wrV (n - 0x100) o.lane (x.setWidth 32)
  else if 0x200 ≤ n ∧ n < 0x240 then w.wrS (n - 0x200) x
  else if n = 0x300 then
    (List.range 8).foldl (fun w k => w.wrP k (laneBit o.lane) (if x.getLsbD k then laneBit o.lane else 0)) w
  else if n = 0x301 then w.setMode x
  else w

/-- The 64-bit value of a lane's register pair. -/
def Warp.rdV2 (w : Warp) (k l : Nat) : W64 := BitVec.ofNat 64 ((w.rdV k l).toNat + 2 ^ 32 * (w.rdV (k + 1) l).toNat)

/-- The origin of a handler lane and the item that its selector names, when TREC accepts it. -/
def State.trecItem (s : State) (w : Warp) (a b l : Nat) : Option (Origin × Nat × W64 × Option W64) :=
  match w.origins.look l with
  | none => none
  | some o =>
    let sel := (w.rdV a l).toNat
    let n := sel % 2 ^ 16
    let write := sel.testBit 16
    let x := w.rdV2 b l
    match (s.warp s.cur.1 o.slot).recItem o n with
    | none => none
    | some v =>
      if sel / 2 ^ 17 ≠ 0 ∨ (write && !recWritable n x) then none
      else some (o, n, v, if write then some x else none)

/-- The register elements of an origin that an item names, as `Warp.bad` has them. -/
def itemElems (o : Origin) (n : Nat) : List Nat :=
  if 0x100 ≤ n ∧ n < 0x180 then [64 * (n - 0x100) + o.lane]
  else if 0x200 ≤ n ∧ n < 0x240 then [8192 + 2 * (n - 0x200), 8192 + 2 * (n - 0x200) + 1]
  else []

/-- TREC (R283). An uncorrectable register element of an origin stops the context (R124). -/
def execTrec (d a b : VReg) (s : State) : Host.Outcome State Fault Refusal :=
  let w := s.cw
  commitS s false do
    w.has [d.val, d.val + 1, a.val, b.val, b.val + 1]
    aligned 2 [d.val, b.val]
    need w.id.handler ILLEGAL 5
    need (w.lanes.all fun l => (s.trecItem w a.val b.val l).isSome) ILLEGAL 5
    let items := w.lanes.filterMap fun l => (s.trecItem w a.val b.val l).map fun q => (l, q)
    match items.findSome? fun p => (itemElems p.2.1 p.2.2.1).find? (s.warp s.cur.1 p.2.1.slot).bad.has with
    | some key => .error (.poison (2 ^ 61 + key))
    | none => .ok ()
    let w' := items.foldl (fun (w : Warp) p =>
      let v : W64 := p.2.2.2.1
      (w.wrV d.val p.1 (v.setWidth 32)).wrV (d.val + 1) p.1 ((v >>> 32).setWidth 32)) w
    let s := s.setCw w'.advance
    .ok (items.foldl (fun (s : State) p =>
      match p.2.2.2.2 with
      | some x =>
        let o := p.2.1
        s.setWarp s.cur.1 o.slot ((s.warp s.cur.1 o.slot).recWrite o p.2.2.1 x)
      | none => s) s)

/-! ## EXIT (R280) -/

/-- EXIT invokes lane_exit() for the active lanes (R280). A warp that ends waits for its outstanding
instructions (log 18). -/
def execExit (s : State) : Host.Outcome State Fault Refusal :=
  let w := s.cw
  let (ends, _) := w.laneExit w.active
  if ends && s.endBusy s.cur.1 s.cur.2 then .next s
  else .next (((s.retire w).dropOrigins w (if ends then w.ctl.live else w.active)).exitLanes w.active)

end Sys2Proof.Machine
end

