-- ==== Sys2Proof/Machine/Capsule.lean ====
section
/-! DEFINITION. Capsules: records (R171), limits (R174), the slice's operations (R176), liveness and adoption (R177),
delivery (R178), displaced owners (R179), rebinds (R180), kill notices (R228), and the instructions of R326 to R333. -/

namespace Sys2Proof.Machine

/-! ## The record (R171) -/

structure CapRec where
  owner : Nat := 0
  /-- 0 FREE, 1 HELD, 2 ADOPTING -/
  st : Nat := 0
  step : Nat := 0
  adopt : Nat := 0
  entry : Nat := 0
  resume : Nat := 0
  rgen : Nat := 0
  iaddr : Nat := 0
  iwid : Nat := 0
  ival : Bool := false
  idata : Nat := 0
  ring : List Nat := []
  /-- the checkpoint c0 to c15 -/
  chk : List Nat := []
  deriving DecidableEq, Repr

def State.readRec (s : State) (place : Nat) : CapRec :=
  let g := fun o => s.readNat (place + o) 8
  { owner := g 0 % 2 ^ 48, st := g 0 / 2 ^ 48 % 4, step := g 0 / 2 ^ 50 % 2 ^ 7, adopt := g 0 / 2 ^ 57 % 8
    entry := g 8 % 2 ^ 32, resume := g 8 / 2 ^ 32 % 2 ^ 10, rgen := g 8 / 2 ^ 42
    iaddr := g 16 % 2 ^ 57, iwid := g 16 / 2 ^ 57 % 4, ival := (g 16).testBit 59, idata := g 24
    ring := (List.range 4).map fun i => g (32 + 8 * i), chk := (List.range 16).map fun i => g (64 + 8 * i) }

/-- OWNER and STATE as one number. -/
def CapRec.lock (r : CapRec) : Nat := r.owner + 2 ^ 48 * r.st

def CapRec.words (r : CapRec) : List Nat :=
  [r.lock + 2 ^ 50 * r.step + 2 ^ 57 * r.adopt, r.entry + 2 ^ 32 * r.resume + 2 ^ 42 * r.rgen,
   r.iaddr + 2 ^ 57 * r.iwid + (if r.ival then 2 ^ 59 else 0), r.idata] ++ r.ring ++ r.chk

/-- The home slice writes a record. -/
def State.writeRec (s : State) (place : Nat) (r : CapRec) : State :=
  ((s.obtainHome place).obtainHome (place + 128)).write place (r.words.flatMap (bytesOf 8))

/-- Does a record break R171's rules? -/
def State.recBad (s : State) (place : Nat) : Bool :=
  let g := fun o => s.readNat (place + o) 8
  decide (2 ^ 60 ≤ g 0) || g 0 / 2 ^ 48 % 4 == 3 || g 8 % 4 != 0 || decide (2 ^ 60 ≤ g 16) ||
  (s.read (place + 192) 64).any (· != 0)

/-- c0 to c15 of a warp. -/
def Warp.caps (w : Warp) : List Nat := (List.range 16).map fun i => (w.regs.rdC i).toNat

def Warp.setCaps (w : Warp) (xs : List Nat) : Warp :=
  { w with regs := xs.zipIdx.foldl (fun r p => r.wrC p.2 (BitVec.ofNat 64 p.1)) w.regs }

/-- Reads a record at its home slice as an acquire at PACKAGE scope. -/
def State.acquireRec (s : State) (c place : Nat) : State :=
  ((s.atomLine c place true false).atomLine c (place + 128) true false).selfInvalidate c

/-! ## Endings at the slice (R176, R178) -/

/-- Delivers to every displaced owner (R178). -/
def State.deliver (s : State) (part job c status : Nat) (r : CapRec) : State :=
  (r.ring.take (min r.adopt 4)).foldl (fun s a =>
    s.deviceFill part job c (BitVec.ofNat 64 a) (BitVec.ofNat 64 (r.chk.getD 0 0)) status none 0) (s.drain c)

/-- The record as an ending leaves it. -/
def CapRec.released (r : CapRec) : CapRec :=
  { r with owner := 0, st := 0, step := 0, adopt := 0, ival := false, ring := [0, 0, 0, 0], rgen := (r.rgen + 1) % 2 ^ 22 }

/-- The slice frees a record whose instance has ended, and delivers (R176, R178). -/
def State.endRec (s : State) (part job c place status : Nat) (r : CapRec) : State :=
  let s := s.writeRec place r.released
  { s.deliver part job c status r with capJobs := s.capJobs.del r.owner }

/-- The identity of the warp in a slot. -/
def State.me (s : State) (c k : Nat) : Nat := s.identity c k (s.warp c k).gen

/-! ## Displaced owners (R179) -/

/-- A displaced owner whose save area is full takes c0 and the status, and goes on at its return address. -/
def State.takeArea (s : State) (c k : Nat) (cp : Capsule) : State :=
  let w := s.warp c k
  match s.wordAt c w.id.part .tagRead cp.save.toNat with
  | .at place =>
    if s.tag (place + 8) then
      let (val, st, s) := s.readFuture c place
      let w := { (w.wrS cp.dest st).setPc cp.ret with cap := none, st := .active, wait := .none }.issued
      (s.setWarp c k { w with regs := w.regs.wrC 0 val }).pulse w.id.job
    else s
  | _ => s

/-- displaced(): the pending store is discarded and the warp sleeps until its save area is full. -/
def State.displaced (s : State) (c k : Nat) (cp : Capsule) : State :=
  let w := s.warp c k
  let cp := { cp with store := none, lost := false, pages := [], dead := false }
  (s.setWarp c k { w.slept (.area cp.save) with cap := some cp }).takeArea c k cp

/-- The current capsule access waits for pages; the warp stays ACTIVE (R177). -/
def State.capsulePages (s : State) (c k : Nat) (cp : Capsule) (qs : List PageReq) : State :=
  let w := s.warp c k
  let (ps, fs) := fileAll w.id.part (unitOfCore c) (coreBit c) s.tick qs s.faults
  { s with faults := fs }.setWarp c k { w with cap := some { cp with pages := ps } }

/-- Acts at the record of a warp's capsule, whose page is translated now (R407). While the page does not translate the warp
waits for it, and tries again; once a page was declared unresolvable the record cannot be reached (log 107). -/
def State.onRec (s : State) (c k : Nat) (cp : Capsule) (gone : State) (run : Nat → State) : State :=
  match s.translate c (s.warp c k).id.part false .atomic cp.record.toNat with
  | .ok place _ _ => run place
  | .fault perm => if cp.dead then gone else s.capsulePages c k cp [pageOf cp.record.toNat .atomic perm]

/-- A warp's capsule is over, and its CENTER's destination holds 2; then it traps in the capsule lane (R208). -/
def State.capsuleTrap (s : State) (c k : Nat) (cp : Capsule) (cause sub : Nat) : State :=
  let w := s.warp c k
  let s := s.setWarp c k { w.wrS cp.dest 2 with cap := none, st := .active, wait := .none }
  s.takeTrap c k { cause := cause, sub := sub, mask := some (laneBit cp.lane) } true (laneBit cp.lane) s.curWord
    w.ctl.pc cp.ret none

/-- The instance ends with a trap: CABORT's ending first, then the trap; where the record is lost, no trap
(R174, R208). -/
def State.capsuleFail (s : State) (c k : Nat) (cp : Capsule) (cause sub : Nat) : State :=
  let w := s.warp c k
  s.onRec c k cp (s.capsuleTrap c k cp cause sub) fun place =>
    let r := s.readRec place
    if r.owner = s.me c k then (s.endRec w.id.part w.id.job c place 2 r).capsuleTrap c k cp cause sub
    else s.displaced c k cp

/-! ## Running inside a capsule (R174, R326) -/

/-- Does a capsule's fetch leave its code (R174)? -/
def Capsule.outside (cp : Capsule) (pc : Nat) : Bool := decide (pc < cp.entry.toNat) || decide (cp.entry.toNat + 4092 < pc)

/-- Are the instructions of a capsule's step, or its steps, at their limit (R174)? -/
def Capsule.full (cp : Capsule) : Bool := decide (32 ≤ cp.count) || decide (64 ≤ cp.step)

/-- Has the capsule come to a limit before its next instruction: its code, its instructions, its steps? -/
def Warp.capsuleLimit (w : Warp) (cp : Capsule) : Bool := cp.outside w.ctl.pc.toNat || cp.full

/-- The current warp's capsule comes to a limit (R174, R181). -/
def State.limitNow (s : State) (cp : Capsule) : State := s.capsuleFail s.cur.1 s.cur.2 cp CAPSULE_LIMIT 0

/-- An illegal operand inside a capsule traps in the capsule lane (R174). -/
def State.capsuleIllegal (s : State) (cp : Capsule) : State :=
  s.stopNow true (.trap { cause := ILLEGAL, sub := 5, mask := some (laneBit cp.lane) })

/-- How a capsule instruction begins: SUB 5 outside a capsule, the limits inside. The capsule given to `run`
counts the instruction. -/
def insideCapsule (s : State) (run : Capsule → Host.Outcome State Fault Refusal) : Host.Outcome State Fault Refusal :=
  let w := s.cw
  match w.cap with
  | none => .next (s.stopNow true (.trap { cause := ILLEGAL, sub := 5 }))
  | some cp => if w.capsuleLimit cp then .next (s.limitNow cp) else run { cp with count := cp.count + 1 }

/-- The current warp's capsule instruction is done. -/
def capsuleDone (s : State) (w : Warp) (cp : Capsule) : Host.Outcome State Fault Refusal :=
  commitS s true (.ok (s.setCw { w.advance with cap := some cp }))

/-! ## CALU and CMOV -/

def caluOp (o : Nat) (x y : W64) : W64 :=
  match o with
  | 0 => x + y
  | 1 => x - y
  | 2 => x &&& y
  | 3 => x ||| y
  | 4 => x ^^^ y
  | 5 => x <<< (y.toNat % 64)
  | 6 => x >>> (y.toNat % 64)
  | _ => if x.toNat < y.toNat then 1 else 0

def execCalu (d a : CReg) (o : Fin 8) (b : CReg) (s : State) : Host.Outcome State Fault Refusal :=
  insideCapsule s fun cp =>
    let w := s.cw
    let r := caluOp o.val (w.regs.rdC a.val) (w.regs.rdC b.val)
    capsuleDone s { w with regs := w.regs.wrC d.val r } { cp with cf := r != 0 }

/-- CMOV's forms 2 and 3, permitted inside and outside a capsule; forms 0 and 1 come to the limit inside (R329). -/
def cmovOp (inside : Bool) (f : Warp → Warp) (s : State) : Host.Outcome State Fault Refusal :=
  let w := s.cw
  match w.cap with
  | none => commitW s true (.ok (f w).advance)
  | some cp =>
    if !inside || w.capsuleLimit cp then .next (s.limitNow cp)
    else capsuleDone s (f w) { cp with count := cp.count + 1 }

def execCmovCs (d : CReg) (a : SReg) (s : State) : Host.Outcome State Fault Refusal :=
  cmovOp false (fun w => { w with regs := w.regs.wrC d.val (w.rdS a.val) }) s

def execCmovSc (d : SReg) (a : CReg) (s : State) : Host.Outcome State Fault Refusal :=
  cmovOp false (fun w => w.wrS d.val (w.regs.rdC a.val)) s

def execCmovCc (d a : CReg) (s : State) : Host.Outcome State Fault Refusal :=
  cmovOp true (fun w => { w with regs := w.regs.wrC d.val (w.regs.rdC a.val) }) s

/-- The immediate of CMOV's form 3 (R329). -/
def cmovImm (i : BitVec 7) (j : BitVec 5) : W64 := (i ++ j).signExtend 64

def execCmovCi (d : CReg) (i : BitVec 7) (j : BitVec 5) (s : State) : Host.Outcome State Fault Refusal :=
  cmovOp true (fun w => { w with regs := w.regs.wrC d.val (cmovImm i j) }) s

/-! ## CLD and CST (R331) -/

/-- The current capsule access fails: CAPSULE_ABORT with the cause (R208). -/
def State.abortNow (s : State) (cp : Capsule) (cause : Nat) : State :=
  s.capsuleFail s.cur.1 s.cur.2 cp CAPSULE_ABORT cause

/-- The cause that an address meets before translation (R331). -/
def capAddr (a n : Nat) : Option Nat :=
  if a % n ≠ 0 then some ALIGNMENT else if 2 ^ 57 ≤ a then some ACCESS else none

/-- The bytes of a load, those of the pending store over those of the slice. -/
def mergePending (cp : Capsule) (a : Nat) (bs : List Byte) : List Byte :=
  match cp.store with
  | none => bs
  | some (p, w, v) =>
    let mine := bytesOf (2 ^ w) v.toNat
    bs.zipIdx.map fun q =>
      if p.toNat ≤ a + q.2 ∧ a + q.2 < p.toNat + 2 ^ w then mine.getD (a + q.2 - p.toNat) 0 else q.1

def execCld (d a : CReg) (wd : Fin 4) (s : State) : Host.Outcome State Fault Refusal :=
  insideCapsule s fun cp =>
    let w := s.cw
    let va := (w.regs.rdC a.val).toNat
    let n := 2 ^ wd.val
    match capAddr va n with
    | some cause => .next (s.abortNow cp cause)
    | none =>
      if cp.dead then .next (s.abortNow cp ACCESS)
      else
        match s.translate s.cur.1 w.id.part false .read va with
        | .fault perm =>
          .next (s.capsulePages s.cur.1 s.cur.2 { cp with count := cp.count - 1 } [pageOf va .read perm])
        | .ok place _ _ =>
          if s.owned.has (lineOf place) then .next s
          else
            let s := ((s.charge s.cur.1 n).atomLine s.cur.1 (lineOf place) true false).selfInvalidate s.cur.1
            if s.poisoned place n then .next (s.poisonNow place) else
            let v := natOf (mergePending cp va (s.read place n))
            capsuleDone s { s.cw with regs := s.cw.regs.wrC d.val (BitVec.ofNat 64 v) } cp

def execCst (a : CReg) (wd : Fin 4) (v : CReg) (s : State) : Host.Outcome State Fault Refusal :=
  insideCapsule s fun cp =>
    let w := s.cw
    let va := w.regs.rdC a.val
    if cp.store.isSome then .next (s.limitNow cp)
    else
      match capAddr va.toNat (2 ^ wd.val) with
      | some cause => .next (s.abortNow cp cause)
      | none => capsuleDone s w { cp with store := some (va, wd.val, w.regs.rdC v.val) }

/-! ## CBR (R332) -/

def execCbr (i : BitVec 25) (s : State) : Host.Outcome State Fault Refusal :=
  insideCapsule s fun cp =>
    let w := s.cw
    if i.toInt < 1 ∨ 1023 < i.toInt then .next (s.capsuleIllegal cp)
    else if cp.cf then commitS s true (.ok (s.setCw { w.setPc (w.ctl.pc + dispC i) with cap := some cp }))
    else capsuleDone s w cp

/-! ## The pending intent (R176) -/

/-- How the application of an intent ends. -/
inductive Applied where
  | done (s : State)
  | fault (q : PageReq)
  | bad (cause : Nat)
  | busy

/-- Stores an intent at its address's home slice as a release at PACKAGE scope (R176, R177). -/
def State.applyIntent (s : State) (c part : Nat) (r : CapRec) : Applied :=
  let n := 2 ^ r.iwid
  if !r.ival then .done s
  else
    match capAddr r.iaddr n with
    | some cause => .bad cause
    | none =>
      match s.translate c part false .write r.iaddr with
      | .fault true => .bad ACCESS
      | .fault false => .fault (pageOf r.iaddr .write false)
      | .ok place _ _ =>
        if s.owned.has (lineOf place) then .busy
        else
          let s := (s.charge c n).atomLine c (lineOf place) false true
          .done (s.slicePut part place (bytesOf n r.idata))

/-! ## CSTEP, CEND, CABORT (R176, R333) -/

/-- The end of an accepted commit, its intent performed: the step begins anew, or the instance ends. -/
def State.commitEnd (s : State) (op : Nat) (cp : Capsule) (place : Nat) : State :=
  let w := { s.cw with st := .active, wait := .none }
  if op = 0 then
    s.retire { w.advance with cap := some { cp with step := cp.step + 1, count := 0, store := none, cf := false, pages := [] } }
  else
    let s := s.endRec w.id.part w.id.job s.cur.1 place 1 (s.readRec place)
    s.retire { (w.wrS cp.dest 0).setPc cp.ret with cap := none }

/-- The intent of an accepted commit is performed; the commit then ends. A resolvable fault stalls the warp, which stays
ACTIVE. -/
def State.commitApply (s : State) (op : Nat) (cp : Capsule) : State :=
  let w := s.cw
  let wait := s.setCw { w with wait := .commit op true, cap := some cp }
  wait.onRec s.cur.1 s.cur.2 cp (wait.abortNow cp ACCESS) fun place =>
    match s.applyIntent s.cur.1 w.id.part (s.readRec place) with
    | .done s => s.commitEnd op cp place
    | .busy => wait
    | .fault q => if cp.dead then wait.abortNow cp ACCESS else wait.capsulePages s.cur.1 s.cur.2 cp [q]
    | .bad cause => wait.abortNow cp cause

/-- Does the slice accept a commit of the warp's next step (R176)? -/
def State.commitOk (s : State) (cp : Capsule) (place : Nat) : Bool :=
  let r := s.readRec place
  r.owner == s.me s.cur.1 s.cur.2 && cp.step == r.step && r.st == 1

/-- The record as an accepted commit leaves it. RESUME of a commit at word offset 1,023, which its 10 bits cannot hold one
more than, is 0: the spec does not say (log 106). -/
def CapRec.committed (r : CapRec) (w : Warp) (cp : Capsule) : CapRec :=
  let p := cp.store.getD (0, 0, 0)
  { r with
    chk := w.caps, step := r.step + 1, resume := ((w.ctl.pc - cp.entry).toNat / 4 + 1) % 2 ^ 10
    ival := cp.store.isSome, iaddr := p.1.toNat, iwid := p.2.1, idata := p.2.2.toNat }

/-- The slice's answer to a CSTEP, CEND or CABORT of the current warp (R176). -/
def State.commitSlice (s : State) (op : Nat) (cp : Capsule) : State :=
  let (c, k) := s.cur
  let w := s.cw
  s.onRec c k cp (s.abortNow cp ACCESS) fun place =>
    let r := s.readRec place
    if op = 2 ∧ r.owner = s.me c k then
      let s := s.endRec w.id.part w.id.job c place 2 r
      s.retire { (w.wrS cp.dest 2).setPc cp.ret with cap := none, st := .active, wait := .none }
    else if op ≠ 2 ∧ s.commitOk cp place then (s.writeRec place (r.committed w cp)).commitApply op { cp with dead := false }
    else s.displaced c k cp

/-- CSTEP, CEND and CABORT release at PACKAGE scope and send their request, which the slice may answer at once or
later. -/
def commitOp (op : Nat) (s : State) : Host.Outcome State Fault Refusal :=
  insideCapsule s fun cp =>
    if !s.cw.log.isEmpty then .next s
    else
      let s := s.fenceRelease s.cw s.cur.1 s.cur.2 3
      let (late, s) := s.takeLate
      let s := s.setCw { s.cw with wait := .commit op false, cap := some cp }
      .next (if late then s else s.commitSlice op cp)

def execCstep (s : State) : Host.Outcome State Fault Refusal := commitOp 0 s
def execCend (s : State) : Host.Outcome State Fault Refusal := commitOp 1 s
def execCabort (s : State) : Host.Outcome State Fault Refusal := commitOp 2 s

/-- The slice answers a request that is outstanding, or an accepted commit's intent is tried again. A restored owner's waits
for its rebind; one that lost the record is displaced (R179, R180). -/
def commitEvent (op : Nat) (name : String) (c k : Nat) (s : State) : Host.Outcome State Fault Refusal :=
  let w := s.warp c k
  match w.wait, w.cap with
  | .commit o accepted, some cp =>
    if o = op ∧ w.st = .active ∧ cp.pages.isEmpty ∧ cp.rebind.isNone then
      let s := { s with cur := (c, k), curWord := w.word }
      .next (if cp.lost then s.displaced c k cp else if accepted then s.commitApply op cp else s.commitSlice op cp)
    else .refused (.notEnabled name)
  | _, _ => .refused (.notEnabled name)

def execCapsuleCommit (c : CoreId) (slot : SlotNo) (s : State) := commitEvent 0 "CAPSULE_COMMIT" c.val slot.val s
def execCapsuleEnd (c : CoreId) (slot : SlotNo) (s : State) := commitEvent 1 "CAPSULE_END" c.val slot.val s
def execCapsuleAbortRequest (c : CoreId) (slot : SlotNo) (s : State) :=
  commitEvent 2 "CAPSULE_ABORT_REQUEST" c.val slot.val s

/-! ## CENTER (R327) -/

/-- The record and the save area of a CENTER. -/
structure Enter where
  place : Nat
  va : W64
  save : W64
  d : Nat

/-- The checks of CENTER, in order, with the save area's place; the record is read as an acquire at PACKAGE scope
(R171, R327). -/
def State.centerChecks (s : State) (x : Ctx) (d a b : Nat) : Res (Enter × Nat × State) := do
  let q ← s.uaddr x a b 256 256 true
  let dq := BitVec.ofNat 64 q
  needDet (recSpace (x.bufRec a) == SP_GLOBAL) ACCESS 10 dq 0 0
  let sv := x.w.regs.rdS (b + 1)
  need (sv != 0) ILLEGAL 5
  needDet (sv.toNat % 16 == 0) ALIGNMENT 0 sv 0 0
  let area ← match s.wordAt x.c x.w.id.part .tagWrite sv.toNat with
    | .untagged => raiseDet ACCESS 8 sv 0 0
    | .fault p => .error (.fault [p])
    | .at place => .ok place
  let (place, _) ← s.global x.c x.w.id.part .atomic q
  if s.owned.has place || s.owned.has (place + 128) || s.owned.has (lineOf area) then .error .stall
  else
    let s := s.acquireRec x.c place
    if s.poisoned place 256 then .error (.poison place)
    else do
      needDet (!s.recBad place) ACCESS 9 dq 0 0
      .ok ({ place := place, va := dq, save := sv, d := d }, area, s)

/-- Both tags of a save area are emptied (R172). -/
def State.emptyArea (s : State) (place : Nat) : State :=
  ((s.obtainHome (lineOf place)).setTag place false).setTag (place + 8) false

/-- The current warp waits in CENTER for an answer. -/
def State.contend (s : State) (phase lock : Nat) (e : Enter) : State :=
  s.setCw { s.cw with st := .active, wait := .contend phase lock e.va e.save e.d }

/-- The capsule state that an entry sets up. -/
def State.newCapsule (s : State) (e : Enter) (r : CapRec) : Capsule :=
  let w := s.cw
  { record := e.va, save := e.save, ret := w.ctl.pc + 4, dest := e.d, step := r.step
    entry := BitVec.ofNat 64 ((s.job w.id.job).r.code + r.entry), lane := w.firstLane }

/-- The slice's records of who owns: an identity of a job takes the place of another (R177). -/
def State.ownerIs (s : State) (old me job : Nat) : State := { s with capJobs := (s.capJobs.del old).ins me job }

/-- CENTER's acquire at the slice (R176): owner, or the owner is probed. -/
def State.acquireCapsule (s : State) (e : Enter) : State :=
  let (c, k) := s.cur
  let s := s.acquireRec c e.place
  let w := s.cw
  let r := s.readRec e.place
  if r.st = 0 then
    let r :=
      { r with owner := s.me c k, st := 1, step := 0, adopt := 0, ring := e.save.toNat :: r.ring.drop 1, ival := false
               resume := 0, chk := w.caps }
    let cp := s.newCapsule e r
    ((s.writeRec e.place r).ownerIs r.owner r.owner w.id.job).setCw
      { w.setPc cp.entry with cap := some cp, adopted := false, st := .active, wait := .none }
  else s.contend 1 r.lock e

/-- CENTER retires when it has entered its capsule. -/
def State.entered (s : State) : State := if s.cw.cap.isSome then s.retire s.cw else s

/-- What CENTER does once every earlier instruction is complete: its checks, then its request, which the slice may answer at
once or later. From the operand log it acts at its own address and in its logged lanes (R219). -/
def performCenter (d a b : Nat) (x : Ctx) (s : State) : Res State := do
  let (e, area, s) ← s.centerChecks x d a b
  let s := { s with cur := (x.c, x.k) }
  let s := s.updWarp x fun w =>
    { w with ctl := { w.ctl with pc := x.w.ctl.pc, reexec := if x.logged then some x.active else w.ctl.reexec } }
  let (late, s) := (s.emptyArea area).takeLate
  .ok (if late then s.contend 0 0 e else s.acquireCapsule e)

/-- CENTER (R327): an ordering instruction that takes an operand-log entry as if its la were 0. -/
def execCenter (d : SReg) (a : BReg) (b : SReg) (s : State) : Host.Outcome State Fault Refusal :=
  let w := s.cw
  let op := LongOp.center d a b
  let lane := w.cap.map fun cp => laneBit cp.lane
  if b.val % 2 ≠ 0 then .next (s.stopNow true (.trap { cause := ILLEGAL, sub := 4, mask := lane }))
  else
    match w.cap with
    | some cp => .next (s.limitNow cp)
    | none =>
      if !w.log.isEmpty || !w.fdsq.isEmpty || !s.hasRoom op then .next s
      else if w.active = 0 then commitW s true (.ok (w.wrS d.val 3).advance)
      else
        match performCenter d.val a.val b.val s.ctx s with
        | .ok t => .next t.entered
        | .error (.fault ps) => .next (s.enterLog op 0 ps)
        | .error e => .next (s.stopNow true e)

/-! ## The slice's answers to a contender (R176, R177) -/

/-- The current warp issues CENTER again. -/
def State.centerAgain (s : State) : State := s.setCw { s.cw with st := .active, wait := .none }

/-- An event of a warp that waits in CENTER at some phases. Where the record's page translates no more, the warp issues
CENTER again. -/
def contendEvent (name : String) (phases : List Nat) (c k : Nat) (s : State) (run : Nat → Nat → Enter → State → State) :
    Host.Outcome State Fault Refusal :=
  let w := s.warp c k
  match w.wait with
  | .contend ph lock rec save d =>
    if w.st = .active ∧ ph ∈ phases then
      let s := { s with cur := (c, k), curWord := w.word }
      .next (match s.translate c w.id.part false .atomic rec.toNat with
        | .ok place _ _ => run ph lock { place := place, va := rec, save := save, d := d } s
        | .fault _ => s.centerAgain)
    else .refused (.notEnabled name)
  | _ => .refused (.notEnabled name)

/-- CAPSULE_ACQUIRE: the slice handles an outstanding acquire of a record. -/
def execCapsuleAcquire (c : CoreId) (slot : SlotNo) (rec save : BitVec 64) (s : State) :
    Host.Outcome State Fault Refusal :=
  match (s.warp c.val slot.val).wait with
  | .contend _ _ r v _ =>
    if r = rec ∧ v = save then
      contendEvent "CAPSULE_ACQUIRE" [0] c.val slot.val s fun _ _ e s => (s.acquireCapsule e).entered
    else .refused (.notEnabled "CAPSULE_ACQUIRE")
  | _ => .refused (.notEnabled "CAPSULE_ACQUIRE")

/-- What the probe of an owner finds: 2 live, 3 gone, 4 foreign (R177). -/
def State.probe (s : State) (job lock : Nat) : Nat :=
  let o := lock % 2 ^ 48
  let c := o / 2 ^ 27 % 4 + 4 * (o / 2 ^ 29 % 32) + 128 * (o / 2 ^ 34 % 4)
  let w := s.warp c (o / 2 ^ 21 % 64)
  if s.capJobs.look o ≠ some job then 4
  else if w.gen.toNat = o % 2 ^ 21 ∧ (w.st = .active ∨ w.st = .asleep ∨ w.st = .held) then 2
  else 3

/-- CAPSULE_PROBE: the owner's core answers. -/
def execCapsuleProbe (c : CoreId) (slot : SlotNo) (s : State) : Host.Outcome State Fault Refusal :=
  contendEvent "CAPSULE_PROBE" [1] c.val slot.val s fun _ lock e s => s.contend (s.probe s.cw.id.job lock) lock e

/-- The contender sleeps on the record's line 0, or, when OWNER or STATE has changed since, issues CENTER again. -/
def State.sleepRecord (s : State) (e : Enter) (lock : Nat) : State :=
  if (s.readRec e.place).lock = lock then s.setCw (s.cw.slept (.record e.va.toNat lock)) else s.centerAgain

/-- CAPSULE_PROBE_REPLY: after "gone" the contender requests adoption, else it sleeps. -/
def execCapsuleProbeReply (c : CoreId) (slot : SlotNo) (s : State) : Host.Outcome State Fault Refusal :=
  contendEvent "CAPSULE_PROBE_REPLY" [2, 3, 4] c.val slot.val s fun ph lock e s =>
    if ph = 3 then s.contend 5 lock e else s.sleepRecord e lock

/-- CAPSULE_ADOPT: the slice grants or refuses an adoption, and the adopter's save area is emptied (R172, R176). -/
def execCapsuleAdopt (c : CoreId) (slot : SlotNo) (s : State) : Host.Outcome State Fault Refusal :=
  contendEvent "CAPSULE_ADOPT" [5] c.val slot.val s fun _ lock e s =>
    let r := s.readRec e.place
    match s.wordAt s.cur.1 s.cw.id.part .tagWrite e.save.toNat with
    | .at area =>
      if r.owner = lock % 2 ^ 48 ∧ (r.st = 1 ∨ r.st = 2) ∧ r.adopt < 4 then
        let n := r.adopt + 1
        let me := s.me s.cur.1 s.cur.2
        let r' := { r with owner := me, st := 2, adopt := n, ring := if n ≤ 3 then r.ring.set n e.save.toNat else r.ring }
        let s := (s.emptyArea area).setCw { s.cw with cap := some (s.newCapsule e r') }
        ((s.writeRec e.place r').ownerIs r.owner me s.cw.id.job).contend 6 r'.lock e
      else s.sleepRecord e lock
    | _ => s.centerAgain

/-- The adopter re-applies the intent, loads the checkpoint and goes on; a resolvable fault stalls it, and it stays ACTIVE
(R177). -/
def State.adoptComplete (s : State) (cp : Capsule) : State :=
  let (c, k) := s.cur
  let w := s.cw
  s.onRec c k cp (s.abortNow cp ACCESS) fun place =>
    let s := s.acquireRec c place
    let r := s.readRec place
    if s.poisoned place 192 then s.poisonNow place else
    match (s.farRelease c k 3).applyIntent c w.id.part r with
    | .busy => s
    | .fault q => if cp.dead then s.abortNow cp ACCESS else s.capsulePages c k cp [q]
    | .bad cause => s.abortNow cp cause
    | .done s =>
      let s := if r.owner = s.me c k ∧ r.st = 2 then s.writeRec place { r with st := 1 } else s
      let w := (s.cw.setCaps r.chk).setPc (cp.entry + BitVec.ofNat 64 (4 * r.resume))
      s.retire { w with wait := .none, adopted := true, cap := some { cp with step := r.step, pages := [] } }

/-- CAPSULE_ADOPTION_COMPLETE (R176, R177). An adopter that was restored waits for its rebind, and is displaced where that
is lost (R180). -/
def execCapsuleAdoptionComplete (c : CoreId) (slot : SlotNo) (s : State) : Host.Outcome State Fault Refusal :=
  let w := s.warp c.val slot.val
  match w.wait, w.cap with
  | .contend 6 _ _ _ _, some cp =>
    let s := { s with cur := (c.val, slot.val), curWord := w.word }
    eventIf (w.st == .active && cp.pages.isEmpty && cp.rebind.isNone) "CAPSULE_ADOPTION_COMPLETE"
      (if cp.lost then s.displaced c.val slot.val cp else s.adoptComplete cp)
  | _, _ => .refused (.notEnabled "CAPSULE_ADOPTION_COMPLETE")

/-! ## Notices and rebinds (R177, R180, R228) -/

/-- A sleeper on a record's line, or a contender whose answer is on its way, issues CENTER again when a notice comes to the
line. -/
def State.wakeContender (s : State) (line c : Nat) (w : Warp) : Warp :=
  let at_ := fun va => match s.translate c w.id.part false .atomic va with
    | .ok place _ _ => place == line
    | .fault _ => true
  let wake := match w.wait with
    | .record va _ => at_ va
    | .contend ph _ rec _ _ => decide (1 ≤ ph) && decide (ph ≤ 4) && at_ rec.toNat
    | _ => false
  if wake then { w with st := .active, wait := .none } else w

/-- CAPSULE_DEPARTURE_NOTICE wakes a record's sleepers (R177). -/
def execCapsuleDepartureNotice (line : Nat) (s : State) : Host.Outcome State Fault Refusal :=
  if line ∈ s.notices then
    .next { s with notices := s.notices.erase line, slots := s.slots.mapV fun key w => s.wakeContender line (key / 128) w }
  else .refused (.notEnabled "CAPSULE_DEPARTURE_NOTICE")

/-- CAPSULE_KILL_NOTICE ends the instance as CABORT does, while OWNER still names the departed identity (R228). While the
record's page does not translate, the notice waits for it; one whose page was declared unresolvable reaches no record
(log 107). -/
def execCapsuleKillNotice (part : PartId) (rec : BitVec 64) (ident : BitVec 48) (s : State) :
    Host.Outcome State Fault Refusal :=
  match s.kills.find? fun q => q.part == part.val && q.va == rec.toNat && q.ident == ident.toNat && q.pages.isEmpty with
  | none => .refused (.notEnabled "CAPSULE_KILL_NOTICE")
  | some q =>
    let t := { s with kills := s.kills.erase q }
    match s.translate q.core part.val false .atomic rec.toNat with
    | .fault perm =>
      if q.dead then .next t
      else
        let (ps, fs) := fileAll q.part (unitOfCore q.core) (coreBit q.core) s.tick [pageOf q.va .atomic perm] s.faults
        .next { t with faults := fs, kills := t.kills ++ [{ q with pages := ps }] }
    | .ok place _ _ =>
      let r := s.readRec place
      .next (if r.owner = ident.toNat then t.endRec part.val q.job q.core place 2 r else t)

/-- CAPSULE_REBIND: kept, the restored owner goes on; lost, it is displaced at its first issue (R180). -/
def execCapsuleRebind (c : CoreId) (slot : SlotNo) (s : State) : Host.Outcome State Fault Refusal :=
  let w := s.warp c.val slot.val
  match w.cap with
  | none => .refused (.notEnabled "CAPSULE_REBIND")
  | some cp =>
    match cp.rebind with
    | none => .refused (.notEnabled "CAPSULE_REBIND")
    | some old =>
      let lose := s.setWarp c.val slot.val { w with cap := some { cp with rebind := none, lost := true } }
      let s := { s with cur := (c.val, slot.val), curWord := w.word }
      eventIf cp.pages.isEmpty "CAPSULE_REBIND" (s.onRec c.val slot.val cp lose fun place =>
        let r := s.readRec place
        let me := s.me c.val slot.val
        if r.owner = old then
          ((s.writeRec place { r with owner := me }).ownerIs old me w.id.job).setWarp c.val slot.val
            { w with cap := some { cp with rebind := none } }
        else lose)

end Sys2Proof.Machine
end

