-- ==== Sys2Proof/Machine/Crypto.lean ====
section
/-! DEFINITION. SHA-256, HMAC-SHA-256 (R225, R424 to R426) and ECDSA P-256 (R424 to R426), as their standards
define them. -/

namespace Sys2Proof.Machine

/-! ## SHA-256 (FIPS 180-4) -/

/-- A big-endian word. -/
def beWord (bs : List Byte) : Nat := bs.foldl (fun n b => 256 * n + b.toNat) 0

/-- The n bytes of a number, big-endian. -/
def beBytes : Nat → Nat → List Byte
  | 0, _ => []
  | n + 1, x => BitVec.ofNat 8 (x / 256 ^ n) :: beBytes n x

/-- The whole part of the k-th root of x, found bit by bit from bit n - 1 down, above r. -/
def wholeRoot (k x : Nat) : Nat → Nat → Nat
  | 0, r => r
  | n + 1, r => wholeRoot k x n (if (r + 2 ^ n) ^ k ≤ x then r + 2 ^ n else r)

/-- The first 64 primes. -/
def shaPrimes : List Nat :=
  (List.range 312).filter fun p => 2 ≤ p && (List.range p).all fun q => q < 2 || p % q != 0

/-- The first 32 bits of the fraction of the k-th root of a prime: the standard's constants are those of the cube roots
of the first 64 primes and of the square roots of the first 8. -/
def rootWord (k p : Nat) : Nat := wholeRoot k (p * 2 ^ (32 * k)) 37 0 % 2 ^ 32

/-- Words side by side in one number, the first lowest. -/
def abreast (ws : List Nat) : Nat := ws.foldr (fun w n => w + n * 2 ^ 32) 0

/-- Word i of words side by side. -/
def wordAt (x i : Nat) : Nat := x / 2 ^ (32 * i) % 2 ^ 32

/-- The exclusive or of a word turned right by each of the amounts. -/
def turns (rs : List Nat) (x : Nat) : Nat := rs.foldl (fun y r => y ^^^ (x * (2 ^ 32 + 1) / 2 ^ r % 2 ^ 32)) 0

/-- One round with its constant, on the eight working variables and the next sixteen words of the message schedule, each
side by side. The variables move up by one place, with a new first and a raised fifth; the schedule goes on by one word. -/
def shaRound (x : Nat × Nat) (k : Nat) : Nat × Nat :=
  match x with
  | (v, w) =>
    let choice := wordAt v 6 ^^^ (wordAt v 4 &&& (wordAt v 5 ^^^ wordAt v 6))
    let major := (wordAt v 0 &&& wordAt v 1) ||| (wordAt v 2 &&& (wordAt v 0 ||| wordAt v 1))
    let lift := k + wordAt w 0 + wordAt v 7 + choice + turns [6, 11, 25] (wordAt v 4)
    let first := (lift + major + turns [2, 13, 22] (wordAt v 0)) % 2 ^ 32
    let fifth := (lift + wordAt v 3) % 2 ^ 32
    let older := turns [7, 18] (wordAt w 1) ^^^ wordAt w 1 / 2 ^ 3
    let newer := turns [17, 19] (wordAt w 14) ^^^ wordAt w 14 / 2 ^ 10
    let word := (wordAt w 0 + older + wordAt w 9 + newer) % 2 ^ 32
    (first + v % 2 ^ 96 * 2 ^ 32 + fifth * 2 ^ 128 + v / 2 ^ 128 % 2 ^ 96 * 2 ^ 160, w / 2 ^ 32 + word * 2 ^ 480)

/-- The digest so far, eight words side by side, after one block of 64 bytes more. -/
def shaBlock (d : Nat) (bs : List Byte) : Nat :=
  let window := abreast ((List.range 16).map fun i => beWord ((bs.drop (4 * i)).take 4))
  let v := (shaPrimes.foldl (fun x p => shaRound x (rootWord 3 p)) (d, window)).1
  abreast ((List.range 8).map fun i => (wordAt d i + wordAt v i) % 2 ^ 32)

/-- SHA-256 of a message: a one bit, zeros and the 64-bit count of its bits fill its last block. -/
def sha256 (m : List Byte) : List Byte :=
  let blocks := (m.length + 72) / 64
  let fill := 64 * blocks - m.length - 9
  let text := m ++ 128 :: (List.replicate fill 0 ++ beBytes 8 (8 * m.length))
  let start := abreast ((shaPrimes.take 8).map (rootWord 2))
  let digest := (List.range blocks).foldl (fun d j => shaBlock d ((text.drop (64 * j)).take 64)) start
  (List.range 8).flatMap fun i => beBytes 4 (wordAt digest i)

/-- HMAC-SHA-256 (RFC 2104). -/
def hmacSha256 (key m : List Byte) : List Byte :=
  let short := if key.length ≤ 64 then key else sha256 key
  let pad (x : Byte) := (List.range 64).map fun i => x ^^^ short.getD i 0
  sha256 (pad 92 ++ sha256 (pad 54 ++ m))

/-! ## ECDSA P-256 (FIPS 186-5, SP 800-186) -/

def p256P : Nat := 2 ^ 256 - 2 ^ 224 + 2 ^ 192 + 2 ^ 96 - 1
def p256N : Nat := Config.curveOrder
def p256B : Nat := 0x5ac635d8aa3a93e7b3ebbd55769886bc651d06b0cc53b0f63bce3c3e27d2604b
def p256Gx : Nat := 0x6b17d1f2e12c4247f8bce6e563a440f277037d812deb33a0f4a13945d898c296
def p256Gy : Nat := 0x4fe342e2fe1a7f9b8ee7eb4a7c0f9e162bce33576b315ececbb6406837bf51f5

/-- b to the power e modulo m, over the lowest k bits of e. -/
def powMod (m : Nat) : Nat → Nat → Nat → Nat
  | 0, _, _ => 1
  | k + 1, b, e =>
    let r := powMod m k (b * b % m) (e / 2)
    if e % 2 = 1 then r * b % m else r

/-- The inverse modulo a prime of 256 bits. -/
def invMod (m x : Nat) : Nat := powMod m 256 (x % m) (m - 2)

/-- A point of the curve; none is the point at infinity. -/
abbrev Point := Option (Nat × Nat)

def pointAdd (a b : Point) : Point :=
  let p := p256P
  match a, b with
  | none, b => b
  | a, none => a
  | some (x1, y1), some (x2, y2) =>
    if x1 = x2 ∧ (y1 + y2) % p = 0 then none
    else
      let l := if x1 = x2 then (3 * x1 * x1 + (p - 3)) * invMod p (2 * y1) % p
        else (y2 + (p - y1)) * invMod p (x2 + (p - x1)) % p
      let x3 := (l * l + (p - x1) + (p - x2)) % p
      some (x3, (l * (x1 + (p - x3)) + (p - y1)) % p)

/-- A multiple of a point, over the lowest n bits. -/
def pointMul : Nat → Nat → Point → Point
  | 0, _, _ => none
  | n + 1, k, q =>
    let r := pointMul n (k / 2) (pointAdd q q)
    if k % 2 = 1 then pointAdd q r else r

def onCurve (x y : Nat) : Bool :=
  decide (x < p256P) && decide (y < p256P) && y * y % p256P == (x * x * x + (p256P - 3) * x + p256B) % p256P

/-- Does a signature r, s of a message verify under a public key X, Y, all big-endian? -/
def ecdsaVerify (key sig m : List Byte) : Bool :=
  let x := beWord (key.take 32)
  let y := beWord ((key.drop 32).take 32)
  let r := beWord (sig.take 32)
  let s := beWord ((sig.drop 32).take 32)
  let n := p256N
  if !onCurve x y || r == 0 || decide (n ≤ r) || s == 0 || decide (n ≤ s) then false
  else
    let w := invMod n s
    let e := beWord (sha256 m)
    let q := pointAdd (pointMul 256 (e * w % n) (some (p256Gx, p256Gy))) (pointMul 256 (r * w % n) (some (x, y)))
    match q with
    | none => false
    | some (x, _) => x % n == r

/-- The public key X, Y of a private scalar, big-endian. -/
def ecdsaPublic (d : Nat) : List Byte :=
  match pointMul 256 d (some (p256Gx, p256Gy)) with
  | some (x, y) => beBytes 32 x ++ beBytes 32 y
  | none => List.replicate 64 0

/-- The signature r, s of a message by a private scalar with a per-message number k, big-endian; none when k gives none. -/
def ecdsaSignWith (d k : Nat) (m : List Byte) : Option (List Byte) :=
  let n := p256N
  match pointMul 256 k (some (p256Gx, p256Gy)) with
  | none => none
  | some (x, _) =>
    let r := x % n
    let s := invMod n k * (beWord (sha256 m) + r * d) % n
    if r = 0 ∨ s = 0 then none else some (beBytes 32 r ++ beBytes 32 s)

/-- The signature with the first of some per-message numbers that gives one. -/
def ecdsaSign (d k : Nat) (m : List Byte) : List Byte :=
  ((List.range 16).findSome? fun i => ecdsaSignWith d (1 + (k + i) % (p256N - 1)) m).getD (List.replicate 64 0)

end Sys2Proof.Machine
end

