-- ==== Sys2Proof/Machine/Front.lean ====
section
/-! DEFINITION. How the front end reaches memory: its reads, its writes and signals in order, and the stopping of
queues (R221, R386, R389, R392, R393). -/

namespace Sys2Proof.Machine

/-! ## Queues -/

def queueKey (part q : Nat) : Nat := 64 * part + q

def State.queue (s : State) (part q : Nat) : Queue := s.queues.getD (queueKey part q) {}

def State.setQueue (s : State) (part q : Nat) (x : Queue) : State :=
  { s with queues := s.queues.ins (queueKey part q) x }

/-- A queue stops with an error code at a packet; its first error stands. A WAITW or TIMED packet that has started goes on, with
the pages that it waits for (R389). -/
def State.stopQueue (s : State) (part q err idx : Nat) : State :=
  let x := s.queue part q
  if x.stopped then s
  else
    let x := { x with stopped := true, err := BitVec.ofNat 8 err, eidx := BitVec.ofNat 32 idx }
    s.setQueue part q (if x.waitw.isSome || x.timed.isSome then x else { x with pages := [], dead := [] })

/-- A packet that has started ends without completing: no FENCE waits for it. -/
def Queue.forget (x : Queue) (idx : Nat) : Queue := { x with started := x.started.filter (· != idx) }

/-- A WAITW fails: the queue stops at it (R389). -/
def State.failWait (s : State) (part q err idx : Nat) : State :=
  let s := s.stopQueue part q err idx
  s.setQueue part q
    { (s.queue part q).forget idx with waitw := none, parked := false, pages := [], dead := [] }

/-- The packet behind a TIMED one cannot be released: the queue stops at it, and the TIMED packet is no more (R389). -/
def State.failTimed (s : State) (part q err idx timed : Nat) : State :=
  let s := s.stopQueue part q err idx
  s.setQueue part q { (s.queue part q).forget timed with timed := none, pages := [], dead := [] }

/-! ## Addresses (R388) -/

/-- HOST and the address of a packet's address field. -/
def addrHost (a : W64) : Bool := a.getLsbD 63
def addrOf (a : W64) : Nat := bits a 0 57

/-- What translating a front-end access gives: its segments, whether every page is tagged, and the faults. -/
structure FeSpan where
  segs : Segs := []
  tagged : Bool := true
  faults : List PageReq := []

/-- Translates the bytes of a front-end access. -/
def State.feSpan (s : State) (part : Nat) (kind : AccessKind) (addr : W64) (n : Nat) : FeSpan :=
  let host := addrHost addr
  (cuts 128 (n / 128 + 2) (addrOf addr) n).foldl (fun (z : FeSpan) (p : Nat × Nat) =>
    match s.translate frontEnd part host kind p.1 with
    | .ok place tg _ => { z with segs := z.segs ++ [(place, p.2)], tagged := z.tagged && tg }
    | .fault perm =>
      let q : PageReq := { page := p.1 / 4096, host := host, kind := kind, perm := perm }
      { z with faults := addNew z.faults q }) {}

/-- Does an engine own a line of some segments and still have to write it? The front end's access then waits (R122, R146). -/
def State.feHeld (s : State) (segs : Segs) : Bool := segs.any fun p => s.owned.has (lineOf p.1)

/-- The front end's traffic is charged to its partition's buckets (R398, R402), on the home die of each segment; a die on which
the partition has no share charges nothing (DESIGN CHOICE: log 73). -/
def State.chargeFe (s : State) (p : Nat) (segs : Segs) : State :=
  (List.range 4).foldl (fun s d =>
    if (s.part p).share d == 0 then s
    else s.takeTokens d p ((segs.filter fun q => homeDie q.1 == d).map (·.2)).sum) s

/-- The front end reads one segment as an acquire: the line's recorded cores are drained (R140, R152); a global line is read at
its home slice, which obtains it (R142), host memory over PCIe. -/
def State.feReadSeg (s : State) (p : Nat × Nat) : List Byte × State :=
  let line := lineOf p.1
  let s := s.drainAll line
  if isHostPlace p.1 then (s.hostRead p.1 p.2, s)
  else
    let s := if posOf line == s.groupPos then s.obtain (homeDie line) line false else s
    (s.read p.1 p.2, s)

/-- The front end reads segments. -/
def State.feReads : Segs → State → List Byte × State
  | [], s => ([], s)
  | p :: ps, s =>
    let (bs, s) := s.feReadSeg p
    let (cs, s) := s.feReads ps
    (bs ++ cs, s)

/-- The front end writes segments, each at its home slice or over PCIe. -/
def State.feWrites : Segs → List Byte → State → State
  | [], _, s => s
  | p :: ps, bs, s =>
    let s :=
      if isHostPlace p.1 then s.hostWrite p.1 (bs.take p.2)
      else (s.obtainHome (lineOf p.1)).write p.1 (bs.take p.2)
    s.feWrites ps (bs.drop p.2)

/-- Requests of the front end enter its stage of the filters (R221). -/
def State.feFile (s : State) (part : Nat) (qs : List PageReq) : List PageReq × State :=
  let (ps, fs) := fileAll part 128 0 s.tick qs s.faults
  (ps, { s with faults := fs })

/-- A read that a queue's head needs: its bytes; or it waits for pages, when none of them has been declared unresolvable, or
for an engine's writes when it lists none; or it cannot be made. -/
inductive FeRead where
  | bytes (bs : List Byte) (s : State)
  | wait (qs : List PageReq)
  | dead

/-- The pages of a queue that were declared unresolvable. -/
def Queue.lost (x : Queue) (q : PageReq) : Bool := x.dead.any fun d => d.page == q.page && d.host == q.host

/-- Reads bytes for a queue's head. -/
def State.feRead (s : State) (part q : Nat) (addr : W64) (n : Nat) : FeRead :=
  let z := s.feSpan part .read addr n
  match z.faults with
  | [] => if s.feHeld z.segs then .wait [] else let r := s.feReads z.segs; .bytes r.1 r.2
  | qs => if qs.any (s.queue part q).lost then .dead else .wait qs

/-- A queue waits for pages. -/
def State.queueWaits (s : State) (part q : Nat) (qs : List PageReq) : State :=
  let (ps, s) := s.feFile part qs
  let x := s.queue part q
  s.setQueue part q { x with pages := x.pages ++ ps }

/-! ## Writes (R386, R392, R393) -/

/-- How a front-end write goes: done; waiting for pages, or for an engine's writes when it lists none; or impossible. -/
inductive FeOut where
  | done (s : State)
  | wait (qs : List PageReq)
  | fail

/-- A write of bytes: a page that refuses it makes it impossible at once. -/
def State.feWrite (s : State) (part : Nat) (kind : AccessKind) (addr : W64) (bs : List Byte) : FeOut :=
  let z := s.feSpan part kind addr bs.length
  match z.faults with
  | [] => if s.feHeld z.segs then .wait [] else .done (s.feWrites z.segs bs)
  | qs => if qs.any fun q => q.perm then .fail else .wait qs

/-- A signal operation (R392). -/
def State.feSignal (s : State) (part op : Nat) (addr val : W64) : FeOut :=
  match op with
  | 1 =>
    if addrHost addr then .fail
    else
      let z := s.feSpan part .write addr 8
      match z.faults with
      | [] =>
        if !z.tagged then .fail
        else if s.feHeld z.segs then .wait []
        else
          let t := s.feWrites z.segs (bytesOf 8 val.toNat)
          .done (z.segs.foldl (fun t p => t.setTag p.1 true) t)
      | qs => if qs.any fun q => q.perm then .fail else .wait qs
  | 2 =>
    let z := s.feSpan part .atomic addr 8
    match z.faults with
    | [] =>
      if s.feHeld z.segs then .wait []
      else
      let (bs, s) := s.feReads z.segs
      .done (s.feWrites z.segs (bytesOf 8 ((natOf bs + val.toNat) % 2 ^ 64)))
    | qs => if qs.any fun q => q.perm then .fail else .wait qs
  | 3 => s.feWrite part .write addr (bytesOf 8 val.toNat)
  | _ => .done s

/-- A report goes to the partition's report queue, or is counted lost (R386). -/
def State.feReport (s : State) (part : Nat) (bs : List Byte) : FeOut :=
  let p := s.part part
  let size := 2 ^ p.rqlog2.toNat
  if size ≤ (p.rqwidx - p.rqridx).toNat then .fail
  else
    match s.feWrite part .write (p.rqbase + BitVec.ofNat 64 (64 * (p.rqwidx.toNat % size))) bs with
    | .done s => .done ((s.setPart part { s.part part with rqwidx := p.rqwidx + 1 }).sendMsix part p.rqvec.toNat)
    | z => z

/-- One write of the front end. -/
def State.feDo (s : State) (part : Nat) : FeWrite → FeOut
  | .bytes addr bs => s.feWrite part .write addr bs
  | .signal op addr val => s.feSignal part op addr val
  | .report bs => s.feReport part bs

/-- A write that cannot be performed: a report is lost, any other stops the queue with SIGNAL_FAULT (R386, R389). -/
def State.feFails (s : State) (part q idx : Nat) : FeWrite → State
  | .report _ => let p := s.part part; s.setPart part { p with rqlost := p.rqlost + 1 }
  | _ => s.stopQueue part q 6 idx

/-- Runs writes in order up to one that waits for pages; answers those left and the pages. `dead`: a page of the
first was declared unresolvable. -/
def State.feRun (part q idx : Nat) (dead : Bool) : List FeWrite → State → List FeWrite × List PageReq × State
  | [], s => ([], [], s)
  | w :: ws, s =>
    match s.feDo part w with
    | .done s => s.feRun part q idx false ws
    | .fail => (s.feFails part q idx w).feRun part q idx false ws
    | .wait qs => if dead && !qs.isEmpty then (s.feFails part q idx w).feRun part q idx false ws else (w :: ws, qs, s)

/-- A packet is complete: its interrupt (R388), and it no longer holds a FENCE back (R390). -/
def State.packetEnds (s : State) (part q idx : Nat) (intr : Bool) : State :=
  let x := s.queue part q
  let s := s.setQueue part q (x.forget idx)
  if intr then s.sendMsix part x.vec.toNat else s

/-- A command of FE_JCMD that waited for a job ends with a result (R386, R441). -/
def State.endCommand (s : State) (part j : Nat) (res : Nat → Nat) : State :=
  let p := s.part part
  if p.jbusy ∧ p.jwait = j then
    s.setPart part { p with jbusy := false, jres := BitVec.ofNat 2 (res (p.jcmd.toNat / 2 ^ 32 % 8)) }
  else s

/-- Goes on with one list of writes; none when it is finished. -/
def State.feGo (s : State) (o : FeOp) : Option FeOp × State :=
  if !o.pages.isEmpty then (some o, s)
  else
    let (ws, qs, s) := s.feRun o.part o.q o.idx o.dead o.steps
    match ws with
    | [] =>
      let x := s.queue o.part o.q
      let failed := o.strict && x.stopped && x.err == 6 && x.eidx.toNat == o.idx
      let s := match o.tells with | some j => s.endCommand o.part j fun _ => 1 | none => s
      (none, if o.ends then s.packetEnds o.part o.q o.idx (o.intr && !failed) else s)
    | _ =>
      let (ps, s) := s.feFile o.part qs
      (some { o with steps := ws, pages := ps, dead := false }, s)

/-- The front end begins a list of writes; a lost one writes nothing (R384). -/
def State.feStart (s : State) (o : FeOp) : State :=
  if s.feLost then s
  else
    match s.feGo o with
    | (none, s) => s
    | (some o, s) => { s with feOps := s.feOps ++ [o] }

/-- Every list of writes goes on as far as it can. -/
def State.feAll : List FeOp → State → State
  | [], s => s
  | o :: os, s =>
    match s.feGo o with
    | (none, s) => s.feAll os
    | (some o, s) => ({ s with feOps := s.feOps ++ [o] }).feAll os

def State.feSettle (s : State) : State :=
  if s.feOps.any fun o => o.pages.isEmpty then ({ s with feOps := [] }).feAll s.feOps else s

/-! ## Endings (R393) -/

/-- A status record (R393). -/
def State.statusRecord (s : State) (code reason : Nat) (pk : Pkt) (detail : Nat) : List Byte :=
  bytesOf 2 code ++ bytesOf 2 reason ++ bytesOf 4 pk.tag ++ bytesOf 8 detail ++ bytesOf 8 s.tick ++
  bytesOf 8 (s.tai / 2 ^ 16)

/-- A packet ends with a code: the status record, the completion signal but for PREEMPTED, then the interrupt (R393). -/
def State.endPacket (s : State) (part : Nat) (pk : Pkt) (code reason detail : Nat) : State :=
  let st := if pk.stat = 0 then [] else [FeWrite.bytes pk.stat (s.statusRecord code reason pk detail)]
  let sg := if code = 3 ∨ pk.sigOp = 0 ∨ pk.sig = 0 then [] else [FeWrite.signal pk.sigOp pk.sig pk.sigVal]
  s.feStart { part := part, q := pk.q, idx := pk.idx, steps := st ++ sg, ends := true, intr := pk.intr }

/-- A packet of a queue starts: RIDX advances and is written at FE_QRPTR (R385, R390). -/
def State.packetStarts (s : State) (part q : Nat) : State :=
  let x := s.queue part q
  let r := x.ridx + 1
  let s := s.setQueue part q
    { x with ridx := r, pages := [], dead := [], look := x.look - 1, started := x.started ++ [x.ridx.toNat] }
  if x.rptr = 0 then s
  else
    let a := x.rptr ||| (x.base &&& BitVec.ofNat 64 (2 ^ 63))
    s.feStart { part := part, q := q, idx := x.ridx.toNat, steps := [.bytes a (bytesOf 4 r.toNat)] }

end Sys2Proof.Machine
end

