-- ==== Sys2Proof/Decode.lean ====
section
/-! DEFINITION. The decoder of instruction words (R231 to R236, R245 to R248), total on any bytes, and
the encoder written from the same tables. -/

namespace Sys2Proof

/-- Why a word is no instruction: the checks of R236 that need no state, with the SUB of R206. -/
inductive Reject where
  /-- fewer than four bytes -/
  | truncated
  /-- SUB 1: unassigned opcode or fn (R246) -/
  | unassigned
  /-- SUB 2: a reserved field or a register field's must-be-zero bits are non-zero (R232, R235, R247) -/
  | reserved
  /-- SUB 5: a selector outside the range of its entry (R156, R164, R311) -/
  | outOfRange
  /-- SUB 4: an odd register for BARM's pair, when its selector is refused as well (R236, R315) -/
  | misnumbered
  deriving DecidableEq, Repr

/-- What the decoder answers for a word. -/
inductive Decoded where
  | ok (i : Instr)
  | bad (r : Reject)
  deriving DecidableEq, Repr

/-- The SUB of ILLEGAL_INSTRUCTION that a rejected word raises (R206, R236). -/
def Reject.sub : Reject → BitVec 8
  | .truncated => 1
  | .unassigned => 1
  | .reserved => 2
  | .outOfRange => 5
  | .misnumbered => 4

/-- The field of width n at bit lo of a word (R8). -/
def fld (w lo n : Nat) : Nat := w / 2 ^ lo % 2 ^ n

/-- Every field of the list, given as lowest bit and width, is zero. -/
def zeros (w : Nat) : List (Nat × Nat) → Bool
  | [] => true
  | (lo, n) :: fs => (fld w lo n == 0) && zeros w fs

/-- The instruction i, when the word's reserved fields are zero (R235). -/
def need (w : Nat) (fs : List (Nat × Nat)) (i : Instr) : Decoded :=
  if zeros w fs then .ok i else .bad .reserved

/-- A barrier selector's bits above the number's range are zero for cluster and grid (R247). -/
def selectorFits (w : Nat) : Bool :=
  !((fld w 8 3 == 2 || fld w 8 3 == 3) && fld w 4 3 != 0)

/-- Opcode 0x01, format A (R245). -/
def decOp01 (w : Nat) : Decoded :=
  match fld w 0 4 with
  | 0 => need w [(24, 1), (17, 1), (10, 1)] (.sadd (Fin.ofNat 64 (w / 2 ^ 18)) (Fin.ofNat 64 (w / 2 ^ 11)) (Fin.ofNat 64 (w / 2 ^ 4)))
  | 1 => need w [(24, 1), (17, 1), (10, 1)] (.ssub (Fin.ofNat 64 (w / 2 ^ 18)) (Fin.ofNat 64 (w / 2 ^ 11)) (Fin.ofNat 64 (w / 2 ^ 4)))
  | 2 => need w [(24, 1), (17, 1), (10, 1)] (.smul (Fin.ofNat 64 (w / 2 ^ 18)) (Fin.ofNat 64 (w / 2 ^ 11)) (Fin.ofNat 64 (w / 2 ^ 4)))
  | 3 => need w [(24, 1), (17, 1), (10, 1)] (.smulh (Fin.ofNat 64 (w / 2 ^ 18)) (Fin.ofNat 64 (w / 2 ^ 11)) (Fin.ofNat 64 (w / 2 ^ 4)))
  | 4 => need w [(24, 1), (17, 1), (10, 1)] (.sand (Fin.ofNat 64 (w / 2 ^ 18)) (Fin.ofNat 64 (w / 2 ^ 11)) (Fin.ofNat 64 (w / 2 ^ 4)))
  | 5 => need w [(24, 1), (17, 1), (10, 1)] (.sor (Fin.ofNat 64 (w / 2 ^ 18)) (Fin.ofNat 64 (w / 2 ^ 11)) (Fin.ofNat 64 (w / 2 ^ 4)))
  | 6 => need w [(24, 1), (17, 1), (10, 1)] (.sxor (Fin.ofNat 64 (w / 2 ^ 18)) (Fin.ofNat 64 (w / 2 ^ 11)) (Fin.ofNat 64 (w / 2 ^ 4)))
  | 7 => need w [(24, 1), (17, 1), (10, 1)] (.sshl (Fin.ofNat 64 (w / 2 ^ 18)) (Fin.ofNat 64 (w / 2 ^ 11)) (Fin.ofNat 64 (w / 2 ^ 4)))
  | 8 => need w [(24, 1), (17, 1), (10, 1)] (.sshr (Fin.ofNat 64 (w / 2 ^ 18)) (Fin.ofNat 64 (w / 2 ^ 11)) (Fin.ofNat 64 (w / 2 ^ 4)))
  | 9 => need w [(24, 1), (17, 1), (10, 1)] (.ssra (Fin.ofNat 64 (w / 2 ^ 18)) (Fin.ofNat 64 (w / 2 ^ 11)) (Fin.ofNat 64 (w / 2 ^ 4)))
  | 10 => need w [(24, 1), (17, 1), (10, 1)] (.smin (Fin.ofNat 64 (w / 2 ^ 18)) (Fin.ofNat 64 (w / 2 ^ 11)) (Fin.ofNat 64 (w / 2 ^ 4)))
  | 11 => need w [(24, 1), (17, 1), (10, 1)] (.smax (Fin.ofNat 64 (w / 2 ^ 18)) (Fin.ofNat 64 (w / 2 ^ 11)) (Fin.ofNat 64 (w / 2 ^ 4)))
  | 12 => need w [(24, 1), (17, 1), (10, 1)] (.sminu (Fin.ofNat 64 (w / 2 ^ 18)) (Fin.ofNat 64 (w / 2 ^ 11)) (Fin.ofNat 64 (w / 2 ^ 4)))
  | 13 => need w [(24, 1), (17, 1), (10, 1)] (.smaxu (Fin.ofNat 64 (w / 2 ^ 18)) (Fin.ofNat 64 (w / 2 ^ 11)) (Fin.ofNat 64 (w / 2 ^ 4)))
  | 14 => need w [(24, 1), (17, 1), (4, 7)] (.smov (Fin.ofNat 64 (w / 2 ^ 18)) (Fin.ofNat 64 (w / 2 ^ 11)))
  | 15 => need w [(24, 1), (17, 1), (4, 7)] (.snot (Fin.ofNat 64 (w / 2 ^ 18)) (Fin.ofNat 64 (w / 2 ^ 11)))
  | _ => .bad .unassigned

/-- Opcode 0x02, format A (R245). -/
def decOp02 (w : Nat) : Decoded :=
  match fld w 0 4 with
  | 0 => need w [(24, 1), (17, 1), (4, 7)] (.sclz (Fin.ofNat 64 (w / 2 ^ 18)) (Fin.ofNat 64 (w / 2 ^ 11)))
  | 1 => need w [(24, 1), (17, 1), (4, 7)] (.spopc (Fin.ofNat 64 (w / 2 ^ 18)) (Fin.ofNat 64 (w / 2 ^ 11)))
  | 2 => need w [(24, 1), (17, 1), (10, 1)] (.sdiv (Fin.ofNat 64 (w / 2 ^ 18)) (Fin.ofNat 64 (w / 2 ^ 11)) (Fin.ofNat 64 (w / 2 ^ 4)))
  | 3 => need w [(24, 1), (17, 1), (10, 1)] (.srem (Fin.ofNat 64 (w / 2 ^ 18)) (Fin.ofNat 64 (w / 2 ^ 11)) (Fin.ofNat 64 (w / 2 ^ 4)))
  | 4 => need w [(24, 1), (17, 1), (10, 1)] (.sdivu (Fin.ofNat 64 (w / 2 ^ 18)) (Fin.ofNat 64 (w / 2 ^ 11)) (Fin.ofNat 64 (w / 2 ^ 4)))
  | 5 => need w [(24, 1), (17, 1), (10, 1)] (.sremu (Fin.ofNat 64 (w / 2 ^ 18)) (Fin.ofNat 64 (w / 2 ^ 11)) (Fin.ofNat 64 (w / 2 ^ 4)))
  | 6 => need w [(24, 1), (17, 1), (10, 1)] (.ssel (Fin.ofNat 64 (w / 2 ^ 18)) (Fin.ofNat 64 (w / 2 ^ 11)) (Fin.ofNat 64 (w / 2 ^ 4)))
  | _ => .bad .unassigned

/-- Opcode 0x03, format A (R245). -/
def decOp03 (w : Nat) : Decoded :=
  match fld w 0 4 with
  | 0 => need w [(21, 4), (17, 1), (10, 1)] (.scmpEq (Fin.ofNat 8 (w / 2 ^ 18)) (Fin.ofNat 64 (w / 2 ^ 11)) (Fin.ofNat 64 (w / 2 ^ 4)))
  | 1 => need w [(21, 4), (17, 1), (10, 1)] (.scmpNe (Fin.ofNat 8 (w / 2 ^ 18)) (Fin.ofNat 64 (w / 2 ^ 11)) (Fin.ofNat 64 (w / 2 ^ 4)))
  | 2 => need w [(21, 4), (17, 1), (10, 1)] (.scmpLt (Fin.ofNat 8 (w / 2 ^ 18)) (Fin.ofNat 64 (w / 2 ^ 11)) (Fin.ofNat 64 (w / 2 ^ 4)))
  | 3 => need w [(21, 4), (17, 1), (10, 1)] (.scmpLe (Fin.ofNat 8 (w / 2 ^ 18)) (Fin.ofNat 64 (w / 2 ^ 11)) (Fin.ofNat 64 (w / 2 ^ 4)))
  | 4 => need w [(21, 4), (17, 1), (10, 1)] (.scmpGt (Fin.ofNat 8 (w / 2 ^ 18)) (Fin.ofNat 64 (w / 2 ^ 11)) (Fin.ofNat 64 (w / 2 ^ 4)))
  | 5 => need w [(21, 4), (17, 1), (10, 1)] (.scmpGe (Fin.ofNat 8 (w / 2 ^ 18)) (Fin.ofNat 64 (w / 2 ^ 11)) (Fin.ofNat 64 (w / 2 ^ 4)))
  | 6 => need w [(21, 4), (17, 1), (10, 1)] (.scmpLtu (Fin.ofNat 8 (w / 2 ^ 18)) (Fin.ofNat 64 (w / 2 ^ 11)) (Fin.ofNat 64 (w / 2 ^ 4)))
  | 7 => need w [(21, 4), (17, 1), (10, 1)] (.scmpLeu (Fin.ofNat 8 (w / 2 ^ 18)) (Fin.ofNat 64 (w / 2 ^ 11)) (Fin.ofNat 64 (w / 2 ^ 4)))
  | 8 => need w [(21, 4), (17, 1), (10, 1)] (.scmpGtu (Fin.ofNat 8 (w / 2 ^ 18)) (Fin.ofNat 64 (w / 2 ^ 11)) (Fin.ofNat 64 (w / 2 ^ 4)))
  | 9 => need w [(21, 4), (17, 1), (10, 1)] (.scmpGeu (Fin.ofNat 8 (w / 2 ^ 18)) (Fin.ofNat 64 (w / 2 ^ 11)) (Fin.ofNat 64 (w / 2 ^ 4)))
  | _ => .bad .unassigned

/-- Opcode 0x04, format A (R245). -/
def decOp04 (w : Nat) : Decoded :=
  match fld w 0 4 with
  | 0 => need w [(24, 1), (17, 1), (4, 7)] (.mode (Fin.ofNat 64 (w / 2 ^ 18)) (Fin.ofNat 64 (w / 2 ^ 11)))
  | 1 => need w [(24, 1), (17, 1), (10, 1)] (.modex (Fin.ofNat 64 (w / 2 ^ 18)) (Fin.ofNat 64 (w / 2 ^ 11)) (Fin.ofNat 64 (w / 2 ^ 4)))
  | 2 => need w [(24, 1), (4, 14)] (.exrd (Fin.ofNat 64 (w / 2 ^ 18)))
  | 3 => need w [(17, 8), (4, 7)] (.exwr (Fin.ofNat 64 (w / 2 ^ 11)))
  | 4 => need w [(21, 4), (14, 4), (7, 4)] (.pand (Fin.ofNat 8 (w / 2 ^ 18)) (Fin.ofNat 8 (w / 2 ^ 11)) (Fin.ofNat 8 (w / 2 ^ 4)))
  | 5 => need w [(21, 4), (14, 4), (7, 4)] (.por (Fin.ofNat 8 (w / 2 ^ 18)) (Fin.ofNat 8 (w / 2 ^ 11)) (Fin.ofNat 8 (w / 2 ^ 4)))
  | 6 => need w [(21, 4), (14, 4), (7, 4)] (.pxor (Fin.ofNat 8 (w / 2 ^ 18)) (Fin.ofNat 8 (w / 2 ^ 11)) (Fin.ofNat 8 (w / 2 ^ 4)))
  | 7 => need w [(21, 4), (14, 4), (4, 7)] (.pnot (Fin.ofNat 8 (w / 2 ^ 18)) (Fin.ofNat 8 (w / 2 ^ 11)))
  | 8 => need w [(21, 4), (14, 4), (4, 7)] (.pmov (Fin.ofNat 8 (w / 2 ^ 18)) (Fin.ofNat 8 (w / 2 ^ 11)))
  | 9 => need w [(24, 1), (14, 4), (4, 7)] (.ptos (Fin.ofNat 64 (w / 2 ^ 18)) (Fin.ofNat 8 (w / 2 ^ 11)))
  | 10 => need w [(21, 4), (17, 1), (4, 7)] (.stop (Fin.ofNat 8 (w / 2 ^ 18)) (Fin.ofNat 64 (w / 2 ^ 11)))
  | _ => .bad .unassigned

/-- Opcode 0x08, format L (R245). -/
def decOp08 (w : Nat) : Decoded :=
  need w [(24, 1)] (.ldl (Fin.ofNat 64 (w / 2 ^ 18)) (BitVec.ofNat 18 (w)))

/-- Opcode 0x09, format L (R245). -/
def decOp09 (w : Nat) : Decoded :=
  need w [(24, 1)] (.ldlq (Fin.ofNat 64 (w / 2 ^ 18)) (BitVec.ofNat 18 (w)))

/-- Opcode 0x0A, format L (R245). -/
def decOp0A (w : Nat) : Decoded :=
  need w [] (.ldlv (Fin.ofNat 128 (w / 2 ^ 18)) (BitVec.ofNat 18 (w)))

/-- Opcode 0x0C, format S (R245). -/
def decOp0C (w : Nat) : Decoded :=
  need w [(11, 7)] (.crd (Fin.ofNat 128 (w / 2 ^ 18)) (BitVec.ofNat 11 (w)))

/-- Opcode 0x0D, format S (R245). -/
def decOp0D (w : Nat) : Decoded :=
  need w [(17, 8)] (.cwr (Fin.ofNat 64 (w / 2 ^ 11)) (BitVec.ofNat 11 (w)))

/-- Opcode 0x10, format A (R245). -/
def decOp10 (w : Nat) : Decoded :=
  match fld w 0 4 with
  | 0 => need w [] (.vadd (Fin.ofNat 128 (w / 2 ^ 18)) (Fin.ofNat 128 (w / 2 ^ 11)) (Fin.ofNat 128 (w / 2 ^ 4)))
  | 1 => need w [] (.vsub (Fin.ofNat 128 (w / 2 ^ 18)) (Fin.ofNat 128 (w / 2 ^ 11)) (Fin.ofNat 128 (w / 2 ^ 4)))
  | 2 => need w [] (.vmul (Fin.ofNat 128 (w / 2 ^ 18)) (Fin.ofNat 128 (w / 2 ^ 11)) (Fin.ofNat 128 (w / 2 ^ 4)))
  | 3 => need w [] (.vmulh (Fin.ofNat 128 (w / 2 ^ 18)) (Fin.ofNat 128 (w / 2 ^ 11)) (Fin.ofNat 128 (w / 2 ^ 4)))
  | 4 => need w [] (.vand (Fin.ofNat 128 (w / 2 ^ 18)) (Fin.ofNat 128 (w / 2 ^ 11)) (Fin.ofNat 128 (w / 2 ^ 4)))
  | 5 => need w [] (.vor (Fin.ofNat 128 (w / 2 ^ 18)) (Fin.ofNat 128 (w / 2 ^ 11)) (Fin.ofNat 128 (w / 2 ^ 4)))
  | 6 => need w [] (.vxor (Fin.ofNat 128 (w / 2 ^ 18)) (Fin.ofNat 128 (w / 2 ^ 11)) (Fin.ofNat 128 (w / 2 ^ 4)))
  | 7 => need w [] (.vshl (Fin.ofNat 128 (w / 2 ^ 18)) (Fin.ofNat 128 (w / 2 ^ 11)) (Fin.ofNat 128 (w / 2 ^ 4)))
  | 8 => need w [] (.vshr (Fin.ofNat 128 (w / 2 ^ 18)) (Fin.ofNat 128 (w / 2 ^ 11)) (Fin.ofNat 128 (w / 2 ^ 4)))
  | 9 => need w [] (.vsra (Fin.ofNat 128 (w / 2 ^ 18)) (Fin.ofNat 128 (w / 2 ^ 11)) (Fin.ofNat 128 (w / 2 ^ 4)))
  | 10 => need w [] (.vmin (Fin.ofNat 128 (w / 2 ^ 18)) (Fin.ofNat 128 (w / 2 ^ 11)) (Fin.ofNat 128 (w / 2 ^ 4)))
  | 11 => need w [] (.vmax (Fin.ofNat 128 (w / 2 ^ 18)) (Fin.ofNat 128 (w / 2 ^ 11)) (Fin.ofNat 128 (w / 2 ^ 4)))
  | 12 => need w [(4, 7)] (.vabs (Fin.ofNat 128 (w / 2 ^ 18)) (Fin.ofNat 128 (w / 2 ^ 11)))
  | 13 => need w [(4, 7)] (.vneg (Fin.ofNat 128 (w / 2 ^ 18)) (Fin.ofNat 128 (w / 2 ^ 11)))
  | 14 => need w [(4, 7)] (.vnot (Fin.ofNat 128 (w / 2 ^ 18)) (Fin.ofNat 128 (w / 2 ^ 11)))
  | 15 => need w [(4, 7)] (.vmov (Fin.ofNat 128 (w / 2 ^ 18)) (Fin.ofNat 128 (w / 2 ^ 11)))
  | _ => .bad .unassigned

/-- Opcode 0x11, format A (R245). -/
def decOp11 (w : Nat) : Decoded :=
  match fld w 0 4 with
  | 0 => need w [] (.vmad (Fin.ofNat 128 (w / 2 ^ 18)) (Fin.ofNat 128 (w / 2 ^ 11)) (Fin.ofNat 128 (w / 2 ^ 4)))
  | 1 => need w [] (.vmsb (Fin.ofNat 128 (w / 2 ^ 18)) (Fin.ofNat 128 (w / 2 ^ 11)) (Fin.ofNat 128 (w / 2 ^ 4)))
  | _ => .bad .unassigned

/-- Opcode 0x12, format A (R245). -/
def decOp12 (w : Nat) : Decoded :=
  match fld w 0 4 with
  | 0 => need w [(4, 7)] (.vclz (Fin.ofNat 128 (w / 2 ^ 18)) (Fin.ofNat 128 (w / 2 ^ 11)))
  | 1 => need w [(4, 7)] (.vpopc (Fin.ofNat 128 (w / 2 ^ 18)) (Fin.ofNat 128 (w / 2 ^ 11)))
  | 2 => need w [(4, 7)] (.vbrev (Fin.ofNat 128 (w / 2 ^ 18)) (Fin.ofNat 128 (w / 2 ^ 11)))
  | 3 => need w [] (.vbfx (Fin.ofNat 128 (w / 2 ^ 18)) (Fin.ofNat 128 (w / 2 ^ 11)) (Fin.ofNat 128 (w / 2 ^ 4)))
  | 4 => need w [] (.vbfi (Fin.ofNat 128 (w / 2 ^ 18)) (Fin.ofNat 128 (w / 2 ^ 11)) (Fin.ofNat 128 (w / 2 ^ 4)))
  | 5 => need w [] (.vsel (Fin.ofNat 128 (w / 2 ^ 18)) (Fin.ofNat 128 (w / 2 ^ 11)) (Fin.ofNat 128 (w / 2 ^ 4)))
  | _ => .bad .unassigned

/-- Opcode 0x13, format A (R245). -/
def decOp13 (w : Nat) : Decoded :=
  match fld w 0 4 with
  | 0 => need w [(21, 4)] (.vcmpEq (Fin.ofNat 8 (w / 2 ^ 18)) (Fin.ofNat 128 (w / 2 ^ 11)) (Fin.ofNat 128 (w / 2 ^ 4)))
  | 1 => need w [(21, 4)] (.vcmpNe (Fin.ofNat 8 (w / 2 ^ 18)) (Fin.ofNat 128 (w / 2 ^ 11)) (Fin.ofNat 128 (w / 2 ^ 4)))
  | 2 => need w [(21, 4)] (.vcmpLt (Fin.ofNat 8 (w / 2 ^ 18)) (Fin.ofNat 128 (w / 2 ^ 11)) (Fin.ofNat 128 (w / 2 ^ 4)))
  | 3 => need w [(21, 4)] (.vcmpLe (Fin.ofNat 8 (w / 2 ^ 18)) (Fin.ofNat 128 (w / 2 ^ 11)) (Fin.ofNat 128 (w / 2 ^ 4)))
  | 4 => need w [(21, 4)] (.vcmpGt (Fin.ofNat 8 (w / 2 ^ 18)) (Fin.ofNat 128 (w / 2 ^ 11)) (Fin.ofNat 128 (w / 2 ^ 4)))
  | 5 => need w [(21, 4)] (.vcmpGe (Fin.ofNat 8 (w / 2 ^ 18)) (Fin.ofNat 128 (w / 2 ^ 11)) (Fin.ofNat 128 (w / 2 ^ 4)))
  | 6 => need w [(21, 4)] (.vcmpLtu (Fin.ofNat 8 (w / 2 ^ 18)) (Fin.ofNat 128 (w / 2 ^ 11)) (Fin.ofNat 128 (w / 2 ^ 4)))
  | 7 => need w [(21, 4)] (.vcmpLeu (Fin.ofNat 8 (w / 2 ^ 18)) (Fin.ofNat 128 (w / 2 ^ 11)) (Fin.ofNat 128 (w / 2 ^ 4)))
  | 8 => need w [(21, 4)] (.vcmpGtu (Fin.ofNat 8 (w / 2 ^ 18)) (Fin.ofNat 128 (w / 2 ^ 11)) (Fin.ofNat 128 (w / 2 ^ 4)))
  | 9 => need w [(21, 4)] (.vcmpGeu (Fin.ofNat 8 (w / 2 ^ 18)) (Fin.ofNat 128 (w / 2 ^ 11)) (Fin.ofNat 128 (w / 2 ^ 4)))
  | 10 => need w [(21, 4)] (.vcmpUnord (Fin.ofNat 8 (w / 2 ^ 18)) (Fin.ofNat 128 (w / 2 ^ 11)) (Fin.ofNat 128 (w / 2 ^ 4)))
  | 11 => need w [(21, 4)] (.vcmpOrd (Fin.ofNat 8 (w / 2 ^ 18)) (Fin.ofNat 128 (w / 2 ^ 11)) (Fin.ofNat 128 (w / 2 ^ 4)))
  | _ => .bad .unassigned

/-- Opcode 0x14, format A (R245). -/
def decOp14 (w : Nat) : Decoded :=
  match fld w 0 4 with
  | 0 => need w [] (.fadd (Fin.ofNat 128 (w / 2 ^ 18)) (Fin.ofNat 128 (w / 2 ^ 11)) (Fin.ofNat 128 (w / 2 ^ 4)))
  | 1 => need w [] (.fsub (Fin.ofNat 128 (w / 2 ^ 18)) (Fin.ofNat 128 (w / 2 ^ 11)) (Fin.ofNat 128 (w / 2 ^ 4)))
  | 2 => need w [] (.fmul (Fin.ofNat 128 (w / 2 ^ 18)) (Fin.ofNat 128 (w / 2 ^ 11)) (Fin.ofNat 128 (w / 2 ^ 4)))
  | 3 => need w [] (.fmin (Fin.ofNat 128 (w / 2 ^ 18)) (Fin.ofNat 128 (w / 2 ^ 11)) (Fin.ofNat 128 (w / 2 ^ 4)))
  | 4 => need w [] (.fmax (Fin.ofNat 128 (w / 2 ^ 18)) (Fin.ofNat 128 (w / 2 ^ 11)) (Fin.ofNat 128 (w / 2 ^ 4)))
  | 5 => need w [(4, 7)] (.fabs (Fin.ofNat 128 (w / 2 ^ 18)) (Fin.ofNat 128 (w / 2 ^ 11)))
  | 6 => need w [(4, 7)] (.fneg (Fin.ofNat 128 (w / 2 ^ 18)) (Fin.ofNat 128 (w / 2 ^ 11)))
  | 7 => need w [(4, 7)] (.fclass (Fin.ofNat 128 (w / 2 ^ 18)) (Fin.ofNat 128 (w / 2 ^ 11)))
  | 8 => need w [] (.fscale (Fin.ofNat 128 (w / 2 ^ 18)) (Fin.ofNat 128 (w / 2 ^ 11)) (Fin.ofNat 128 (w / 2 ^ 4)))
  | 9 => need w [(4, 7)] (.frnd (Fin.ofNat 128 (w / 2 ^ 18)) (Fin.ofNat 128 (w / 2 ^ 11)))
  | 10 => need w [] (.fcsgn (Fin.ofNat 128 (w / 2 ^ 18)) (Fin.ofNat 128 (w / 2 ^ 11)) (Fin.ofNat 128 (w / 2 ^ 4)))
  | _ => .bad .unassigned

/-- Opcode 0x15, format A (R245). -/
def decOp15 (w : Nat) : Decoded :=
  match fld w 0 4 with
  | 0 => need w [] (.ffma (Fin.ofNat 128 (w / 2 ^ 18)) (Fin.ofNat 128 (w / 2 ^ 11)) (Fin.ofNat 128 (w / 2 ^ 4)))
  | 1 => need w [] (.ffms (Fin.ofNat 128 (w / 2 ^ 18)) (Fin.ofNat 128 (w / 2 ^ 11)) (Fin.ofNat 128 (w / 2 ^ 4)))
  | 2 => need w [] (.fnma (Fin.ofNat 128 (w / 2 ^ 18)) (Fin.ofNat 128 (w / 2 ^ 11)) (Fin.ofNat 128 (w / 2 ^ 4)))
  | _ => .bad .unassigned

/-- Opcode 0x16, format A (R245). -/
def decOp16 (w : Nat) : Decoded :=
  match fld w 0 4 with
  | 0 => need w [(4, 7)] (.fcvt (Fin.ofNat 128 (w / 2 ^ 18)) (Fin.ofNat 128 (w / 2 ^ 11)))
  | 1 => need w [] (.fcvts (Fin.ofNat 128 (w / 2 ^ 18)) (Fin.ofNat 128 (w / 2 ^ 11)) (Fin.ofNat 128 (w / 2 ^ 4)))
  | 2 => need w [] (.vpack (Fin.ofNat 128 (w / 2 ^ 18)) (Fin.ofNat 128 (w / 2 ^ 11)) (Fin.ofNat 128 (w / 2 ^ 4)))
  | 3 => need w [] (.vunpk (Fin.ofNat 128 (w / 2 ^ 18)) (Fin.ofNat 128 (w / 2 ^ 11)) (Fin.ofNat 128 (w / 2 ^ 4)))
  | _ => .bad .unassigned

/-- Opcode 0x17, format A (R245). -/
def decOp17 (w : Nat) : Decoded :=
  match fld w 0 4 with
  | 0 => need w [(4, 7)] (.frcpa (Fin.ofNat 128 (w / 2 ^ 18)) (Fin.ofNat 128 (w / 2 ^ 11)))
  | 1 => need w [(4, 7)] (.frsqa (Fin.ofNat 128 (w / 2 ^ 18)) (Fin.ofNat 128 (w / 2 ^ 11)))
  | 2 => need w [(4, 7)] (.fexp2 (Fin.ofNat 128 (w / 2 ^ 18)) (Fin.ofNat 128 (w / 2 ^ 11)))
  | 3 => need w [(4, 7)] (.flog2 (Fin.ofNat 128 (w / 2 ^ 18)) (Fin.ofNat 128 (w / 2 ^ 11)))
  | 4 => need w [(4, 7)] (.fsin (Fin.ofNat 128 (w / 2 ^ 18)) (Fin.ofNat 128 (w / 2 ^ 11)))
  | 5 => need w [(4, 7)] (.fcos (Fin.ofNat 128 (w / 2 ^ 18)) (Fin.ofNat 128 (w / 2 ^ 11)))
  | 6 => need w [(4, 7)] (.ftanh (Fin.ofNat 128 (w / 2 ^ 18)) (Fin.ofNat 128 (w / 2 ^ 11)))
  | _ => .bad .unassigned

/-- Opcode 0x18, format A (R245). -/
def decOp18 (w : Nat) : Decoded :=
  match fld w 0 4 with
  | 0 => need w [] (.fdiv (Fin.ofNat 128 (w / 2 ^ 18)) (Fin.ofNat 128 (w / 2 ^ 11)) (Fin.ofNat 128 (w / 2 ^ 4)))
  | 1 => need w [(4, 7)] (.fsqrt (Fin.ofNat 128 (w / 2 ^ 18)) (Fin.ofNat 128 (w / 2 ^ 11)))
  | 2 => need w [(4, 7)] (.frsq (Fin.ofNat 128 (w / 2 ^ 18)) (Fin.ofNat 128 (w / 2 ^ 11)))
  | _ => .bad .unassigned

/-- Opcode 0x19, format A (R245). -/
def decOp19 (w : Nat) : Decoded :=
  match fld w 0 4 with
  | 0 => need w [] (.vshuf (Fin.ofNat 128 (w / 2 ^ 18)) (Fin.ofNat 128 (w / 2 ^ 11)) (Fin.ofNat 128 (w / 2 ^ 4)))
  | 1 => need w [(10, 1)] (.vbcast (Fin.ofNat 128 (w / 2 ^ 18)) (Fin.ofNat 128 (w / 2 ^ 11)) (Fin.ofNat 64 (w / 2 ^ 4)))
  | 2 => need w [(24, 1), (4, 7)] (.vredadd (Fin.ofNat 64 (w / 2 ^ 18)) (Fin.ofNat 128 (w / 2 ^ 11)))
  | 3 => need w [(24, 1), (4, 7)] (.vredmin (Fin.ofNat 64 (w / 2 ^ 18)) (Fin.ofNat 128 (w / 2 ^ 11)))
  | 4 => need w [(24, 1), (4, 7)] (.vredmax (Fin.ofNat 64 (w / 2 ^ 18)) (Fin.ofNat 128 (w / 2 ^ 11)))
  | 5 => need w [(4, 7)] (.vscan (Fin.ofNat 128 (w / 2 ^ 18)) (Fin.ofNat 128 (w / 2 ^ 11)))
  | 6 => need w [(24, 1), (4, 7)] (.vballot (Fin.ofNat 64 (w / 2 ^ 18)) (Fin.ofNat 128 (w / 2 ^ 11)))
  | 7 => need w [(10, 1)] (.vcompact (Fin.ofNat 128 (w / 2 ^ 18)) (Fin.ofNat 128 (w / 2 ^ 11)) (Fin.ofNat 64 (w / 2 ^ 4)))
  | 8 => need w [(17, 1), (4, 7)] (.vlane (Fin.ofNat 128 (w / 2 ^ 18)) (Fin.ofNat 64 (w / 2 ^ 11)))
  | 9 => need w [(17, 1), (4, 7)] (.movsv (Fin.ofNat 128 (w / 2 ^ 18)) (Fin.ofNat 64 (w / 2 ^ 11)))
  | 10 => need w [(24, 1), (10, 1)] (.movvs (Fin.ofNat 64 (w / 2 ^ 18)) (Fin.ofNat 128 (w / 2 ^ 11)) (Fin.ofNat 64 (w / 2 ^ 4)))
  | _ => .bad .unassigned

/-- Opcode 0x20, format C (R245). -/
def decOp20 (w : Nat) : Decoded :=
  need w [] (.bra (BitVec.ofNat 25 (w)))

/-- Opcode 0x21, format C (R245). -/
def decOp21 (w : Nat) : Decoded :=
  need w [] (.bdiv (BitVec.ofNat 25 (w)))

/-- Opcode 0x22, format C (R245). -/
def decOp22 (w : Nat) : Decoded :=
  need w [] (.rcv (BitVec.ofNat 25 (w)))

/-- Opcode 0x23, format C (R245). -/
def decOp23 (w : Nat) : Decoded :=
  need w [] (.bsr (BitVec.ofNat 25 (w)))

/-- Opcode 0x24, format C (R245). -/
def decOp24 (w : Nat) : Decoded :=
  need w [] (.pool (BitVec.ofNat 25 (w)))

/-- Opcode 0x25, format A (R245). -/
def decOp25 (w : Nat) : Decoded :=
  match fld w 0 4 with
  | 0 => need w [(24, 1), (17, 1), (4, 7)] (.jmp (Fin.ofNat 64 (w / 2 ^ 18)) (Fin.ofNat 64 (w / 2 ^ 11)))
  | 1 => need w [(17, 8), (4, 7)] (.rets (Fin.ofNat 64 (w / 2 ^ 11)))
  | 2 => need w [(17, 8), (4, 7)] (.sels (Fin.ofNat 64 (w / 2 ^ 11)))
  | 3 => need w [(4, 21)] (.exit)
  | 4 => need w [(4, 21)] (.nop)
  | 5 => need w [(12, 13)] (.trap (BitVec.ofNat 8 (w / 2 ^ 4)))
  | 6 => need w [(18, 7), (4, 7)] (.tres (Fin.ofNat 128 (w / 2 ^ 11)))
  | 7 => need w [] (.trec (Fin.ofNat 128 (w / 2 ^ 18)) (Fin.ofNat 128 (w / 2 ^ 11)) (Fin.ofNat 128 (w / 2 ^ 4)))
  | _ => .bad .unassigned

/-- Opcode 0x26, format A (R245). -/
def decOp26 (w : Nat) : Decoded :=
  match fld w 0 4 with
  | 0 => need w [(24, 1), (4, 14)] (.tick (Fin.ofNat 64 (w / 2 ^ 18)))
  | 1 => need w [(24, 1), (4, 14)] (.tai (Fin.ofNat 64 (w / 2 ^ 18)))
  | 2 => need w [(17, 8), (4, 7)] (.waitt (Fin.ofNat 64 (w / 2 ^ 11)))
  | _ => .bad .unassigned

/-- Opcode 0x30, format M (R245). -/
def decOp30 (w : Nat) : Decoded :=
  match fld w 4 3 with
  | 0 => need w [] (.ldU8 (Fin.ofNat 128 (w / 2 ^ 18)) (Fin.ofNat 128 (w / 2 ^ 11)) (Fin.ofNat 16 (w / 2 ^ 7)) (Fin.ofNat 16 (w)))
  | 1 => need w [] (.ldI8 (Fin.ofNat 128 (w / 2 ^ 18)) (Fin.ofNat 128 (w / 2 ^ 11)) (Fin.ofNat 16 (w / 2 ^ 7)) (Fin.ofNat 16 (w)))
  | 2 => need w [] (.ldU16 (Fin.ofNat 128 (w / 2 ^ 18)) (Fin.ofNat 128 (w / 2 ^ 11)) (Fin.ofNat 16 (w / 2 ^ 7)) (Fin.ofNat 16 (w)))
  | 3 => need w [] (.ldI16 (Fin.ofNat 128 (w / 2 ^ 18)) (Fin.ofNat 128 (w / 2 ^ 11)) (Fin.ofNat 16 (w / 2 ^ 7)) (Fin.ofNat 16 (w)))
  | 4 => need w [] (.ld32 (Fin.ofNat 128 (w / 2 ^ 18)) (Fin.ofNat 128 (w / 2 ^ 11)) (Fin.ofNat 16 (w / 2 ^ 7)) (Fin.ofNat 16 (w)))
  | 5 => need w [] (.ld64 (Fin.ofNat 128 (w / 2 ^ 18)) (Fin.ofNat 128 (w / 2 ^ 11)) (Fin.ofNat 16 (w / 2 ^ 7)) (Fin.ofNat 16 (w)))
  | 6 => need w [] (.ld128 (Fin.ofNat 128 (w / 2 ^ 18)) (Fin.ofNat 128 (w / 2 ^ 11)) (Fin.ofNat 16 (w / 2 ^ 7)) (Fin.ofNat 16 (w)))
  | _ => .bad .unassigned

/-- Opcode 0x31, format M (R245). -/
def decOp31 (w : Nat) : Decoded :=
  match fld w 4 3 with
  | 0 => need w [] (.st8 (Fin.ofNat 128 (w / 2 ^ 18)) (Fin.ofNat 128 (w / 2 ^ 11)) (Fin.ofNat 16 (w / 2 ^ 7)) (Fin.ofNat 16 (w)))
  | 1 => need w [] (.st16 (Fin.ofNat 128 (w / 2 ^ 18)) (Fin.ofNat 128 (w / 2 ^ 11)) (Fin.ofNat 16 (w / 2 ^ 7)) (Fin.ofNat 16 (w)))
  | 2 => need w [] (.st32 (Fin.ofNat 128 (w / 2 ^ 18)) (Fin.ofNat 128 (w / 2 ^ 11)) (Fin.ofNat 16 (w / 2 ^ 7)) (Fin.ofNat 16 (w)))
  | 3 => need w [] (.st64 (Fin.ofNat 128 (w / 2 ^ 18)) (Fin.ofNat 128 (w / 2 ^ 11)) (Fin.ofNat 16 (w / 2 ^ 7)) (Fin.ofNat 16 (w)))
  | 4 => need w [] (.st128 (Fin.ofNat 128 (w / 2 ^ 18)) (Fin.ofNat 128 (w / 2 ^ 11)) (Fin.ofNat 16 (w / 2 ^ 7)) (Fin.ofNat 16 (w)))
  | _ => .bad .unassigned

/-- Opcode 0x32, format M (R245). -/
def decOp32 (w : Nat) : Decoded :=
  match fld w 4 3 with
  | 0 => need w [] (.ldaTeam (Fin.ofNat 128 (w / 2 ^ 18)) (Fin.ofNat 128 (w / 2 ^ 11)) (Fin.ofNat 16 (w / 2 ^ 7)) (Fin.ofNat 16 (w)))
  | 1 => need w [] (.ldaCluster (Fin.ofNat 128 (w / 2 ^ 18)) (Fin.ofNat 128 (w / 2 ^ 11)) (Fin.ofNat 16 (w / 2 ^ 7)) (Fin.ofNat 16 (w)))
  | 2 => need w [] (.ldaDie (Fin.ofNat 128 (w / 2 ^ 18)) (Fin.ofNat 128 (w / 2 ^ 11)) (Fin.ofNat 16 (w / 2 ^ 7)) (Fin.ofNat 16 (w)))
  | 3 => need w [] (.ldaPackage (Fin.ofNat 128 (w / 2 ^ 18)) (Fin.ofNat 128 (w / 2 ^ 11)) (Fin.ofNat 16 (w / 2 ^ 7)) (Fin.ofNat 16 (w)))
  | 4 => need w [] (.ldaGroup (Fin.ofNat 128 (w / 2 ^ 18)) (Fin.ofNat 128 (w / 2 ^ 11)) (Fin.ofNat 16 (w / 2 ^ 7)) (Fin.ofNat 16 (w)))
  | 5 => need w [] (.ldaSystem (Fin.ofNat 128 (w / 2 ^ 18)) (Fin.ofNat 128 (w / 2 ^ 11)) (Fin.ofNat 16 (w / 2 ^ 7)) (Fin.ofNat 16 (w)))
  | _ => .bad .unassigned

/-- Opcode 0x33, format M (R245). -/
def decOp33 (w : Nat) : Decoded :=
  match fld w 4 3 with
  | 0 => need w [] (.stlTeam (Fin.ofNat 128 (w / 2 ^ 18)) (Fin.ofNat 128 (w / 2 ^ 11)) (Fin.ofNat 16 (w / 2 ^ 7)) (Fin.ofNat 16 (w)))
  | 1 => need w [] (.stlCluster (Fin.ofNat 128 (w / 2 ^ 18)) (Fin.ofNat 128 (w / 2 ^ 11)) (Fin.ofNat 16 (w / 2 ^ 7)) (Fin.ofNat 16 (w)))
  | 2 => need w [] (.stlDie (Fin.ofNat 128 (w / 2 ^ 18)) (Fin.ofNat 128 (w / 2 ^ 11)) (Fin.ofNat 16 (w / 2 ^ 7)) (Fin.ofNat 16 (w)))
  | 3 => need w [] (.stlPackage (Fin.ofNat 128 (w / 2 ^ 18)) (Fin.ofNat 128 (w / 2 ^ 11)) (Fin.ofNat 16 (w / 2 ^ 7)) (Fin.ofNat 16 (w)))
  | 4 => need w [] (.stlGroup (Fin.ofNat 128 (w / 2 ^ 18)) (Fin.ofNat 128 (w / 2 ^ 11)) (Fin.ofNat 16 (w / 2 ^ 7)) (Fin.ofNat 16 (w)))
  | 5 => need w [] (.stlSystem (Fin.ofNat 128 (w / 2 ^ 18)) (Fin.ofNat 128 (w / 2 ^ 11)) (Fin.ofNat 16 (w / 2 ^ 7)) (Fin.ofNat 16 (w)))
  | _ => .bad .unassigned

/-- Opcode 0x34, format M (R245). -/
def decOp34 (w : Nat) : Decoded :=
  match fld w 4 3 with
  | 0 => need w [(0, 4)] (.ldfe (Fin.ofNat 128 (w / 2 ^ 18)) (Fin.ofNat 128 (w / 2 ^ 11)) (Fin.ofNat 16 (w / 2 ^ 7)))
  | 1 => need w [(0, 4)] (.ldff (Fin.ofNat 128 (w / 2 ^ 18)) (Fin.ofNat 128 (w / 2 ^ 11)) (Fin.ofNat 16 (w / 2 ^ 7)))
  | 2 => need w [(0, 4)] (.stfe (Fin.ofNat 128 (w / 2 ^ 18)) (Fin.ofNat 128 (w / 2 ^ 11)) (Fin.ofNat 16 (w / 2 ^ 7)))
  | 3 => need w [(0, 4)] (.stff (Fin.ofNat 128 (w / 2 ^ 18)) (Fin.ofNat 128 (w / 2 ^ 11)) (Fin.ofNat 16 (w / 2 ^ 7)))
  | 4 => need w [] (.tagrd (Fin.ofNat 128 (w / 2 ^ 18)) (Fin.ofNat 128 (w / 2 ^ 11)) (Fin.ofNat 16 (w / 2 ^ 7)) (Fin.ofNat 16 (w)))
  | 5 => need w [] (.tagwr (Fin.ofNat 128 (w / 2 ^ 18)) (Fin.ofNat 128 (w / 2 ^ 11)) (Fin.ofNat 16 (w / 2 ^ 7)) (Fin.ofNat 16 (w)))
  | _ => .bad .unassigned

/-- Opcode 0x35, format M (R245). -/
def decOp35 (w : Nat) : Decoded :=
  match fld w 4 3 with
  | 0 => need w [(0, 4)] (.ldc (Fin.ofNat 128 (w / 2 ^ 18)) (Fin.ofNat 128 (w / 2 ^ 11)) (Fin.ofNat 16 (w / 2 ^ 7)))
  | 1 => need w [(0, 4)] (.stp (Fin.ofNat 128 (w / 2 ^ 18)) (Fin.ofNat 128 (w / 2 ^ 11)) (Fin.ofNat 16 (w / 2 ^ 7)))
  | 2 => need w [] (.lnrd (Fin.ofNat 128 (w / 2 ^ 18)) (Fin.ofNat 128 (w / 2 ^ 11)) (Fin.ofNat 16 (w / 2 ^ 7)) (Fin.ofNat 16 (w)))
  | 3 => need w [] (.lnwr (Fin.ofNat 128 (w / 2 ^ 18)) (Fin.ofNat 128 (w / 2 ^ 11)) (Fin.ofNat 16 (w / 2 ^ 7)) (Fin.ofNat 16 (w)))
  | _ => .bad .unassigned

/-- Opcode 0x36, format M (R245). -/
def decOp36 (w : Nat) : Decoded :=
  match fld w 4 3 with
  | 0 => need w [(18, 7)] (.pref (Fin.ofNat 128 (w / 2 ^ 11)) (Fin.ofNat 16 (w / 2 ^ 7)) (Fin.ofNat 16 (w)))
  | 1 => need w [(18, 7)] (.cwb (Fin.ofNat 128 (w / 2 ^ 11)) (Fin.ofNat 16 (w / 2 ^ 7)) (Fin.ofNat 16 (w)))
  | 2 => need w [(18, 7)] (.cinv (Fin.ofNat 128 (w / 2 ^ 11)) (Fin.ofNat 16 (w / 2 ^ 7)) (Fin.ofNat 16 (w)))
  | 3 => need w [(18, 7)] (.iinv (Fin.ofNat 128 (w / 2 ^ 11)) (Fin.ofNat 16 (w / 2 ^ 7)) (Fin.ofNat 16 (w)))
  | _ => .bad .unassigned

/-- Opcode 0x37, format M (R245). -/
def decOp37 (w : Nat) : Decoded :=
  match fld w 4 3 with
  | 0 => need w [(22, 3), (17, 1), (7, 4)] (.ldb (Fin.ofNat 16 (w / 2 ^ 18)) (Fin.ofNat 64 (w / 2 ^ 11)) (Fin.ofNat 16 (w)))
  | 1 => need w [(22, 3), (17, 1)] (.mkb (Fin.ofNat 16 (w / 2 ^ 18)) (Fin.ofNat 64 (w / 2 ^ 11)) (Fin.ofNat 16 (w / 2 ^ 7)) (Fin.ofNat 16 (w)))
  | 2 => need w [(24, 1), (11, 7)] (.brd (Fin.ofNat 64 (w / 2 ^ 18)) (Fin.ofNat 16 (w / 2 ^ 7)) (Fin.ofNat 16 (w)))
  | _ => .bad .unassigned

/-- Opcode 0x38, format M (R245). -/
def decOp38 (w : Nat) : Decoded :=
  match fld w 4 3 with
  | 0 => need w [] (.vqntSb3 (Fin.ofNat 128 (w / 2 ^ 18)) (Fin.ofNat 128 (w / 2 ^ 11)) (Fin.ofNat 16 (w / 2 ^ 7)) (Fin.ofNat 16 (w)))
  | 1 => need w [] (.vqntSb5 (Fin.ofNat 128 (w / 2 ^ 18)) (Fin.ofNat 128 (w / 2 ^ 11)) (Fin.ofNat 16 (w / 2 ^ 7)) (Fin.ofNat 16 (w)))
  | 2 => need w [] (.vqntSb8 (Fin.ofNat 128 (w / 2 ^ 18)) (Fin.ofNat 128 (w / 2 ^ 11)) (Fin.ofNat 16 (w / 2 ^ 7)) (Fin.ofNat 16 (w)))
  | 3 => need w [] (.vqntE4m3 (Fin.ofNat 128 (w / 2 ^ 18)) (Fin.ofNat 128 (w / 2 ^ 11)) (Fin.ofNat 16 (w / 2 ^ 7)) (Fin.ofNat 16 (w)))
  | 4 => need w [] (.vqntE5m2 (Fin.ofNat 128 (w / 2 ^ 18)) (Fin.ofNat 128 (w / 2 ^ 11)) (Fin.ofNat 16 (w / 2 ^ 7)) (Fin.ofNat 16 (w)))
  | _ => .bad .unassigned

/-- Opcode 0x39, format M (R245). -/
def decOp39 (w : Nat) : Decoded :=
  match fld w 4 3 with
  | 0 => need w [] (.vdqSb3 (Fin.ofNat 128 (w / 2 ^ 18)) (Fin.ofNat 128 (w / 2 ^ 11)) (Fin.ofNat 16 (w / 2 ^ 7)) (Fin.ofNat 16 (w)))
  | 1 => need w [] (.vdqSb5 (Fin.ofNat 128 (w / 2 ^ 18)) (Fin.ofNat 128 (w / 2 ^ 11)) (Fin.ofNat 16 (w / 2 ^ 7)) (Fin.ofNat 16 (w)))
  | 2 => need w [] (.vdqSb8 (Fin.ofNat 128 (w / 2 ^ 18)) (Fin.ofNat 128 (w / 2 ^ 11)) (Fin.ofNat 16 (w / 2 ^ 7)) (Fin.ofNat 16 (w)))
  | 3 => need w [] (.vdqE4m3 (Fin.ofNat 128 (w / 2 ^ 18)) (Fin.ofNat 128 (w / 2 ^ 11)) (Fin.ofNat 16 (w / 2 ^ 7)) (Fin.ofNat 16 (w)))
  | 4 => need w [] (.vdqE5m2 (Fin.ofNat 128 (w / 2 ^ 18)) (Fin.ofNat 128 (w / 2 ^ 11)) (Fin.ofNat 16 (w / 2 ^ 7)) (Fin.ofNat 16 (w)))
  | _ => .bad .unassigned

/-- Opcode 0x3A, format S (R245). -/
def decOp3A (w : Nat) : Decoded :=
  need w [(6, 19), (3, 1)] (.fence (Fin.ofNat 4 (w / 2 ^ 4)) (Fin.ofNat 8 (w)))

/-- Opcode 0x3B, format A (R245). -/
def decOp3B (w : Nat) : Decoded :=
  need w [(0, 25)] (.fbar)

/-- Opcode 0x40, format M (R245). -/
def decOp40 (w : Nat) : Decoded :=
  match fld w 4 3 with
  | 0 => need w [] (.atomAdd (Fin.ofNat 128 (w / 2 ^ 18)) (Fin.ofNat 128 (w / 2 ^ 11)) (Fin.ofNat 16 (w / 2 ^ 7)) (Fin.ofNat 16 (w)))
  | 1 => need w [] (.atomMin (Fin.ofNat 128 (w / 2 ^ 18)) (Fin.ofNat 128 (w / 2 ^ 11)) (Fin.ofNat 16 (w / 2 ^ 7)) (Fin.ofNat 16 (w)))
  | 2 => need w [] (.atomMax (Fin.ofNat 128 (w / 2 ^ 18)) (Fin.ofNat 128 (w / 2 ^ 11)) (Fin.ofNat 16 (w / 2 ^ 7)) (Fin.ofNat 16 (w)))
  | 3 => need w [] (.atomAnd (Fin.ofNat 128 (w / 2 ^ 18)) (Fin.ofNat 128 (w / 2 ^ 11)) (Fin.ofNat 16 (w / 2 ^ 7)) (Fin.ofNat 16 (w)))
  | 4 => need w [] (.atomOr (Fin.ofNat 128 (w / 2 ^ 18)) (Fin.ofNat 128 (w / 2 ^ 11)) (Fin.ofNat 16 (w / 2 ^ 7)) (Fin.ofNat 16 (w)))
  | 5 => need w [] (.atomXor (Fin.ofNat 128 (w / 2 ^ 18)) (Fin.ofNat 128 (w / 2 ^ 11)) (Fin.ofNat 16 (w / 2 ^ 7)) (Fin.ofNat 16 (w)))
  | 6 => need w [] (.atomXchg (Fin.ofNat 128 (w / 2 ^ 18)) (Fin.ofNat 128 (w / 2 ^ 11)) (Fin.ofNat 16 (w / 2 ^ 7)) (Fin.ofNat 16 (w)))
  | 7 => need w [] (.atomFadd (Fin.ofNat 128 (w / 2 ^ 18)) (Fin.ofNat 128 (w / 2 ^ 11)) (Fin.ofNat 16 (w / 2 ^ 7)) (Fin.ofNat 16 (w)))
  | _ => .bad .unassigned

/-- Opcode 0x41, format M (R245). -/
def decOp41 (w : Nat) : Decoded :=
  match fld w 4 3 with
  | 0 => need w [] (.atomaAdd (Fin.ofNat 128 (w / 2 ^ 18)) (Fin.ofNat 128 (w / 2 ^ 11)) (Fin.ofNat 16 (w / 2 ^ 7)) (Fin.ofNat 16 (w)))
  | 1 => need w [] (.atomaMin (Fin.ofNat 128 (w / 2 ^ 18)) (Fin.ofNat 128 (w / 2 ^ 11)) (Fin.ofNat 16 (w / 2 ^ 7)) (Fin.ofNat 16 (w)))
  | 2 => need w [] (.atomaMax (Fin.ofNat 128 (w / 2 ^ 18)) (Fin.ofNat 128 (w / 2 ^ 11)) (Fin.ofNat 16 (w / 2 ^ 7)) (Fin.ofNat 16 (w)))
  | 3 => need w [] (.atomaAnd (Fin.ofNat 128 (w / 2 ^ 18)) (Fin.ofNat 128 (w / 2 ^ 11)) (Fin.ofNat 16 (w / 2 ^ 7)) (Fin.ofNat 16 (w)))
  | 4 => need w [] (.atomaOr (Fin.ofNat 128 (w / 2 ^ 18)) (Fin.ofNat 128 (w / 2 ^ 11)) (Fin.ofNat 16 (w / 2 ^ 7)) (Fin.ofNat 16 (w)))
  | 5 => need w [] (.atomaXor (Fin.ofNat 128 (w / 2 ^ 18)) (Fin.ofNat 128 (w / 2 ^ 11)) (Fin.ofNat 16 (w / 2 ^ 7)) (Fin.ofNat 16 (w)))
  | 6 => need w [] (.atomaXchg (Fin.ofNat 128 (w / 2 ^ 18)) (Fin.ofNat 128 (w / 2 ^ 11)) (Fin.ofNat 16 (w / 2 ^ 7)) (Fin.ofNat 16 (w)))
  | 7 => need w [] (.atomaFadd (Fin.ofNat 128 (w / 2 ^ 18)) (Fin.ofNat 128 (w / 2 ^ 11)) (Fin.ofNat 16 (w / 2 ^ 7)) (Fin.ofNat 16 (w)))
  | _ => .bad .unassigned

/-- Opcode 0x42, format M (R245). -/
def decOp42 (w : Nat) : Decoded :=
  match fld w 4 3 with
  | 0 => need w [] (.atomlAdd (Fin.ofNat 128 (w / 2 ^ 18)) (Fin.ofNat 128 (w / 2 ^ 11)) (Fin.ofNat 16 (w / 2 ^ 7)) (Fin.ofNat 16 (w)))
  | 1 => need w [] (.atomlMin (Fin.ofNat 128 (w / 2 ^ 18)) (Fin.ofNat 128 (w / 2 ^ 11)) (Fin.ofNat 16 (w / 2 ^ 7)) (Fin.ofNat 16 (w)))
  | 2 => need w [] (.atomlMax (Fin.ofNat 128 (w / 2 ^ 18)) (Fin.ofNat 128 (w / 2 ^ 11)) (Fin.ofNat 16 (w / 2 ^ 7)) (Fin.ofNat 16 (w)))
  | 3 => need w [] (.atomlAnd (Fin.ofNat 128 (w / 2 ^ 18)) (Fin.ofNat 128 (w / 2 ^ 11)) (Fin.ofNat 16 (w / 2 ^ 7)) (Fin.ofNat 16 (w)))
  | 4 => need w [] (.atomlOr (Fin.ofNat 128 (w / 2 ^ 18)) (Fin.ofNat 128 (w / 2 ^ 11)) (Fin.ofNat 16 (w / 2 ^ 7)) (Fin.ofNat 16 (w)))
  | 5 => need w [] (.atomlXor (Fin.ofNat 128 (w / 2 ^ 18)) (Fin.ofNat 128 (w / 2 ^ 11)) (Fin.ofNat 16 (w / 2 ^ 7)) (Fin.ofNat 16 (w)))
  | 6 => need w [] (.atomlXchg (Fin.ofNat 128 (w / 2 ^ 18)) (Fin.ofNat 128 (w / 2 ^ 11)) (Fin.ofNat 16 (w / 2 ^ 7)) (Fin.ofNat 16 (w)))
  | 7 => need w [] (.atomlFadd (Fin.ofNat 128 (w / 2 ^ 18)) (Fin.ofNat 128 (w / 2 ^ 11)) (Fin.ofNat 16 (w / 2 ^ 7)) (Fin.ofNat 16 (w)))
  | _ => .bad .unassigned

/-- Opcode 0x43, format M (R245). -/
def decOp43 (w : Nat) : Decoded :=
  need w [(4, 3)] (.acas (Fin.ofNat 128 (w / 2 ^ 18)) (Fin.ofNat 128 (w / 2 ^ 11)) (Fin.ofNat 16 (w / 2 ^ 7)) (Fin.ofNat 16 (w)))

/-- Opcode 0x44, format M (R245). -/
def decOp44 (w : Nat) : Decoded :=
  match fld w 4 3 with
  | 0 => need w [] (.aredAdd (Fin.ofNat 128 (w / 2 ^ 18)) (Fin.ofNat 128 (w / 2 ^ 11)) (Fin.ofNat 16 (w / 2 ^ 7)) (Fin.ofNat 16 (w)))
  | 1 => need w [] (.aredMin (Fin.ofNat 128 (w / 2 ^ 18)) (Fin.ofNat 128 (w / 2 ^ 11)) (Fin.ofNat 16 (w / 2 ^ 7)) (Fin.ofNat 16 (w)))
  | 2 => need w [] (.aredMax (Fin.ofNat 128 (w / 2 ^ 18)) (Fin.ofNat 128 (w / 2 ^ 11)) (Fin.ofNat 16 (w / 2 ^ 7)) (Fin.ofNat 16 (w)))
  | 3 => need w [] (.aredAnd (Fin.ofNat 128 (w / 2 ^ 18)) (Fin.ofNat 128 (w / 2 ^ 11)) (Fin.ofNat 16 (w / 2 ^ 7)) (Fin.ofNat 16 (w)))
  | 4 => need w [] (.aredOr (Fin.ofNat 128 (w / 2 ^ 18)) (Fin.ofNat 128 (w / 2 ^ 11)) (Fin.ofNat 16 (w / 2 ^ 7)) (Fin.ofNat 16 (w)))
  | 5 => need w [] (.aredXor (Fin.ofNat 128 (w / 2 ^ 18)) (Fin.ofNat 128 (w / 2 ^ 11)) (Fin.ofNat 16 (w / 2 ^ 7)) (Fin.ofNat 16 (w)))
  | 6 => need w [] (.aredXchg (Fin.ofNat 128 (w / 2 ^ 18)) (Fin.ofNat 128 (w / 2 ^ 11)) (Fin.ofNat 16 (w / 2 ^ 7)) (Fin.ofNat 16 (w)))
  | 7 => need w [] (.aredFadd (Fin.ofNat 128 (w / 2 ^ 18)) (Fin.ofNat 128 (w / 2 ^ 11)) (Fin.ofNat 16 (w / 2 ^ 7)) (Fin.ofNat 16 (w)))
  | _ => .bad .unassigned

/-- Opcode 0x48, format S (R245). -/
def decOp48 (w : Nat) : Decoded :=
  if selectorFits w then need w [(11, 14), (7, 1)] (.bar (Fin.ofNat 8 (w / 2 ^ 8)) (Fin.ofNat 128 (w))) else .bad .reserved

/-- Opcode 0x49, format S (R245). -/
def decOp49 (w : Nat) : Decoded :=
  if selectorFits w then need w [(11, 14), (7, 1)] (.bara (Fin.ofNat 8 (w / 2 ^ 8)) (Fin.ofNat 128 (w))) else .bad .reserved

/-- Opcode 0x4A, format S (R245). -/
def decOp4A (w : Nat) : Decoded :=
  if selectorFits w then need w [(11, 14), (7, 1)] (.barw (Fin.ofNat 8 (w / 2 ^ 8)) (Fin.ofNat 128 (w))) else .bad .reserved

/-- Opcode 0x4B, format S (R245). -/
def decOp4B (w : Nat) : Decoded :=
  if selectorFits w then need w [(17, 8), (7, 1)] (.barx (Fin.ofNat 64 (w / 2 ^ 11)) (Fin.ofNat 8 (w / 2 ^ 8)) (Fin.ofNat 128 (w))) else .bad .reserved

/-- Opcode 0x4C, format S (R245). -/
def decOp4C (w : Nat) : Decoded :=
  if selectorFits w then need w [(17, 8), (7, 1)] (.barinit (Fin.ofNat 64 (w / 2 ^ 11)) (Fin.ofNat 8 (w / 2 ^ 8)) (Fin.ofNat 128 (w))) else .bad .reserved

/-- Opcode 0x4D, format S (R245). -/
def decOp4D (w : Nat) : Decoded :=
  need w [(24, 1), (17, 1), (0, 11)] (.baralloc (Fin.ofNat 64 (w / 2 ^ 18)) (Fin.ofNat 64 (w / 2 ^ 11)))

/-- Opcode 0x4E, format S (R245). -/
def decOp4E (w : Nat) : Decoded :=
  if !zeros w [(24, 1), (11, 7), (7, 1)] || !selectorFits w then .bad .reserved
  else if fld w 8 3 == 1 then .ok (.barfree (Fin.ofNat 64 (w / 2 ^ 18)) (Fin.ofNat 128 (w))) else .bad .outOfRange

/-- Opcode 0x4F, format S (R245). -/
def decOp4F (w : Nat) : Decoded :=
  if !zeros w [(17, 8), (3, 5)] then .bad .reserved
  else if (fld w 0 3 == 3 || fld w 0 3 == 4) && fld w 11 1 == 1 && fld w 8 3 != 4 then .bad .misnumbered
  else if fld w 8 3 != 4 then .bad .outOfRange
  else match fld w 0 3 with
  | 0 => .ok (.barmAw (Fin.ofNat 64 (w / 2 ^ 11)))
  | 1 => .ok (.barmArrive (Fin.ofNat 64 (w / 2 ^ 11)))
  | 2 => .ok (.barmWait (Fin.ofNat 64 (w / 2 ^ 11)))
  | 3 => .ok (.barmBytes (Fin.ofNat 64 (w / 2 ^ 11)))
  | 4 => .ok (.barmInit (Fin.ofNat 64 (w / 2 ^ 11)))
  | _ => .bad .outOfRange

/-- Opcode 0x50, format S (R245). -/
def decOp50 (w : Nat) : Decoded :=
  need w [(18, 7), (0, 11)] (.wsync (Fin.ofNat 128 (w / 2 ^ 11)))

/-- Opcode 0x51, format M (R245). -/
noncomputable def decOp51 (w : Nat) : Decoded :=
  match fld w 4 3 with
  | 0 => need w [(18, 7)] (.monTeam (Fin.ofNat 128 (w / 2 ^ 11)) (Fin.ofNat 16 (w / 2 ^ 7)) (Fin.ofNat 16 (w)))
  | 1 => need w [(18, 7)] (.monCluster (Fin.ofNat 128 (w / 2 ^ 11)) (Fin.ofNat 16 (w / 2 ^ 7)) (Fin.ofNat 16 (w)))
  | 2 => need w [(18, 7)] (.monDie (Fin.ofNat 128 (w / 2 ^ 11)) (Fin.ofNat 16 (w / 2 ^ 7)) (Fin.ofNat 16 (w)))
  | 3 => need w [(18, 7)] (.monPackage (Fin.ofNat 128 (w / 2 ^ 11)) (Fin.ofNat 16 (w / 2 ^ 7)) (Fin.ofNat 16 (w)))
  | 4 => need w [(18, 7)] (.monGroup (Fin.ofNat 128 (w / 2 ^ 11)) (Fin.ofNat 16 (w / 2 ^ 7)) (Fin.ofNat 16 (w)))
  | 5 => need w [(18, 7)] (.monSystem (Fin.ofNat 128 (w / 2 ^ 11)) (Fin.ofNat 16 (w / 2 ^ 7)) (Fin.ofNat 16 (w)))
  | _ => .bad .unassigned

/-- Opcode 0x52, format S (R245). -/
noncomputable def decOp52 (w : Nat) : Decoded :=
  need w [(24, 1), (17, 1), (0, 11)] (.mwait (Fin.ofNat 64 (w / 2 ^ 18)) (Fin.ofNat 64 (w / 2 ^ 11)))

/-- Opcode 0x58, format E (R245). -/
noncomputable def decOp58 (w : Nat) : Decoded :=
  need w [(24, 1), (15, 3), (10, 1)] (.spawn (Fin.ofNat 64 (w / 2 ^ 18)) (Fin.ofNat 16 (w / 2 ^ 11)) (Fin.ofNat 64 (w / 2 ^ 4)) (Fin.ofNat 16 (w)))

/-- Opcode 0x59, format E (R245). -/
noncomputable def decOp59 (w : Nat) : Decoded :=
  need w [(24, 1), (15, 3), (10, 1), (0, 4)] (.join (Fin.ofNat 64 (w / 2 ^ 18)) (Fin.ofNat 16 (w / 2 ^ 11)) (Fin.ofNat 64 (w / 2 ^ 4)))

/-- Opcode 0x5A, format E (R245). -/
noncomputable def decOp5A (w : Nat) : Decoded :=
  need w [(24, 1), (15, 3), (10, 1)] (.ftest (Fin.ofNat 64 (w / 2 ^ 18)) (Fin.ofNat 16 (w / 2 ^ 11)) (Fin.ofNat 64 (w / 2 ^ 4)) (Fin.ofNat 16 (w)))

/-- Opcode 0x5B, format E (R245). -/
noncomputable def decOp5B (w : Nat) : Decoded :=
  need w [(24, 1), (15, 3), (10, 1)] (.ffill (Fin.ofNat 64 (w / 2 ^ 18)) (Fin.ofNat 16 (w / 2 ^ 11)) (Fin.ofNat 64 (w / 2 ^ 4)) (Fin.ofNat 16 (w)))

/-- Opcode 0x5C, format E (R245). -/
noncomputable def decOp5C (w : Nat) : Decoded :=
  need w [(17, 8), (0, 11)] (.tret (Fin.ofNat 64 (w / 2 ^ 11)))

/-- Opcode 0x60, format A (R245). -/
noncomputable def decOp60 (w : Nat) : Decoded :=
  need w [(24, 1), (15, 3), (10, 1), (0, 4)] (.center (Fin.ofNat 64 (w / 2 ^ 18)) (Fin.ofNat 16 (w / 2 ^ 11)) (Fin.ofNat 64 (w / 2 ^ 4)))

/-- Opcode 0x61, format A (R245). -/
noncomputable def decOp61 (w : Nat) : Decoded :=
  need w [(22, 3), (15, 3), (0, 4)] (.calu (Fin.ofNat 16 (w / 2 ^ 18)) (Fin.ofNat 16 (w / 2 ^ 11)) (Fin.ofNat 8 (w / 2 ^ 8)) (Fin.ofNat 16 (w / 2 ^ 4)))

/-- Opcode 0x62, format A (R245). -/
noncomputable def decOp62 (w : Nat) : Decoded :=
  match fld w 9 2 with
  | 0 => need w [(22, 3), (17, 1), (0, 9)] (.cmovCs (Fin.ofNat 16 (w / 2 ^ 18)) (Fin.ofNat 64 (w / 2 ^ 11)))
  | 1 => need w [(24, 1), (15, 3), (0, 9)] (.cmovSc (Fin.ofNat 64 (w / 2 ^ 18)) (Fin.ofNat 16 (w / 2 ^ 11)))
  | 2 => need w [(22, 3), (15, 3), (0, 9)] (.cmovCc (Fin.ofNat 16 (w / 2 ^ 18)) (Fin.ofNat 16 (w / 2 ^ 11)))
  | _ => need w [(22, 3), (0, 4)] (.cmovCi (Fin.ofNat 16 (w / 2 ^ 18)) (BitVec.ofNat 7 (w / 2 ^ 11)) (BitVec.ofNat 5 (w / 2 ^ 4)))

/-- Opcode 0x63, format A (R245). -/
noncomputable def decOp63 (w : Nat) : Decoded :=
  need w [(22, 3), (15, 3), (0, 9)] (.cld (Fin.ofNat 16 (w / 2 ^ 18)) (Fin.ofNat 16 (w / 2 ^ 11)) (Fin.ofNat 4 (w / 2 ^ 9)))

/-- Opcode 0x64, format A (R245). -/
noncomputable def decOp64 (w : Nat) : Decoded :=
  need w [(15, 10), (8, 1), (0, 4)] (.cst (Fin.ofNat 16 (w / 2 ^ 11)) (Fin.ofNat 4 (w / 2 ^ 9)) (Fin.ofNat 16 (w / 2 ^ 4)))

/-- Opcode 0x65, format C (R245). -/
noncomputable def decOp65 (w : Nat) : Decoded :=
  need w [] (.cbr (BitVec.ofNat 25 (w)))

/-- Opcode 0x66, format A (R245). -/
noncomputable def decOp66 (w : Nat) : Decoded :=
  need w [(0, 25)] (.cstep)

/-- Opcode 0x67, format A (R245). -/
noncomputable def decOp67 (w : Nat) : Decoded :=
  match fld w 0 4 with
  | 0 => need w [(4, 21)] (.cend)
  | 1 => need w [(4, 21)] (.cabort)
  | _ => .bad .unassigned

/-- Opcode 0x68, format E (R245). -/
noncomputable def decOp68 (w : Nat) : Decoded :=
  need w [(24, 1), (15, 3), (10, 1)] (.shcopy (Fin.ofNat 64 (w / 2 ^ 18)) (Fin.ofNat 16 (w / 2 ^ 11)) (Fin.ofNat 64 (w / 2 ^ 4)) (Fin.ofNat 16 (w)))

/-- Opcode 0x69, format E (R245). -/
noncomputable def decOp69 (w : Nat) : Decoded :=
  need w [(24, 1), (15, 3), (10, 1)] (.shgath (Fin.ofNat 64 (w / 2 ^ 18)) (Fin.ofNat 16 (w / 2 ^ 11)) (Fin.ofNat 64 (w / 2 ^ 4)) (Fin.ofNat 16 (w)))

/-- Opcode 0x6A, format E (R245). -/
noncomputable def decOp6A (w : Nat) : Decoded :=
  need w [(24, 1), (15, 3), (10, 1)] (.shscat (Fin.ofNat 64 (w / 2 ^ 18)) (Fin.ofNat 16 (w / 2 ^ 11)) (Fin.ofNat 64 (w / 2 ^ 4)) (Fin.ofNat 16 (w)))

/-- Opcode 0x6B, format E (R245). -/
noncomputable def decOp6B (w : Nat) : Decoded :=
  need w [(24, 1), (15, 3), (10, 1)] (.shmcast (Fin.ofNat 64 (w / 2 ^ 18)) (Fin.ofNat 16 (w / 2 ^ 11)) (Fin.ofNat 64 (w / 2 ^ 4)) (Fin.ofNat 16 (w)))

/-- Opcode 0x6C, format E (R245). -/
noncomputable def decOp6C (w : Nat) : Decoded :=
  need w [(24, 1), (17, 1), (4, 7)] (.shcan (Fin.ofNat 64 (w / 2 ^ 18)) (Fin.ofNat 64 (w / 2 ^ 11)) (Fin.ofNat 16 (w)))

/-- Opcode 0x6D, format E (R245). -/
noncomputable def decOp6D (w : Nat) : Decoded :=
  need w [(24, 1), (17, 1), (4, 7)] (.shqry (Fin.ofNat 64 (w / 2 ^ 18)) (Fin.ofNat 64 (w / 2 ^ 11)) (Fin.ofNat 16 (w)))

/-- Opcode 0x6E, format E (R245). -/
noncomputable def decOp6E (w : Nat) : Decoded :=
  need w [(24, 1), (15, 3), (10, 1)] (.shput (Fin.ofNat 64 (w / 2 ^ 18)) (Fin.ofNat 16 (w / 2 ^ 11)) (Fin.ofNat 64 (w / 2 ^ 4)) (Fin.ofNat 16 (w)))

/-- Opcode 0x6F, format E (R245). -/
noncomputable def decOp6F (w : Nat) : Decoded :=
  need w [(24, 1), (15, 3), (10, 1)] (.shget (Fin.ofNat 64 (w / 2 ^ 18)) (Fin.ofNat 16 (w / 2 ^ 11)) (Fin.ofNat 64 (w / 2 ^ 4)) (Fin.ofNat 16 (w)))

/-- Opcode 0x70, format X (R245). -/
noncomputable def decOp70 (w : Nat) : Decoded :=
  need w [] (.mma (Fin.ofNat 128 (w / 2 ^ 18)) (Fin.ofNat 128 (w / 2 ^ 11)) (Fin.ofNat 64 (w / 2 ^ 5)) (fld w 4 1 == 1) (Fin.ofNat 16 (w)))

/-- Opcode 0x71, format E (R245). -/
noncomputable def decOp71 (w : Nat) : Decoded :=
  need w [(24, 1), (15, 3), (10, 1)] (.nmv (Fin.ofNat 64 (w / 2 ^ 18)) (Fin.ofNat 16 (w / 2 ^ 11)) (Fin.ofNat 64 (w / 2 ^ 4)) (Fin.ofNat 16 (w)))

/-- The instruction of a 32-bit word (R231, R236, R245, R246). -/
noncomputable def decodeWord (w : Nat) : Decoded :=
  match fld w 25 7 with
  | 0x01 => decOp01 w
  | 0x02 => decOp02 w
  | 0x03 => decOp03 w
  | 0x04 => decOp04 w
  | 0x08 => decOp08 w
  | 0x09 => decOp09 w
  | 0x0A => decOp0A w
  | 0x0C => decOp0C w
  | 0x0D => decOp0D w
  | 0x10 => decOp10 w
  | 0x11 => decOp11 w
  | 0x12 => decOp12 w
  | 0x13 => decOp13 w
  | 0x14 => decOp14 w
  | 0x15 => decOp15 w
  | 0x16 => decOp16 w
  | 0x17 => decOp17 w
  | 0x18 => decOp18 w
  | 0x19 => decOp19 w
  | 0x20 => decOp20 w
  | 0x21 => decOp21 w
  | 0x22 => decOp22 w
  | 0x23 => decOp23 w
  | 0x24 => decOp24 w
  | 0x25 => decOp25 w
  | 0x26 => decOp26 w
  | 0x30 => decOp30 w
  | 0x31 => decOp31 w
  | 0x32 => decOp32 w
  | 0x33 => decOp33 w
  | 0x34 => decOp34 w
  | 0x35 => decOp35 w
  | 0x36 => decOp36 w
  | 0x37 => decOp37 w
  | 0x38 => decOp38 w
  | 0x39 => decOp39 w
  | 0x3A => decOp3A w
  | 0x3B => decOp3B w
  | 0x40 => decOp40 w
  | 0x41 => decOp41 w
  | 0x42 => decOp42 w
  | 0x43 => decOp43 w
  | 0x44 => decOp44 w
  | 0x48 => decOp48 w
  | 0x49 => decOp49 w
  | 0x4A => decOp4A w
  | 0x4B => decOp4B w
  | 0x4C => decOp4C w
  | 0x4D => decOp4D w
  | 0x4E => decOp4E w
  | 0x4F => decOp4F w
  | 0x50 => decOp50 w
  | 0x51 => decOp51 w
  | 0x52 => decOp52 w
  | 0x58 => decOp58 w
  | 0x59 => decOp59 w
  | 0x5A => decOp5A w
  | 0x5B => decOp5B w
  | 0x5C => decOp5C w
  | 0x60 => decOp60 w
  | 0x61 => decOp61 w
  | 0x62 => decOp62 w
  | 0x63 => decOp63 w
  | 0x64 => decOp64 w
  | 0x65 => decOp65 w
  | 0x66 => decOp66 w
  | 0x67 => decOp67 w
  | 0x68 => decOp68 w
  | 0x69 => decOp69 w
  | 0x6A => decOp6A w
  | 0x6B => decOp6B w
  | 0x6C => decOp6C w
  | 0x6D => decOp6D w
  | 0x6E => decOp6E w
  | 0x6F => decOp6F w
  | 0x70 => decOp70 w
  | 0x71 => decOp71 w
  | _ => .bad .unassigned

/-- Four bytes as they lie in memory, the lowest address first (R8, R231). -/
def wordOfBytes : List Byte → Option Nat
  | b0 :: b1 :: b2 :: b3 :: _ =>
    some (b0.toNat + 2 ^ 8 * b1.toNat + 2 ^ 16 * b2.toNat + 2 ^ 24 * b3.toNat)
  | _ => none

/-- The decoder on any bytes: an instruction is the four bytes at its address (R231). -/
noncomputable def decode (bs : List Byte) : Decoded :=
  match wordOfBytes bs with
  | some w => decodeWord w
  | none => .bad .truncated

/-- A word as its four bytes, little-endian (R8). -/
def bytesOfWord (w : Nat) : List Byte :=
  [BitVec.ofNat 8 w, BitVec.ofNat 8 (w / 2 ^ 8), BitVec.ofNat 8 (w / 2 ^ 16), BitVec.ofNat 8 (w / 2 ^ 24)]

/-- What the decoder reads from an instruction whose bits are w. -/
noncomputable def decodeTableWord (_nbits w : Nat) : Option Instr :=
  match decode (bytesOfWord w) with
  | .ok i => some i
  | .bad _ => none

/-- A word from its fixed bits and its fields, each given as value and lowest bit (R231). -/
def place (m : Nat) (fs : List (Nat × Nat)) : Option Nat :=
  some (fs.foldl (fun w f => w + f.1 * 2 ^ f.2) m)

/-- The word of an encoded instruction; an event row has none (R231, R245). -/
def encode : Instr → Option Nat
  | .sadd d a b => place 0x02000000 [(d.val, 18), (a.val, 11), (b.val, 4)]
  | .ssub d a b => place 0x02000001 [(d.val, 18), (a.val, 11), (b.val, 4)]
  | .smul d a b => place 0x02000002 [(d.val, 18), (a.val, 11), (b.val, 4)]
  | .smulh d a b => place 0x02000003 [(d.val, 18), (a.val, 11), (b.val, 4)]
  | .sand d a b => place 0x02000004 [(d.val, 18), (a.val, 11), (b.val, 4)]
  | .sor d a b => place 0x02000005 [(d.val, 18), (a.val, 11), (b.val, 4)]
  | .sxor d a b => place 0x02000006 [(d.val, 18), (a.val, 11), (b.val, 4)]
  | .sshl d a b => place 0x02000007 [(d.val, 18), (a.val, 11), (b.val, 4)]
  | .sshr d a b => place 0x02000008 [(d.val, 18), (a.val, 11), (b.val, 4)]
  | .ssra d a b => place 0x02000009 [(d.val, 18), (a.val, 11), (b.val, 4)]
  | .smin d a b => place 0x0200000A [(d.val, 18), (a.val, 11), (b.val, 4)]
  | .smax d a b => place 0x0200000B [(d.val, 18), (a.val, 11), (b.val, 4)]
  | .sminu d a b => place 0x0200000C [(d.val, 18), (a.val, 11), (b.val, 4)]
  | .smaxu d a b => place 0x0200000D [(d.val, 18), (a.val, 11), (b.val, 4)]
  | .smov d a => place 0x0200000E [(d.val, 18), (a.val, 11)]
  | .snot d a => place 0x0200000F [(d.val, 18), (a.val, 11)]
  | .sclz d a => place 0x04000000 [(d.val, 18), (a.val, 11)]
  | .spopc d a => place 0x04000001 [(d.val, 18), (a.val, 11)]
  | .sdiv d a b => place 0x04000002 [(d.val, 18), (a.val, 11), (b.val, 4)]
  | .srem d a b => place 0x04000003 [(d.val, 18), (a.val, 11), (b.val, 4)]
  | .sdivu d a b => place 0x04000004 [(d.val, 18), (a.val, 11), (b.val, 4)]
  | .sremu d a b => place 0x04000005 [(d.val, 18), (a.val, 11), (b.val, 4)]
  | .ssel d a b => place 0x04000006 [(d.val, 18), (a.val, 11), (b.val, 4)]
  | .scmpEq d a b => place 0x06000000 [(d.val, 18), (a.val, 11), (b.val, 4)]
  | .scmpNe d a b => place 0x06000001 [(d.val, 18), (a.val, 11), (b.val, 4)]
  | .scmpLt d a b => place 0x06000002 [(d.val, 18), (a.val, 11), (b.val, 4)]
  | .scmpLe d a b => place 0x06000003 [(d.val, 18), (a.val, 11), (b.val, 4)]
  | .scmpGt d a b => place 0x06000004 [(d.val, 18), (a.val, 11), (b.val, 4)]
  | .scmpGe d a b => place 0x06000005 [(d.val, 18), (a.val, 11), (b.val, 4)]
  | .scmpLtu d a b => place 0x06000006 [(d.val, 18), (a.val, 11), (b.val, 4)]
  | .scmpLeu d a b => place 0x06000007 [(d.val, 18), (a.val, 11), (b.val, 4)]
  | .scmpGtu d a b => place 0x06000008 [(d.val, 18), (a.val, 11), (b.val, 4)]
  | .scmpGeu d a b => place 0x06000009 [(d.val, 18), (a.val, 11), (b.val, 4)]
  | .mode d a => place 0x08000000 [(d.val, 18), (a.val, 11)]
  | .modex d a b => place 0x08000001 [(d.val, 18), (a.val, 11), (b.val, 4)]
  | .exrd d => place 0x08000002 [(d.val, 18)]
  | .exwr a => place 0x08000003 [(a.val, 11)]
  | .pand d a b => place 0x08000004 [(d.val, 18), (a.val, 11), (b.val, 4)]
  | .por d a b => place 0x08000005 [(d.val, 18), (a.val, 11), (b.val, 4)]
  | .pxor d a b => place 0x08000006 [(d.val, 18), (a.val, 11), (b.val, 4)]
  | .pnot d a => place 0x08000007 [(d.val, 18), (a.val, 11)]
  | .pmov d a => place 0x08000008 [(d.val, 18), (a.val, 11)]
  | .ptos d a => place 0x08000009 [(d.val, 18), (a.val, 11)]
  | .stop d a => place 0x0800000A [(d.val, 18), (a.val, 11)]
  | .ldl d i => place 0x10000000 [(d.val, 18), (i.toNat, 0)]
  | .ldlq d i => place 0x12000000 [(d.val, 18), (i.toNat, 0)]
  | .ldlv d i => place 0x14000000 [(d.val, 18), (i.toNat, 0)]
  | .crd d n => place 0x18000000 [(d.val, 18), (n.toNat, 0)]
  | .cwr a n => place 0x1A000000 [(a.val, 11), (n.toNat, 0)]
  | .vadd d a b => place 0x20000000 [(d.val, 18), (a.val, 11), (b.val, 4)]
  | .vsub d a b => place 0x20000001 [(d.val, 18), (a.val, 11), (b.val, 4)]
  | .vmul d a b => place 0x20000002 [(d.val, 18), (a.val, 11), (b.val, 4)]
  | .vmulh d a b => place 0x20000003 [(d.val, 18), (a.val, 11), (b.val, 4)]
  | .vand d a b => place 0x20000004 [(d.val, 18), (a.val, 11), (b.val, 4)]
  | .vor d a b => place 0x20000005 [(d.val, 18), (a.val, 11), (b.val, 4)]
  | .vxor d a b => place 0x20000006 [(d.val, 18), (a.val, 11), (b.val, 4)]
  | .vshl d a b => place 0x20000007 [(d.val, 18), (a.val, 11), (b.val, 4)]
  | .vshr d a b => place 0x20000008 [(d.val, 18), (a.val, 11), (b.val, 4)]
  | .vsra d a b => place 0x20000009 [(d.val, 18), (a.val, 11), (b.val, 4)]
  | .vmin d a b => place 0x2000000A [(d.val, 18), (a.val, 11), (b.val, 4)]
  | .vmax d a b => place 0x2000000B [(d.val, 18), (a.val, 11), (b.val, 4)]
  | .vabs d a => place 0x2000000C [(d.val, 18), (a.val, 11)]
  | .vneg d a => place 0x2000000D [(d.val, 18), (a.val, 11)]
  | .vnot d a => place 0x2000000E [(d.val, 18), (a.val, 11)]
  | .vmov d a => place 0x2000000F [(d.val, 18), (a.val, 11)]
  | .vmad d a b => place 0x22000000 [(d.val, 18), (a.val, 11), (b.val, 4)]
  | .vmsb d a b => place 0x22000001 [(d.val, 18), (a.val, 11), (b.val, 4)]
  | .vclz d a => place 0x24000000 [(d.val, 18), (a.val, 11)]
  | .vpopc d a => place 0x24000001 [(d.val, 18), (a.val, 11)]
  | .vbrev d a => place 0x24000002 [(d.val, 18), (a.val, 11)]
  | .vbfx d a b => place 0x24000003 [(d.val, 18), (a.val, 11), (b.val, 4)]
  | .vbfi d a b => place 0x24000004 [(d.val, 18), (a.val, 11), (b.val, 4)]
  | .vsel d a b => place 0x24000005 [(d.val, 18), (a.val, 11), (b.val, 4)]
  | .vcmpEq d a b => place 0x26000000 [(d.val, 18), (a.val, 11), (b.val, 4)]
  | .vcmpNe d a b => place 0x26000001 [(d.val, 18), (a.val, 11), (b.val, 4)]
  | .vcmpLt d a b => place 0x26000002 [(d.val, 18), (a.val, 11), (b.val, 4)]
  | .vcmpLe d a b => place 0x26000003 [(d.val, 18), (a.val, 11), (b.val, 4)]
  | .vcmpGt d a b => place 0x26000004 [(d.val, 18), (a.val, 11), (b.val, 4)]
  | .vcmpGe d a b => place 0x26000005 [(d.val, 18), (a.val, 11), (b.val, 4)]
  | .vcmpLtu d a b => place 0x26000006 [(d.val, 18), (a.val, 11), (b.val, 4)]
  | .vcmpLeu d a b => place 0x26000007 [(d.val, 18), (a.val, 11), (b.val, 4)]
  | .vcmpGtu d a b => place 0x26000008 [(d.val, 18), (a.val, 11), (b.val, 4)]
  | .vcmpGeu d a b => place 0x26000009 [(d.val, 18), (a.val, 11), (b.val, 4)]
  | .vcmpUnord d a b => place 0x2600000A [(d.val, 18), (a.val, 11), (b.val, 4)]
  | .vcmpOrd d a b => place 0x2600000B [(d.val, 18), (a.val, 11), (b.val, 4)]
  | .fadd d a b => place 0x28000000 [(d.val, 18), (a.val, 11), (b.val, 4)]
  | .fsub d a b => place 0x28000001 [(d.val, 18), (a.val, 11), (b.val, 4)]
  | .fmul d a b => place 0x28000002 [(d.val, 18), (a.val, 11), (b.val, 4)]
  | .fmin d a b => place 0x28000003 [(d.val, 18), (a.val, 11), (b.val, 4)]
  | .fmax d a b => place 0x28000004 [(d.val, 18), (a.val, 11), (b.val, 4)]
  | .fabs d a => place 0x28000005 [(d.val, 18), (a.val, 11)]
  | .fneg d a => place 0x28000006 [(d.val, 18), (a.val, 11)]
  | .fclass d a => place 0x28000007 [(d.val, 18), (a.val, 11)]
  | .fscale d a b => place 0x28000008 [(d.val, 18), (a.val, 11), (b.val, 4)]
  | .frnd d a => place 0x28000009 [(d.val, 18), (a.val, 11)]
  | .fcsgn d a b => place 0x2800000A [(d.val, 18), (a.val, 11), (b.val, 4)]
  | .ffma d a b => place 0x2A000000 [(d.val, 18), (a.val, 11), (b.val, 4)]
  | .ffms d a b => place 0x2A000001 [(d.val, 18), (a.val, 11), (b.val, 4)]
  | .fnma d a b => place 0x2A000002 [(d.val, 18), (a.val, 11), (b.val, 4)]
  | .fcvt d a => place 0x2C000000 [(d.val, 18), (a.val, 11)]
  | .fcvts d a b => place 0x2C000001 [(d.val, 18), (a.val, 11), (b.val, 4)]
  | .vpack d a b => place 0x2C000002 [(d.val, 18), (a.val, 11), (b.val, 4)]
  | .vunpk d a k => place 0x2C000003 [(d.val, 18), (a.val, 11), (k.val, 4)]
  | .frcpa d a => place 0x2E000000 [(d.val, 18), (a.val, 11)]
  | .frsqa d a => place 0x2E000001 [(d.val, 18), (a.val, 11)]
  | .fexp2 d a => place 0x2E000002 [(d.val, 18), (a.val, 11)]
  | .flog2 d a => place 0x2E000003 [(d.val, 18), (a.val, 11)]
  | .fsin d a => place 0x2E000004 [(d.val, 18), (a.val, 11)]
  | .fcos d a => place 0x2E000005 [(d.val, 18), (a.val, 11)]
  | .ftanh d a => place 0x2E000006 [(d.val, 18), (a.val, 11)]
  | .fdiv d a b => place 0x30000000 [(d.val, 18), (a.val, 11), (b.val, 4)]
  | .fsqrt d a => place 0x30000001 [(d.val, 18), (a.val, 11)]
  | .frsq d a => place 0x30000002 [(d.val, 18), (a.val, 11)]
  | .vshuf d a b => place 0x32000000 [(d.val, 18), (a.val, 11), (b.val, 4)]
  | .vbcast d a b => place 0x32000001 [(d.val, 18), (a.val, 11), (b.val, 4)]
  | .vredadd d a => place 0x32000002 [(d.val, 18), (a.val, 11)]
  | .vredmin d a => place 0x32000003 [(d.val, 18), (a.val, 11)]
  | .vredmax d a => place 0x32000004 [(d.val, 18), (a.val, 11)]
  | .vscan d a => place 0x32000005 [(d.val, 18), (a.val, 11)]
  | .vballot d a => place 0x32000006 [(d.val, 18), (a.val, 11)]
  | .vcompact d a b => place 0x32000007 [(d.val, 18), (a.val, 11), (b.val, 4)]
  | .vlane d a => place 0x32000008 [(d.val, 18), (a.val, 11)]
  | .movsv d a => place 0x32000009 [(d.val, 18), (a.val, 11)]
  | .movvs d a b => place 0x3200000A [(d.val, 18), (a.val, 11), (b.val, 4)]
  | .bra i => place 0x40000000 [(i.toNat, 0)]
  | .bdiv i => place 0x42000000 [(i.toNat, 0)]
  | .rcv i => place 0x44000000 [(i.toNat, 0)]
  | .bsr i => place 0x46000000 [(i.toNat, 0)]
  | .pool i => place 0x48000000 [(i.toNat, 0)]
  | .jmp d a => place 0x4A000000 [(d.val, 18), (a.val, 11)]
  | .rets a => place 0x4A000001 [(a.val, 11)]
  | .sels a => place 0x4A000002 [(a.val, 11)]
  | .exit => place 0x4A000003 []
  | .nop => place 0x4A000004 []
  | .trap c => place 0x4A000005 [(c.toNat, 4)]
  | .tres a => place 0x4A000006 [(a.val, 11)]
  | .trec d a b => place 0x4A000007 [(d.val, 18), (a.val, 11), (b.val, 4)]
  | .tick d => place 0x4C000000 [(d.val, 18)]
  | .tai d => place 0x4C000001 [(d.val, 18)]
  | .waitt a => place 0x4C000002 [(a.val, 11)]
  | .ldU8 d x b l => place 0x60000000 [(d.val, 18), (x.val, 11), (b.val, 7), (l.val, 0)]
  | .ldI8 d x b l => place 0x60000010 [(d.val, 18), (x.val, 11), (b.val, 7), (l.val, 0)]
  | .ldU16 d x b l => place 0x60000020 [(d.val, 18), (x.val, 11), (b.val, 7), (l.val, 0)]
  | .ldI16 d x b l => place 0x60000030 [(d.val, 18), (x.val, 11), (b.val, 7), (l.val, 0)]
  | .ld32 d x b l => place 0x60000040 [(d.val, 18), (x.val, 11), (b.val, 7), (l.val, 0)]
  | .ld64 d x b l => place 0x60000050 [(d.val, 18), (x.val, 11), (b.val, 7), (l.val, 0)]
  | .ld128 d x b l => place 0x60000060 [(d.val, 18), (x.val, 11), (b.val, 7), (l.val, 0)]
  | .st8 d x b l => place 0x62000000 [(d.val, 18), (x.val, 11), (b.val, 7), (l.val, 0)]
  | .st16 d x b l => place 0x62000010 [(d.val, 18), (x.val, 11), (b.val, 7), (l.val, 0)]
  | .st32 d x b l => place 0x62000020 [(d.val, 18), (x.val, 11), (b.val, 7), (l.val, 0)]
  | .st64 d x b l => place 0x62000030 [(d.val, 18), (x.val, 11), (b.val, 7), (l.val, 0)]
  | .st128 d x b l => place 0x62000040 [(d.val, 18), (x.val, 11), (b.val, 7), (l.val, 0)]
  | .ldaTeam d x b l => place 0x64000000 [(d.val, 18), (x.val, 11), (b.val, 7), (l.val, 0)]
  | .ldaCluster d x b l => place 0x64000010 [(d.val, 18), (x.val, 11), (b.val, 7), (l.val, 0)]
  | .ldaDie d x b l => place 0x64000020 [(d.val, 18), (x.val, 11), (b.val, 7), (l.val, 0)]
  | .ldaPackage d x b l => place 0x64000030 [(d.val, 18), (x.val, 11), (b.val, 7), (l.val, 0)]
  | .ldaGroup d x b l => place 0x64000040 [(d.val, 18), (x.val, 11), (b.val, 7), (l.val, 0)]
  | .ldaSystem d x b l => place 0x64000050 [(d.val, 18), (x.val, 11), (b.val, 7), (l.val, 0)]
  | .stlTeam d x b l => place 0x66000000 [(d.val, 18), (x.val, 11), (b.val, 7), (l.val, 0)]
  | .stlCluster d x b l => place 0x66000010 [(d.val, 18), (x.val, 11), (b.val, 7), (l.val, 0)]
  | .stlDie d x b l => place 0x66000020 [(d.val, 18), (x.val, 11), (b.val, 7), (l.val, 0)]
  | .stlPackage d x b l => place 0x66000030 [(d.val, 18), (x.val, 11), (b.val, 7), (l.val, 0)]
  | .stlGroup d x b l => place 0x66000040 [(d.val, 18), (x.val, 11), (b.val, 7), (l.val, 0)]
  | .stlSystem d x b l => place 0x66000050 [(d.val, 18), (x.val, 11), (b.val, 7), (l.val, 0)]
  | .ldfe d x b => place 0x68000000 [(d.val, 18), (x.val, 11), (b.val, 7)]
  | .ldff d x b => place 0x68000010 [(d.val, 18), (x.val, 11), (b.val, 7)]
  | .stfe d x b => place 0x68000020 [(d.val, 18), (x.val, 11), (b.val, 7)]
  | .stff d x b => place 0x68000030 [(d.val, 18), (x.val, 11), (b.val, 7)]
  | .tagrd d x b l => place 0x68000040 [(d.val, 18), (x.val, 11), (b.val, 7), (l.val, 0)]
  | .tagwr d x b l => place 0x68000050 [(d.val, 18), (x.val, 11), (b.val, 7), (l.val, 0)]
  | .ldc d x b => place 0x6A000000 [(d.val, 18), (x.val, 11), (b.val, 7)]
  | .stp d x b => place 0x6A000010 [(d.val, 18), (x.val, 11), (b.val, 7)]
  | .lnrd d x b l => place 0x6A000020 [(d.val, 18), (x.val, 11), (b.val, 7), (l.val, 0)]
  | .lnwr d x b l => place 0x6A000030 [(d.val, 18), (x.val, 11), (b.val, 7), (l.val, 0)]
  | .pref x b l => place 0x6C000000 [(x.val, 11), (b.val, 7), (l.val, 0)]
  | .cwb x b l => place 0x6C000010 [(x.val, 11), (b.val, 7), (l.val, 0)]
  | .cinv x b l => place 0x6C000020 [(x.val, 11), (b.val, 7), (l.val, 0)]
  | .iinv x b l => place 0x6C000030 [(x.val, 11), (b.val, 7), (l.val, 0)]
  | .ldb d x l => place 0x6E000000 [(d.val, 18), (x.val, 11), (l.val, 0)]
  | .mkb d x b l => place 0x6E000010 [(d.val, 18), (x.val, 11), (b.val, 7), (l.val, 0)]
  | .brd d b l => place 0x6E000020 [(d.val, 18), (b.val, 7), (l.val, 0)]
  | .vqntSb3 d x b l => place 0x70000000 [(d.val, 18), (x.val, 11), (b.val, 7), (l.val, 0)]
  | .vqntSb5 d x b l => place 0x70000010 [(d.val, 18), (x.val, 11), (b.val, 7), (l.val, 0)]
  | .vqntSb8 d x b l => place 0x70000020 [(d.val, 18), (x.val, 11), (b.val, 7), (l.val, 0)]
  | .vqntE4m3 d x b l => place 0x70000030 [(d.val, 18), (x.val, 11), (b.val, 7), (l.val, 0)]
  | .vqntE5m2 d x b l => place 0x70000040 [(d.val, 18), (x.val, 11), (b.val, 7), (l.val, 0)]
  | .vdqSb3 d x b l => place 0x72000000 [(d.val, 18), (x.val, 11), (b.val, 7), (l.val, 0)]
  | .vdqSb5 d x b l => place 0x72000010 [(d.val, 18), (x.val, 11), (b.val, 7), (l.val, 0)]
  | .vdqSb8 d x b l => place 0x72000020 [(d.val, 18), (x.val, 11), (b.val, 7), (l.val, 0)]
  | .vdqE4m3 d x b l => place 0x72000030 [(d.val, 18), (x.val, 11), (b.val, 7), (l.val, 0)]
  | .vdqE5m2 d x b l => place 0x72000040 [(d.val, 18), (x.val, 11), (b.val, 7), (l.val, 0)]
  | .fence k s => place 0x74000000 [(k.val, 4), (s.val, 0)]
  | .fbar => place 0x76000000 []
  | .atomAdd d x b l => place 0x80000000 [(d.val, 18), (x.val, 11), (b.val, 7), (l.val, 0)]
  | .atomMin d x b l => place 0x80000010 [(d.val, 18), (x.val, 11), (b.val, 7), (l.val, 0)]
  | .atomMax d x b l => place 0x80000020 [(d.val, 18), (x.val, 11), (b.val, 7), (l.val, 0)]
  | .atomAnd d x b l => place 0x80000030 [(d.val, 18), (x.val, 11), (b.val, 7), (l.val, 0)]
  | .atomOr d x b l => place 0x80000040 [(d.val, 18), (x.val, 11), (b.val, 7), (l.val, 0)]
  | .atomXor d x b l => place 0x80000050 [(d.val, 18), (x.val, 11), (b.val, 7), (l.val, 0)]
  | .atomXchg d x b l => place 0x80000060 [(d.val, 18), (x.val, 11), (b.val, 7), (l.val, 0)]
  | .atomFadd d x b l => place 0x80000070 [(d.val, 18), (x.val, 11), (b.val, 7), (l.val, 0)]
  | .atomaAdd d x b l => place 0x82000000 [(d.val, 18), (x.val, 11), (b.val, 7), (l.val, 0)]
  | .atomaMin d x b l => place 0x82000010 [(d.val, 18), (x.val, 11), (b.val, 7), (l.val, 0)]
  | .atomaMax d x b l => place 0x82000020 [(d.val, 18), (x.val, 11), (b.val, 7), (l.val, 0)]
  | .atomaAnd d x b l => place 0x82000030 [(d.val, 18), (x.val, 11), (b.val, 7), (l.val, 0)]
  | .atomaOr d x b l => place 0x82000040 [(d.val, 18), (x.val, 11), (b.val, 7), (l.val, 0)]
  | .atomaXor d x b l => place 0x82000050 [(d.val, 18), (x.val, 11), (b.val, 7), (l.val, 0)]
  | .atomaXchg d x b l => place 0x82000060 [(d.val, 18), (x.val, 11), (b.val, 7), (l.val, 0)]
  | .atomaFadd d x b l => place 0x82000070 [(d.val, 18), (x.val, 11), (b.val, 7), (l.val, 0)]
  | .atomlAdd d x b l => place 0x84000000 [(d.val, 18), (x.val, 11), (b.val, 7), (l.val, 0)]
  | .atomlMin d x b l => place 0x84000010 [(d.val, 18), (x.val, 11), (b.val, 7), (l.val, 0)]
  | .atomlMax d x b l => place 0x84000020 [(d.val, 18), (x.val, 11), (b.val, 7), (l.val, 0)]
  | .atomlAnd d x b l => place 0x84000030 [(d.val, 18), (x.val, 11), (b.val, 7), (l.val, 0)]
  | .atomlOr d x b l => place 0x84000040 [(d.val, 18), (x.val, 11), (b.val, 7), (l.val, 0)]
  | .atomlXor d x b l => place 0x84000050 [(d.val, 18), (x.val, 11), (b.val, 7), (l.val, 0)]
  | .atomlXchg d x b l => place 0x84000060 [(d.val, 18), (x.val, 11), (b.val, 7), (l.val, 0)]
  | .atomlFadd d x b l => place 0x84000070 [(d.val, 18), (x.val, 11), (b.val, 7), (l.val, 0)]
  | .acas d x b l => place 0x86000000 [(d.val, 18), (x.val, 11), (b.val, 7), (l.val, 0)]
  | .aredAdd d x b l => place 0x88000000 [(d.val, 18), (x.val, 11), (b.val, 7), (l.val, 0)]
  | .aredMin d x b l => place 0x88000010 [(d.val, 18), (x.val, 11), (b.val, 7), (l.val, 0)]
  | .aredMax d x b l => place 0x88000020 [(d.val, 18), (x.val, 11), (b.val, 7), (l.val, 0)]
  | .aredAnd d x b l => place 0x88000030 [(d.val, 18), (x.val, 11), (b.val, 7), (l.val, 0)]
  | .aredOr d x b l => place 0x88000040 [(d.val, 18), (x.val, 11), (b.val, 7), (l.val, 0)]
  | .aredXor d x b l => place 0x88000050 [(d.val, 18), (x.val, 11), (b.val, 7), (l.val, 0)]
  | .aredXchg d x b l => place 0x88000060 [(d.val, 18), (x.val, 11), (b.val, 7), (l.val, 0)]
  | .aredFadd d x b l => place 0x88000070 [(d.val, 18), (x.val, 11), (b.val, 7), (l.val, 0)]
  | .bar l k => place 0x90000000 [(l.val, 8), (k.val, 0)]
  | .bara l k => place 0x92000000 [(l.val, 8), (k.val, 0)]
  | .barw l k => place 0x94000000 [(l.val, 8), (k.val, 0)]
  | .barx a l k => place 0x96000000 [(a.val, 11), (l.val, 8), (k.val, 0)]
  | .barinit a l k => place 0x98000000 [(a.val, 11), (l.val, 8), (k.val, 0)]
  | .baralloc d a => place 0x9A000000 [(d.val, 18), (a.val, 11)]
  | .barfree d k => place 0x9C000100 [(d.val, 18), (k.val, 0)]
  | .barmAw a => place 0x9E000400 [(a.val, 11)]
  | .barmArrive a => place 0x9E000401 [(a.val, 11)]
  | .barmWait a => place 0x9E000402 [(a.val, 11)]
  | .barmBytes a => place 0x9E000403 [(a.val, 11)]
  | .barmInit a => place 0x9E000404 [(a.val, 11)]
  | .wsync a => place 0xA0000000 [(a.val, 11)]
  | .monTeam x b l => place 0xA2000000 [(x.val, 11), (b.val, 7), (l.val, 0)]
  | .monCluster x b l => place 0xA2000010 [(x.val, 11), (b.val, 7), (l.val, 0)]
  | .monDie x b l => place 0xA2000020 [(x.val, 11), (b.val, 7), (l.val, 0)]
  | .monPackage x b l => place 0xA2000030 [(x.val, 11), (b.val, 7), (l.val, 0)]
  | .monGroup x b l => place 0xA2000040 [(x.val, 11), (b.val, 7), (l.val, 0)]
  | .monSystem x b l => place 0xA2000050 [(x.val, 11), (b.val, 7), (l.val, 0)]
  | .mwait d a => place 0xA4000000 [(d.val, 18), (a.val, 11)]
  | .spawn d a c l => place 0xB0000000 [(d.val, 18), (a.val, 11), (c.val, 4), (l.val, 0)]
  | .join d a c => place 0xB2000000 [(d.val, 18), (a.val, 11), (c.val, 4)]
  | .ftest d a c l => place 0xB4000000 [(d.val, 18), (a.val, 11), (c.val, 4), (l.val, 0)]
  | .ffill d a c l => place 0xB6000000 [(d.val, 18), (a.val, 11), (c.val, 4), (l.val, 0)]
  | .tret a => place 0xB8000000 [(a.val, 11)]
  | .center d a b => place 0xC0000000 [(d.val, 18), (a.val, 11), (b.val, 4)]
  | .calu d a o c => place 0xC2000000 [(d.val, 18), (a.val, 11), (o.val, 8), (c.val, 4)]
  | .cmovCs d a => place 0xC4000000 [(d.val, 18), (a.val, 11)]
  | .cmovSc d a => place 0xC4000200 [(d.val, 18), (a.val, 11)]
  | .cmovCc d a => place 0xC4000400 [(d.val, 18), (a.val, 11)]
  | .cmovCi d i j => place 0xC4000600 [(d.val, 18), (i.toNat, 11), (j.toNat, 4)]
  | .cld d a w => place 0xC6000000 [(d.val, 18), (a.val, 11), (w.val, 9)]
  | .cst a w v => place 0xC8000000 [(a.val, 11), (w.val, 9), (v.val, 4)]
  | .cbr i => place 0xCA000000 [(i.toNat, 0)]
  | .cstep => place 0xCC000000 []
  | .cend => place 0xCE000000 []
  | .cabort => place 0xCE000001 []
  | .shcopy d a c l => place 0xD0000000 [(d.val, 18), (a.val, 11), (c.val, 4), (l.val, 0)]
  | .shgath d a c l => place 0xD2000000 [(d.val, 18), (a.val, 11), (c.val, 4), (l.val, 0)]
  | .shscat d a c l => place 0xD4000000 [(d.val, 18), (a.val, 11), (c.val, 4), (l.val, 0)]
  | .shmcast d a c l => place 0xD6000000 [(d.val, 18), (a.val, 11), (c.val, 4), (l.val, 0)]
  | .shcan d a l => place 0xD8000000 [(d.val, 18), (a.val, 11), (l.val, 0)]
  | .shqry d a l => place 0xDA000000 [(d.val, 18), (a.val, 11), (l.val, 0)]
  | .shput d a c l => place 0xDC000000 [(d.val, 18), (a.val, 11), (c.val, 4), (l.val, 0)]
  | .shget d a c l => place 0xDE000000 [(d.val, 18), (a.val, 11), (c.val, 4), (l.val, 0)]
  | .mma a f p z l => place 0xE0000000 [(a.val, 18), (f.val, 11), (p.val, 5), (z.toNat, 4), (l.val, 0)]
  | .nmv d a c l => place 0xE2000000 [(d.val, 18), (a.val, 11), (c.val, 4), (l.val, 0)]
  | .fdsqResult _ _ => none
  | .waittDeadline _ _ => none
  | .mwaitDeadline _ _ => none
  | .capsuleAcquire _ _ _ _ => none
  | .capsuleProbe _ _ => none
  | .capsuleProbeReply _ _ => none
  | .capsuleAdopt _ _ => none
  | .capsuleAdoptionComplete _ _ => none
  | .capsuleCommit _ _ => none
  | .capsuleEnd _ _ => none
  | .capsuleAbortRequest _ _ => none
  | .capsuleDepartureNotice _ => none
  | .capsuleKillNotice _ _ _ => none
  | .capsuleRebind _ _ => none
  | .mmaPass _ => none
  | .mmaComplete _ => none
  | .engineChunk _ _ => none
  | .remoteChunk _ => none
  | .promiseExpiry _ _ => none
  | .longLatencyComplete _ _ => none
  | .warpPromotion _ _ => none
  | .clockBalance _ => none
  | .clusterClockChange _ => none
  | .distributorStartTeam _ _ => none
  | .teamRequest _ _ => none
  | .readinessMonitorRead _ _ => none
  | .taskAdmission _ _ => none
  | .snapshotDrain _ _ => none
  | .stagingAllocate _ _ => none
  | .stagingChunk _ _ => none
  | .stagingCancelComplete _ => none
  | .writebackChunk _ _ => none
  | .bobbinRefill _ => none
  | .taskDispatch _ => none
  | .stealProbe _ => none
  | .stealRequest _ => none
  | .stealReply _ => none
  | .stealSweepWaitExpiry _ => none
  | .jobEnd _ => none
  | .jobEndRecord _ => none
  | .l1Eviction _ _ => none
  | .l2Eviction _ _ => none
  | .writebackAck _ _ => none
  | .heddleSnoop _ _ => none
  | .directoryRequest _ _ _ => none
  | .recallComplete _ => none
  | .recallTimeout _ => none
  | .overflowSweep => none
  | .heddleDieLoss _ => none
  | .requestResend _ => none
  | .directoryRebuildComplete => none
  | .scaskaxonPortDown _ => none
  | .memberUnreachable _ => none
  | .scrubPass _ _ => none
  | .pageWalk _ _ _ _ _ => none
  | .faultRecordSend _ _ => none
  | .faultReplyResolved _ _ => none
  | .faultReplyUnresolvable _ _ => none
  | .originAgeExpiry _ => none
  | .watchdogExpiry _ => none
  | .preemptionComplete _ => none
  | .restorePlace _ _ => none
  | .restoreResume _ _ => none
  | .queueEnable _ _ _ => none
  | .queueDisable _ _ => none
  | .feQwidxWrite _ _ _ => none
  | .feQridxWrite _ _ _ => none
  | .jobPreempt _ _ => none
  | .jobPreemptDie _ _ _ => none
  | .jobKill _ _ => none
  | .launch _ _ => none
  | .resume _ _ => none
  | .waitw _ _ => none
  | .waitwTimeout _ _ => none
  | .signal _ _ => none
  | .copy _ _ => none
  | .copyComplete _ _ => none
  | .timed _ _ => none
  | .timedPrepare _ _ => none
  | .timedRelease _ _ => none
  | .timedFirstIssue _ _ => none
  | .fencePacket _ _ => none
  | .mark _ _ => none
  | .lookaheadParse _ _ => none
  | .queueSlotAdmit _ _ => none
  | .taiSet _ => none
  | .ptmRequest => none
  | .ptmSample _ => none
  | .ppsEdge => none
  | .taiSampleTimeout => none
  | .tlbInvalidate _ _ => none
  | .invalidationComplete _ => none
  | .pageTagInit _ _ => none
  | .pageTagInitComplete _ => none
  | .partitionEnable _ => none
  | .partitionDisable _ => none
  | .partitionReset _ => none
  | .partitionResetComplete _ => none
  | .bucketRefill _ => none
  | .hdGroupWrite _ _ => none
  | .bar2Read _ _ _ => none
  | .bar2Write _ _ _ => none
  | .functionLevelReset _ => none
  | .pcieLinkDown => none
  | .pcieLinkUp => none
  | .hostCompletion _ => none
  | .bundleUpdate => none
  | .updateComplete => none
  | .measure => none
  | .measurementReport => none
  | .commitSvn _ => none
  | .packageReset _ => none
  | .recoveryBundle => none
  | .powerOn => none
  | .coldReset => none
  | .bootVerify => none
  | .bootLoad _ => none
  | .bootClear => none
  | .bootReady => none
  | .i3cStatus => none
  | .i3cImageBlock _ _ => none
  | .i3cImageEnd _ => none
  | .i3cMeasure _ => none
  | .i3cPackageReset _ => none
  | .eolRecompute _ => none
  | .powerSample _ _ _ => none
  | .throttleStep => none
  | .inputUndervoltage => none
  | .inputOutOfRange => none
  | .thermalThrottle _ => none
  | .thermalShutdown => none
  | .feHeartbeat => none
  | .heartbeatTimeout => none
  | .autoReset => none
  | .registerWrite _ _ _ => none
  | .scaskaxonPortUp _ => none
  | .linkLevelReplay _ _ => none
  | .inputVoltageHeld => none
  | .timedPreparationComplete _ _ => none

/-- The four bytes of an encoded instruction, lowest address first. -/
def encodeBytes (i : Instr) : Option (List Byte) := (encode i).map bytesOfWord

end Sys2Proof
end

