-- ==== Sys2Proof/Machine/Footprint.lean ====
section
/-! DEFINITION. The registers that an instruction reads and writes, for the scoreboard (R35, R241) and for uncorrectable
register elements (R124, R445), and which instructions access data memory (R137). -/

namespace Sys2Proof.Machine

/-- An operand of an instruction and how many registers it takes. -/
inductive Opr where
  /-- scalars -/
  | s (r : SReg) (n : Nat)
  /-- two scalars in a paired team, else one -/
  | p (r : SReg)
  /-- vector registers -/
  | v (r : VReg) (n : Nat)
  /-- so many elements of the type ET -/
  | e (r : VReg) (n : Nat)
  /-- an element of the type ST -/
  | t (r : VReg)
  /-- two where ET has 8 bits, else one (R276) -/
  | q (r : VReg)
  /-- a mask of the warp's lanes: two of 64, else one -/
  | w (r : VReg)
  | b (r : BReg)
  deriving DecidableEq, Repr

/-- The registers that an instruction writes, and those that it reads, but for CRD's destination and for MMA's accumulator
and buffer records. -/
def Instr.oprs : Instr → List Opr × List Opr
  | .sadd d a b => ([.s d 1], [.s a 1, .s b 1])
  | .ssub d a b => ([.s d 1], [.s a 1, .s b 1])
  | .smul d a b => ([.s d 1], [.s a 1, .s b 1])
  | .smulh d a b => ([.s d 1], [.s a 1, .s b 1])
  | .sand d a b => ([.s d 1], [.s a 1, .s b 1])
  | .sor d a b => ([.s d 1], [.s a 1, .s b 1])
  | .sxor d a b => ([.s d 1], [.s a 1, .s b 1])
  | .sshl d a b => ([.s d 1], [.s a 1, .s b 1])
  | .sshr d a b => ([.s d 1], [.s a 1, .s b 1])
  | .ssra d a b => ([.s d 1], [.s a 1, .s b 1])
  | .smin d a b => ([.s d 1], [.s a 1, .s b 1])
  | .smax d a b => ([.s d 1], [.s a 1, .s b 1])
  | .sminu d a b => ([.s d 1], [.s a 1, .s b 1])
  | .smaxu d a b => ([.s d 1], [.s a 1, .s b 1])
  | .smov d a => ([.s d 1], [.s a 1])
  | .snot d a => ([.s d 1], [.s a 1])
  | .sclz d a => ([.s d 1], [.s a 1])
  | .spopc d a => ([.s d 1], [.s a 1])
  | .sdiv d a b => ([.s d 1], [.s a 1, .s b 1])
  | .srem d a b => ([.s d 1], [.s a 1, .s b 1])
  | .sdivu d a b => ([.s d 1], [.s a 1, .s b 1])
  | .sremu d a b => ([.s d 1], [.s a 1, .s b 1])
  | .ssel d a b => ([.s d 1], [.s a 1, .s b 1])
  | .scmpEq _ a b => ([], [.s a 1, .s b 1])
  | .scmpNe _ a b => ([], [.s a 1, .s b 1])
  | .scmpLt _ a b => ([], [.s a 1, .s b 1])
  | .scmpLe _ a b => ([], [.s a 1, .s b 1])
  | .scmpGt _ a b => ([], [.s a 1, .s b 1])
  | .scmpGe _ a b => ([], [.s a 1, .s b 1])
  | .scmpLtu _ a b => ([], [.s a 1, .s b 1])
  | .scmpLeu _ a b => ([], [.s a 1, .s b 1])
  | .scmpGtu _ a b => ([], [.s a 1, .s b 1])
  | .scmpGeu _ a b => ([], [.s a 1, .s b 1])
  | .mode d a => ([.s d 1], [.s a 1])
  | .modex d a b => ([.s d 1], [.s a 1, .s b 1])
  | .exrd d => ([.s d 2], [])
  | .exwr a => ([], [.s a 2])
  | .ptos d _ => ([.s d 1], [])
  | .stop _ a => ([], [.s a 1])
  | .ldl d _ => ([.s d 1], [])
  | .ldlq d _ => ([.s d 1], [])
  | .ldlv d _ => ([.v d 1], [])
  | .cwr a _ => ([], [.s a 1])
  | .vadd d a b => ([.e d 1], [.e a 1, .e b 1])
  | .vsub d a b => ([.e d 1], [.e a 1, .e b 1])
  | .vmul d a b => ([.e d 1], [.e a 1, .e b 1])
  | .vmulh d a b => ([.e d 1], [.e a 1, .e b 1])
  | .vand d a b => ([.e d 1], [.e a 1, .e b 1])
  | .vor d a b => ([.e d 1], [.e a 1, .e b 1])
  | .vxor d a b => ([.e d 1], [.e a 1, .e b 1])
  | .vshl d a b => ([.e d 1], [.e a 1, .e b 1])
  | .vshr d a b => ([.e d 1], [.e a 1, .e b 1])
  | .vsra d a b => ([.e d 1], [.e a 1, .e b 1])
  | .vmin d a b => ([.e d 1], [.e a 1, .e b 1])
  | .vmax d a b => ([.e d 1], [.e a 1, .e b 1])
  | .vabs d a => ([.e d 1], [.e a 1])
  | .vneg d a => ([.e d 1], [.e a 1])
  | .vnot d a => ([.e d 1], [.e a 1])
  | .vmov d a => ([.e d 1], [.e a 1])
  | .vmad d a b => ([.e d 1], [.e d 1, .e a 1, .e b 1])
  | .vmsb d a b => ([.e d 1], [.e d 1, .e a 1, .e b 1])
  | .vclz d a => ([.e d 1], [.e a 1])
  | .vpopc d a => ([.e d 1], [.e a 1])
  | .vbrev d a => ([.e d 1], [.e a 1])
  | .vbfx d a b => ([.e d 1], [.e a 1, .v b 1])
  | .vbfi d a b => ([.e d 1], [.e d 1, .e a 1, .v b 1])
  | .vsel d a b => ([.e d 1], [.e a 1, .e b 1])
  | .vcmpEq _ a b => ([], [.e a 1, .e b 1])
  | .vcmpNe _ a b => ([], [.e a 1, .e b 1])
  | .vcmpLt _ a b => ([], [.e a 1, .e b 1])
  | .vcmpLe _ a b => ([], [.e a 1, .e b 1])
  | .vcmpGt _ a b => ([], [.e a 1, .e b 1])
  | .vcmpGe _ a b => ([], [.e a 1, .e b 1])
  | .vcmpLtu _ a b => ([], [.e a 1, .e b 1])
  | .vcmpLeu _ a b => ([], [.e a 1, .e b 1])
  | .vcmpGtu _ a b => ([], [.e a 1, .e b 1])
  | .vcmpGeu _ a b => ([], [.e a 1, .e b 1])
  | .vcmpUnord _ a b => ([], [.e a 1, .e b 1])
  | .vcmpOrd _ a b => ([], [.e a 1, .e b 1])
  | .fadd d a b => ([.e d 1], [.e a 1, .e b 1])
  | .fsub d a b => ([.e d 1], [.e a 1, .e b 1])
  | .fmul d a b => ([.e d 1], [.e a 1, .e b 1])
  | .fmin d a b => ([.e d 1], [.e a 1, .e b 1])
  | .fmax d a b => ([.e d 1], [.e a 1, .e b 1])
  | .fabs d a => ([.e d 1], [.e a 1])
  | .fneg d a => ([.e d 1], [.e a 1])
  | .fclass d a => ([.v d 1], [.e a 1])
  | .fscale d a b => ([.e d 1], [.e a 1, .v b 1])
  | .frnd d a => ([.e d 1], [.e a 1])
  | .fcsgn d a b => ([.e d 1], [.e a 1, .e b 1])
  | .ffma d a b => ([.e d 1], [.e d 1, .e a 1, .e b 1])
  | .ffms d a b => ([.e d 1], [.e d 1, .e a 1, .e b 1])
  | .fnma d a b => ([.e d 1], [.e d 1, .e a 1, .e b 1])
  | .fcvt d a => ([.e d 1], [.t a])
  | .fcvts d a b => ([.e d 1], [.t a, .v b 1])
  | .vpack d a b => ([.v d 1], [.q a, .q b])
  | .vunpk d a _ => ([.e d 1], [.v a 1])
  | .frcpa d a => ([.e d 1], [.e a 1])
  | .frsqa d a => ([.e d 1], [.e a 1])
  | .fexp2 d a => ([.e d 1], [.e a 1])
  | .flog2 d a => ([.e d 1], [.e a 1])
  | .fsin d a => ([.e d 1], [.e a 1])
  | .fcos d a => ([.e d 1], [.e a 1])
  | .ftanh d a => ([.e d 1], [.e a 1])
  | .fdiv d a b => ([.e d 1], [.e a 1, .e b 1])
  | .fsqrt d a => ([.e d 1], [.e a 1])
  | .frsq d a => ([.e d 1], [.e a 1])
  | .vshuf d a b => ([.e d 1], [.e a 1, .v b 1])
  | .vbcast d a b => ([.e d 1], [.e a 1, .s b 1])
  | .vredadd d a => ([.s d 1], [.e a 1])
  | .vredmin d a => ([.s d 1], [.e a 1])
  | .vredmax d a => ([.s d 1], [.e a 1])
  | .vscan d a => ([.e d 1], [.e a 1])
  | .vballot d a => ([.s d 1], [.e a 1])
  | .vcompact d a b => ([.e d 1, .s b 1], [.e a 1])
  | .vlane d a => ([.v d 1], [.s a 1])
  | .movsv d a => ([.e d 1], [.s a 1])
  | .movvs d a b => ([.s d 1], [.e a 1, .s b 1])
  | .bsr _ => ([.s 63 1], [])
  | .jmp d a => ([.s d 1], [.s a 1])
  | .rets a => ([], [.s a 1])
  | .sels a => ([], [.s a 1])
  | .tres a => ([], [.v a 1])
  | .trec d a b => ([.v d 2], [.v a 1, .v b 2])
  | .tick d => ([.s d 1], [])
  | .tai d => ([.s d 2], [])
  | .waitt a => ([], [.s a 1])
  | .ldU8 d x b _ => ([.v d 1], [.v x 1, .b b])
  | .ldI8 d x b _ => ([.v d 1], [.v x 1, .b b])
  | .ldU16 d x b _ => ([.v d 1], [.v x 1, .b b])
  | .ldI16 d x b _ => ([.v d 1], [.v x 1, .b b])
  | .ld32 d x b _ => ([.v d 1], [.v x 1, .b b])
  | .ld64 d x b _ => ([.v d 2], [.v x 1, .b b])
  | .ld128 d x b _ => ([.v d 4], [.v x 1, .b b])
  | .st8 d x b _ => ([], [.v d 1, .v x 1, .b b])
  | .st16 d x b _ => ([], [.v d 1, .v x 1, .b b])
  | .st32 d x b _ => ([], [.v d 1, .v x 1, .b b])
  | .st64 d x b _ => ([], [.v d 2, .v x 1, .b b])
  | .st128 d x b _ => ([], [.v d 4, .v x 1, .b b])
  | .ldaTeam d x b _ => ([.e d 1], [.v x 1, .b b])
  | .ldaCluster d x b _ => ([.e d 1], [.v x 1, .b b])
  | .ldaDie d x b _ => ([.e d 1], [.v x 1, .b b])
  | .ldaPackage d x b _ => ([.e d 1], [.v x 1, .b b])
  | .ldaGroup d x b _ => ([.e d 1], [.v x 1, .b b])
  | .ldaSystem d x b _ => ([.e d 1], [.v x 1, .b b])
  | .stlTeam d x b _ => ([], [.e d 1, .v x 1, .b b])
  | .stlCluster d x b _ => ([], [.e d 1, .v x 1, .b b])
  | .stlDie d x b _ => ([], [.e d 1, .v x 1, .b b])
  | .stlPackage d x b _ => ([], [.e d 1, .v x 1, .b b])
  | .stlGroup d x b _ => ([], [.e d 1, .v x 1, .b b])
  | .stlSystem d x b _ => ([], [.e d 1, .v x 1, .b b])
  | .ldfe d x b => ([.v d 2], [.v x 1, .b b])
  | .ldff d x b => ([.v d 2], [.v x 1, .b b])
  | .stfe d x b => ([], [.v d 2, .v x 1, .b b])
  | .stff d x b => ([], [.v d 2, .v x 1, .b b])
  | .tagrd d x b _ => ([.v d 1], [.v x 1, .b b])
  | .tagwr d x b _ => ([], [.v d 1, .v x 1, .b b])
  | .ldc d x b => ([.v d 1], [.v x 1, .b b])
  | .stp d x b => ([], [.v d 1, .v x 1, .b b])
  | .lnrd d x b _ => ([.v d 1], [.v x 1, .b b])
  | .lnwr d x b _ => ([], [.v d 1, .v x 1, .b b])
  | .pref x b _ => ([], [.v x 1, .b b])
  | .cwb x b _ => ([], [.v x 1, .b b])
  | .cinv x b _ => ([], [.v x 1, .b b])
  | .iinv x b _ => ([], [.v x 1, .b b])
  | .ldb d x _ => ([.b d], [.s x 1])
  | .mkb d x b _ => ([.b d], [.s x 4, .b b])
  | .brd d b _ => ([.s d 4], [.b b])
  | .vqntSb3 d x b _ => ([], [.v d 1, .v x 1, .b b])
  | .vqntSb5 d x b _ => ([], [.v d 1, .v x 1, .b b])
  | .vqntSb8 d x b _ => ([], [.v d 1, .v x 1, .b b])
  | .vqntE4m3 d x b _ => ([], [.v d 1, .v x 1, .b b])
  | .vqntE5m2 d x b _ => ([], [.v d 1, .v x 1, .b b])
  | .vdqSb3 d x b _ => ([.v d 1], [.v x 1, .b b])
  | .vdqSb5 d x b _ => ([.v d 1], [.v x 1, .b b])
  | .vdqSb8 d x b _ => ([.v d 1], [.v x 1, .b b])
  | .vdqE4m3 d x b _ => ([.v d 1], [.v x 1, .b b])
  | .vdqE5m2 d x b _ => ([.v d 1], [.v x 1, .b b])
  | .atomAdd d x b _ => ([.e d 1], [.e d 1, .v x 1, .b b])
  | .atomMin d x b _ => ([.e d 1], [.e d 1, .v x 1, .b b])
  | .atomMax d x b _ => ([.e d 1], [.e d 1, .v x 1, .b b])
  | .atomAnd d x b _ => ([.e d 1], [.e d 1, .v x 1, .b b])
  | .atomOr d x b _ => ([.e d 1], [.e d 1, .v x 1, .b b])
  | .atomXor d x b _ => ([.e d 1], [.e d 1, .v x 1, .b b])
  | .atomXchg d x b _ => ([.e d 1], [.e d 1, .v x 1, .b b])
  | .atomFadd d x b _ => ([.e d 1], [.e d 1, .v x 1, .b b])
  | .atomaAdd d x b _ => ([.e d 1], [.e d 1, .v x 1, .b b])
  | .atomaMin d x b _ => ([.e d 1], [.e d 1, .v x 1, .b b])
  | .atomaMax d x b _ => ([.e d 1], [.e d 1, .v x 1, .b b])
  | .atomaAnd d x b _ => ([.e d 1], [.e d 1, .v x 1, .b b])
  | .atomaOr d x b _ => ([.e d 1], [.e d 1, .v x 1, .b b])
  | .atomaXor d x b _ => ([.e d 1], [.e d 1, .v x 1, .b b])
  | .atomaXchg d x b _ => ([.e d 1], [.e d 1, .v x 1, .b b])
  | .atomaFadd d x b _ => ([.e d 1], [.e d 1, .v x 1, .b b])
  | .atomlAdd d x b _ => ([.e d 1], [.e d 1, .v x 1, .b b])
  | .atomlMin d x b _ => ([.e d 1], [.e d 1, .v x 1, .b b])
  | .atomlMax d x b _ => ([.e d 1], [.e d 1, .v x 1, .b b])
  | .atomlAnd d x b _ => ([.e d 1], [.e d 1, .v x 1, .b b])
  | .atomlOr d x b _ => ([.e d 1], [.e d 1, .v x 1, .b b])
  | .atomlXor d x b _ => ([.e d 1], [.e d 1, .v x 1, .b b])
  | .atomlXchg d x b _ => ([.e d 1], [.e d 1, .v x 1, .b b])
  | .atomlFadd d x b _ => ([.e d 1], [.e d 1, .v x 1, .b b])
  | .acas d x b _ => ([.e d 2], [.e d 2, .v x 1, .b b])
  | .aredAdd d x b _ => ([], [.e d 1, .v x 1, .b b])
  | .aredMin d x b _ => ([], [.e d 1, .v x 1, .b b])
  | .aredMax d x b _ => ([], [.e d 1, .v x 1, .b b])
  | .aredAnd d x b _ => ([], [.e d 1, .v x 1, .b b])
  | .aredOr d x b _ => ([], [.e d 1, .v x 1, .b b])
  | .aredXor d x b _ => ([], [.e d 1, .v x 1, .b b])
  | .aredXchg d x b _ => ([], [.e d 1, .v x 1, .b b])
  | .aredFadd d x b _ => ([], [.e d 1, .v x 1, .b b])
  | .barx a _ _ => ([], [.s a 1])
  | .barinit a _ _ => ([], [.s a 1])
  | .baralloc d a => ([.s d 1], [.p a])
  | .barfree d _ => ([.s d 1], [])
  | .barmAw a => ([], [.s a 1])
  | .barmArrive a => ([], [.s a 1])
  | .barmWait a => ([], [.s a 1])
  | .barmBytes a => ([], [.s a 2])
  | .barmInit a => ([], [.s a 2])
  | .wsync a => ([], [.w a])
  | .monTeam x b _ => ([], [.v x 1, .b b])
  | .monCluster x b _ => ([], [.v x 1, .b b])
  | .monDie x b _ => ([], [.v x 1, .b b])
  | .monPackage x b _ => ([], [.v x 1, .b b])
  | .monGroup x b _ => ([], [.v x 1, .b b])
  | .monSystem x b _ => ([], [.v x 1, .b b])
  | .mwait d a => ([.s d 1], [.s a 1])
  | .spawn d a c _ => ([.s d 1], [.b a, .s c 1])
  | .join d a c => ([.s d 2], [.b a, .s c 1])
  | .ftest d a c _ => ([.s d 1], [.b a, .s c 1])
  | .ffill d a c _ => ([.s d 1], [.b a, .s c 4])
  | .tret a => ([], [.s a 1])
  | .center d a b => ([.s d 1], [.b a, .s b 2])
  | .cmovCs _ a => ([], [.s a 1])
  | .cmovSc d _ => ([.s d 1], [])
  | .shcopy d a c _ => ([.s d 2], [.b a, .s c 1])
  | .shgath d a c _ => ([.s d 2], [.b a, .s c 1])
  | .shscat d a c _ => ([.s d 2], [.b a, .s c 1])
  | .shmcast d a c _ => ([.s d 2], [.b a, .s c 1])
  | .shcan d a _ => ([.s d 1], [.s a 1])
  | .shqry d a _ => ([.s d 2], [.s a 1])
  | .shput d a c _ => ([.s d 2], [.b a, .s c 1])
  | .shget d a c _ => ([.s d 2], [.b a, .s c 1])
  | .mma _ f p _ _ => ([], [.v f 1, .s p 2])
  | .nmv d a c _ => ([.s d 2], [.b a, .s c 1])
  | _ => ([], [])

/-! Registers as numbers: scalars from 0, vectors from 128, buffer records from 512. -/

def sKeys (d n : Nat) : List Nat := (List.range n).map (d + ·)
def vKeys (d n : Nat) : List Nat := (List.range n).map fun i => 128 + d + i

/-- The registers that an element of a type takes. -/
def regCount (t : Nat) : Nat := if typeBits t = 64 then 2 else 1

def Opr.keys (w : Warp) : Opr → List Nat
  | .s r n => sKeys r.val n
  | .p r => sKeys r.val (if w.id.pair then 2 else 1)
  | .v r n => vKeys r.val n
  | .e r n => vKeys r.val (n * regCount (wmET w.ctl.wmode))
  | .t r => vKeys r.val (regCount (wmST w.ctl.wmode))
  | .q r => vKeys r.val (if typeBits (wmET w.ctl.wmode) = 8 then 2 else 1)
  | .w r => vKeys r.val (if w.id.width = 64 then 2 else 1)
  | .b r => [512 + r.val]

/-- MMA's accumulator registers and its operands' buffer records (R342, R343). -/
def mmaKeys (w : Warp) (a f : VReg) (p : SReg) : List Nat :=
  vKeys a.val (fmtOf (w.rdV f.val (w.lanes.headD 0))).n ++
    [512 + bits (w.rdS p.val) 0 4, 512 + bits (w.rdS (p.val + 1)) 0 4]

/-- The registers that CRD writes. -/
def crdKeys (w : Warp) (d n : Nat) : List Nat := if perLane w n then vKeys d 2 else sKeys d 1

/-- The registers that an instruction of a warp reads or writes. -/
def Instr.keys (w : Warp) (i : Instr) : List Nat :=
  ((Instr.oprs i).1 ++ (Instr.oprs i).2).flatMap (Opr.keys w) ++
    match i with
    | .mma a f p _ _ => mmaKeys w a f p
    | .crd d n => crdKeys w d.val n.toNat
    | _ => []

/-! ## Register elements (R445) -/

/-- The elements of a register in some lanes, as `Warp.bad` names them; a scalar is two elements in every lane. -/
def elemsOf (ls : List Nat) (k : Nat) : List Nat :=
  if k = 0 then []
  else if k < 64 then [8192 + 2 * k, 8192 + 2 * k + 1]
  else if 128 ≤ k ∧ k < 256 then ls.map (64 * (k - 128) + ·)
  else []

/-- The elements of some operands in some lanes. -/
def oprElems (w : Warp) (ls : List Nat) (os : List Opr) : List Nat := (os.flatMap (Opr.keys w)).flatMap (elemsOf ls)

/-- The register elements that an instruction reads: those of its active lanes, and for VSHUF, VBCAST and MOVVS those of the
lanes that it names. MMA's accumulator is left out: its uncorrectable elements enter as zero (R125). -/
def Instr.elemsRead (w : Warp) (i : Instr) : List Nat :=
  match i with
  | .vshuf _ a b => oprElems w w.lanes [.v b 1] ++ oprElems w (w.lanes.map fun l => (w.rdV b.val l).toNat % w.id.width) [.e a 1]
  | .vbcast _ a b => oprElems w [] [.s b 1] ++ oprElems w [(w.rdS b.val).toNat] [.e a 1]
  | .movvs _ a b => oprElems w [] [.s b 1] ++ oprElems w [(w.rdS b.val).toNat] [.e a 1]
  | _ => oprElems w w.lanes (Instr.oprs i).2

/-- The register elements that an instruction writes whole. -/
def Instr.elemsWritten (w : Warp) (i : Instr) : List Nat :=
  match i with
  | .vcompact d _ b =>
    oprElems w (List.range (w.lanes.filter fun l => w.selP.getLsbD l).length) [.e d 1] ++ oprElems w [] [.s b 1]
  | .crd d n => (crdKeys w d.val n.toNat).flatMap (elemsOf w.lanes)
  | _ => oprElems w w.lanes (Instr.oprs i).1

/-- The destination registers that an incomplete long-latency instruction holds (R241). -/
def LogEntry.dests (e : LogEntry) : List Nat :=
  match e.op with
  | .load fn d _ _ => vKeys d.val ((loadSize fn.val + 3) / 4)
  | .lda _ d _ _ => vKeys d.val (regCount (wmET e.wmode))
  | .word _ d _ _ => vKeys d.val 2
  | .tagrd d _ _ => vKeys d.val 1
  | .lnrd d _ _ => vKeys d.val 1
  | .line _ d _ _ => vKeys d.val 1
  | .ldb d _ => [512 + d.val]
  | .mkb d _ _ => [512 + d.val]
  | .brd d _ => sKeys d.val 4
  | .vdq _ d _ _ => vKeys d.val 1
  | .atom group _ d _ _ => if group.val = 3 then [] else vKeys d.val (regCount (wmET e.wmode))
  | .acas d _ _ => vKeys d.val (2 * regCount (wmET e.wmode))
  | .spawn d _ _ => sKeys d.val 1
  | .join d _ _ => sKeys d.val 2
  | .ftest d _ _ => sKeys d.val 1
  | .ffill d _ _ => sKeys d.val 1
  | .command _ d _ _ => sKeys d.val 2
  | .center d _ _ => sKeys d.val 1
  | .mma a f _ _ => vKeys a.val (fmtOf (e.regs.rdV f.val ((lanesIn 64 e.active).headD 0))).n
  | _ => []

/-- The elements that an entry writes when it completes. -/
def LogEntry.elems (e : LogEntry) : List Nat := e.dests.flatMap (elemsOf (lanesIn 64 e.active))

/-- The registers that the scoreboard holds for a warp (R35, R241). -/
def Warp.held (w : Warp) : List Nat :=
  (w.log.flatMap LogEntry.dests) ++ w.fdsq.flatMap fun r => r.dests.map (128 + ·)

/-- Does an incomplete acquire of the warp hold back every data access (R137)? -/
def LogEntry.isAcquire (e : LogEntry) : Bool :=
  match e.op with
  | .lda _ _ _ _ => true
  | .atom group _ _ _ _ => group.val == 1
  | .acas _ _ _ => true
  | _ => false

/-- Opcodes of the instructions that access data memory or send an engine command (R137): memory, atomics, the
task and future instructions, capsules, shuttle and in-stack commands, and MMA. FBAR, SHQRY, and of the capsule's instructions
CALU, CMOV and CBR, touch no data memory and send no command. -/
def dataOpcode (w : Nat) : Bool :=
  let op := w / 2 ^ 25
  let recordsOnly := op == 0x37 && w / 16 % 8 != 0
  !([0x3B, 0x61, 0x62, 0x65, 0x6D].contains op) &&
  ((decide (0x30 ≤ op) && decide (op ≤ 0x45) && !recordsOnly) || (decide (0x58 ≤ op) && decide (op ≤ 0x71)))

end Sys2Proof.Machine
end

