-- ==== Sys2Proof/Machine/Replay.lean ====
section
/-! DEFINITION. The completion of long-latency instructions: performed late in their windows or replayed after a fault,
and the deferred trap (R137, R203, R204, R222). -/

namespace Sys2Proof.Machine

/-- What a logged instruction does when it is performed. TRET waits for nothing, and MMA completes in its engine. -/
def performOp (op : LongOp) (x : Ctx) (s : State) : Res State :=
  match op with
  | .load fn d xr b => performLoad fn.val d.val xr.val b.val x s
  | .store fn d xr b => performStore fn.val d.val xr.val b.val x s
  | .lda sc d xr b => performLda sc.val d.val xr.val b.val x s
  | .stl sc d xr b => performStl sc.val d.val xr.val b.val x s
  | .tagrd d xr b => performTagrd d.val xr.val b.val x s
  | .tagwr d xr b => performTagwr d.val xr.val b.val x s
  | .lnrd d xr b => performLnrd d.val xr.val b.val x s
  | .lnwr d xr b => performLnwr d.val xr.val b.val x s
  | .cache fn xr b =>
    match fn.val with
    | 0 => .ok (performPref xr.val b.val x s)
    | 1 => performCwb xr.val b.val x s
    | 2 => performCinv xr.val b.val x s
    | _ => performIinv xr.val b.val x s
  | .ldb d xr => performLdb d.val xr.val x s
  | .mkb d xr b => performMkb d.val xr.val b.val x s
  | .brd d b => performBrd d.val b.val x s
  | .vqnt fn d xr b => performVqnt fn.val d.val xr.val b.val x s
  | .vdq fn d xr b => performVdq fn.val d.val xr.val b.val x s
  | .atom group fn d xr b => performAtom group.val fn.val d.val xr.val b.val x s
  | .acas d xr b => performAcas d.val xr.val b.val x s
  | .mon sc xr b => performMon sc.val xr.val b.val x s
  | .spawn d a c => performSpawn d.val a.val c.val x s
  | .ftest d a c => performFtest d.val a.val c.val x s
  | .ffill d a c => performFfill d.val a.val c.val x s
  | .command fn d a c => performCommand fn d.val a.val c.val x s
  | .word fn d xr b => performWord fn.val d.val xr.val b.val x s
  | .line fn d xr b => performLine fn.val d.val xr.val b.val x s
  | .barm fn a => performBarm fn.val a.val 0 x s
  | .join d a c => performJoin d.val a.val c.val x s
  | .shcan d a => performShcan d.val a.val x s
  | .shqry d a => performShqry d.val a.val x s
  | .center d a b => performCenter d.val a.val b.val x s
  | .tret _ => .ok s
  | .mma _ _ _ _ => .ok s

/-- The instructions in which a warp may sleep while their entry stays in the log (R44, R297, R299, R322, R341). -/
def LongOp.sleeps : LongOp → Bool
  | .word _ _ _ _ => true
  | .line _ _ _ _ => true
  | .join _ _ _ => true
  | .shcan _ _ => true
  | _ => false

/-- Is the instruction warp-uniform (R258)? -/
def LongOp.uniform : LongOp → Bool
  | .ldb _ _ => true
  | .mkb _ _ _ => true
  | .brd _ _ => true
  | .barm _ _ => true
  | .spawn _ _ _ => true
  | .join _ _ _ => true
  | .ftest _ _ _ => true
  | .ffill _ _ _ => true
  | .tret _ => true
  | .command _ _ _ _ => true
  | .shcan _ _ => true
  | .shqry _ _ => true
  | .center _ _ _ => true
  | _ => false

/-- The context in which an entry is performed: its logged operands, in its warp as it stands. -/
def entryCtx (c k : Nat) (w : Warp) (e : LogEntry) (ack : Bool) : Ctx :=
  { c := c, k := k, active := e.active, done := e.done, hostAck := ack, logged := true
    w := { w with regs := e.regs, ctl := { w.ctl with wmode := e.wmode, pc := e.pc }, stat := { w.stat with gen := e.gen } } }

/-- The address that an instruction forms for a lane before its checks: the record's base and the index, or the
scalar offset. -/
def LogEntry.laneVa (e : LogEntry) (l : Nat) : Option Nat :=
  let vec := fun (xr : VReg) (b : BReg) =>
    some (recBase (e.regs.rdB b.val) + (e.regs.rdV xr.val l).toNat * recStride (e.regs.rdB b.val))
  let group := fun (xr : VReg) (b : BReg) =>
    some (recBase (e.regs.rdB b.val) + (e.regs.rdV xr.val (l / 16 * 16)).toNat * recStride (e.regs.rdB b.val))
  let sca := fun (a : BReg) (c : SReg) => some (recBase (e.regs.rdB a.val) + (e.regs.rdS c.val).toNat)
  match e.op with
  | .load _ _ x b => vec x b
  | .store _ _ x b => vec x b
  | .lda _ _ x b => vec x b
  | .stl _ _ x b => vec x b
  | .word _ _ x b => vec x b
  | .tagrd _ x b => vec x b
  | .tagwr _ x b => vec x b
  | .line _ _ x b => vec x b
  | .lnrd _ x b => vec x b
  | .lnwr _ x b => vec x b
  | .cache _ x b => vec x b
  | .vqnt fn _ x b => if fn.val < 3 then group x b else vec x b
  | .vdq fn _ x b => if fn.val < 3 then group x b else vec x b
  | .atom _ _ _ x b => vec x b
  | .acas _ x b => vec x b
  | .mon _ x b => vec x b
  | .spawn _ a c => sca a c
  | .join _ a c => sca a c
  | .ftest _ a c => sca a c
  | .ffill _ a c => sca a c
  | .command _ _ a c => sca a c
  | .center _ a c => sca a c
  | .barm _ a => some (e.regs.rdS a.val).toNat
  | _ => none

/-- The deferred ACCESS trap of an entry whose page was declared unresolvable: DETAIL0 is the faulting virtual address, the lane's
own when it lies on the page, else the first that the access reached there (R209, R222). -/
def LogEntry.deadTrap (e : LogEntry) (sub : Nat) (lanes : W64) (at_ : Nat) : TrapInfo :=
  let va := fun l => match e.laneVa l with
    | some a => if a / 4096 = at_ / 4096 then a else at_
    | none => at_
  { cause := ACCESS, sub := sub, mask := if lanes = 0 then none else some lanes
    det := (List.range 64).map fun l => (l, (BitVec.ofNat 64 (va l), 0, 0)) }

/-- The entry has left the log of its warp. -/
def State.dropEntry (s : State) (c k num : Nat) : State :=
  let w := s.warp c k
  s.setWarp c k { w with log := w.log.filter fun e => e.num != num }

/-- Does the warp sleep in its youngest logged instruction? -/
def Warp.sleepsIn (w : Warp) : Option LogEntry :=
  if w.st = .asleep then (w.log.getLast?).filter fun e => e.op.sleeps else none

/-- The wait of a warp that sleeps in a logged instruction is withdrawn: the instruction is the next one again, and the lanes
that it performed stay performed (R204). -/
def Warp.withdrawn (w : Warp) : Warp :=
  match w.sleepsIn with
  | none => w
  | some f =>
    { w with
      st := .active, wait := .none, log := w.log.filter fun e => e.num != f.num
      ctl := { w.ctl with pc := f.pc, done := f.done } }

/-- Delivers the deferred trap of an entry; the continue PC is the next instruction that its warp has not issued, which is the
one that it sleeps in where it does (R203, R204). A command gives its entry of the shuttle back. -/
def State.deferTrap (s : State) (c k : Nat) (e : LogEntry) (t : TrapInfo) : State :=
  let s := match e.op with
    | .command _ _ _ _ => s.unreserve c k
    | _ => s
  let s := s.dropEntry c k e.num
  let w := (s.warp c k).withdrawn
  (s.setWarp c k w).takeTrap c k t e.op.uniform e.active e.word e.pc w.ctl.pc (some e)

/-- The trap of an instruction that slept and has met no translation fault is no deferred one: its warp stops at its own
address (R203). -/
def State.wokenTrap (s : State) (c k : Nat) (e : LogEntry) (t : TrapInfo) : State :=
  let s := s.dropEntry c k e.num
  let w := s.warp c k
  (s.setWarp c k { w with st := .active, wait := .none, ctl := { w.ctl with pc := e.pc, done := e.done } }).takeTrap c k t
    e.op.uniform e.active e.word e.pc (e.pc + 4) none

/-- The entry waits again, for other pages; a warp that slept in it is ACTIVE again. -/
def State.refault (s : State) (c k : Nat) (e : LogEntry) (qs : List PageReq) : State :=
  let w := s.warp c k
  let (ps, fs) := fileAll w.id.part (unitOfCore c) (coreBit c) s.tick qs s.faults
  let log := w.log.map fun (x : LogEntry) => if x.num = e.num then { x with pages := ps, replay := true } else x
  let w := if e.op.sleeps then { w with st := .active, wait := .none } else w
  { s with faults := fs }.setWarp c k { w with log := log }

/-- The entry is complete: it leaves the log, its destinations hold new values, and its warp goes on (R229). -/
def State.finishEntry (s : State) (c k : Nat) (e : LogEntry) : State :=
  let s := s.dropEntry c k e.num
  let w := (s.warp c k).mend e.elems
  (s.setWarp c k (if e.op.sleeps then { w with st := .active, wait := .none } else w)).pulse w.id.job

/-- The warp sleeps on in the entry, more lanes of which may be performed. -/
def State.sleepOn (s : State) (c k : Nat) (e : LogEntry) : State :=
  let w := s.warp c k
  let log := w.log.map fun (x : LogEntry) => if x.num = e.num then { x with done := w.ctl.done } else x
  s.setWarp c k { w with log := log, ctl := { w.ctl with done := 0 } }

/-- An entry performed now, its warp awake if it slept in it. -/
def State.performEntry (s : State) (c k : Nat) (e : LogEntry) (ack : Bool) : Res State :=
  let w := s.warp c k
  let w := if e.op.sleeps then { w with st := .active } else w
  performOp e.op (entryCtx c k w e ack) (s.setWarp c k w)

/-- Can an entry not complete before a trap of its own is delivered: a page was declared unresolvable, or a check fails? -/
def State.entryFails (s : State) (c k : Nat) (e : LogEntry) : Bool :=
  e.dead.isSome ||
    (e.pages.isEmpty && match s.performEntry c k e false with | .error (.trap _) => true | _ => false)

/-- May a trap of the entry be delivered now: every earlier instruction is complete, the later ones that issued have kept
their effects, and no other trap of the warp is being served (R203, R204)? -/
def State.canTrap (s : State) (c k : Nat) (e : LogEntry) : Bool :=
  let w := s.warp c k
  w.st != .held && w.fdsq.isEmpty && (w.log.head?.map LogEntry.num) == some e.num &&
    w.log.all fun f => f.num == e.num || w.sleepsIn == some f || s.entryFails c k f

/-- Performs an entry of a warp's log (R137, R222); none when it cannot complete now. -/
def State.complete (s : State) (c k : Nat) (e : LogEntry) (ack : Bool) : Option State :=
  match e.dead with
  | some (sub, lanes, va) =>
    if s.canTrap c k e then some (s.deferTrap c k e (e.deadTrap sub lanes va)) else none
  | none =>
    if !e.pages.isEmpty then none
    else
      match e.op with
      | .mma _ _ _ _ => none
      | _ =>
        match s.performEntry c k e ack with
        | .ok t =>
          if e.op.sleeps && (t.warp c k).st == .asleep then some (t.sleepOn c k e) else some (t.finishEntry c k e)
        | .error (.fault ps) => some (s.refault c k e ps)
        | .error (.trap t) =>
          if !s.canTrap c k e then none
          else if e.op.sleeps && !e.replay then some (s.wokenTrap c k e t)
          else some (s.deferTrap c k e t)
        | .error (.poison p) => some (s.poisonJob (s.warp c k).id.job p)
        | .error _ => none

/-- LONG_LATENCY_COMPLETE: entry n / 66 of the log of the warp in slot n mod 66 completes. One that its warp sleeps in
completes when what it waits for comes (`State.settle`), unless a trap of it waits for earlier ones. -/
def execLongLatencyComplete (c : CoreId) (n : Nat) (s : State) : Host.Outcome State Fault Refusal :=
  let w := s.warp c.val (n % 66)
  match w.log[n / 66]? with
  | none => .refused (.notEnabled "LONG_LATENCY_COMPLETE")
  | some e =>
    match if w.sleepsIn = some e ∧ !s.entryFails c.val (n % 66) e then none else s.complete c.val (n % 66) e false with
    | some t => .next t
    | none => .refused (.notEnabled "LONG_LATENCY_COMPLETE")

/-- Does an entry wait for the host's acknowledgement of a write-back (R301, R423)? -/
def LogEntry.hostWait (e : LogEntry) : Bool :=
  e.pages.isEmpty && e.dead.isNone &&
  match e.op with
  | .cache fn _ b => (fn.val == 1 || fn.val == 2) && recSpace (e.regs.rdB b.val) == SP_HOST
  | _ => false

/-- HOST_COMPLETION: the host acknowledges the oldest write-back of host lines of a core (R423). -/
def execHostCompletion (c : CoreId) (s : State) : Host.Outcome State Fault Refusal :=
  let found := (List.range 66).findSome? fun k =>
    ((s.warp c.val k).log.find? LogEntry.hostWait).map fun e => (k, e)
  match found with
  | none => .refused (.notEnabled "HOST_COMPLETION")
  | some (k, e) =>
    match s.complete c.val k e true with
    | some t => .next t
    | none => .refused (.notEnabled "HOST_COMPLETION")

/-- WARP_PROMOTION: a warp whose wait count has reached 256 is promoted, as `Warp.effPrio` counts it from then on (R36). -/
def execWarpPromotion (c : CoreId) (slot : SlotNo) (s : State) : Host.Outcome State Fault Refusal :=
  let w := s.warp c.val slot.val
  eventIf (decide (256 ≤ w.ctl.wait) && !w.ctl.promo && w.st == .active) "WARP_PROMOTION"
    (s.setWarp c.val slot.val { w with ctl := { w.ctl with promo := true } })

end Sys2Proof.Machine
end

