-- ==== Sys2Proof/Machine/Pages.lean ====
section
/-! DEFINITION. Everything that waits for pages: requests that enter the fault filters when there is room, and what a
reply of the driver does to them (R221, R222). -/

namespace Sys2Proof.Machine

/-- What becomes of the page requests of one holder: those that stay, and the SUB, lanes and address of one that was
declared unresolvable, with that request; and the filters. -/
structure PagesOut where
  left : List PageReq
  dead : Option (Nat × W64 × Nat) := none
  req : Option PageReq := none
  fs : List FaultPage

/-- A change of page requests: of a partition, made for a unit and core mask. -/
abbrev PageFun := Nat → Nat → BitVec 4 → List PageReq → List FaultPage → PagesOut

/-- Changes the requests of the entries of a log. -/
def pagesLog (g : List PageReq → List FaultPage → PagesOut) : List LogEntry → List FaultPage → List LogEntry × List FaultPage
  | [], fs => ([], fs)
  | e :: es, fs =>
    let z := g e.pages fs
    let (es, fs) := pagesLog g es z.fs
    ({ e with pages := z.left, dead := e.dead <|> z.dead, replay := e.replay || !e.pages.isEmpty } :: es, fs)

/-- Changes the requests of a warp: its log, its fetch, its capsule and its task's end. -/
def Warp.mapPages (w : Warp) (g : List PageReq → List FaultPage → PagesOut) (fs : List FaultPage) :
    Warp × List FaultPage :=
  let (log, fs) := pagesLog g w.log fs
  let f := g w.fetch fs
  let dead := f.dead.map fun (d : Nat × W64 × Nat) => (d.1, d.2.2)
  let w := { w with log := log, fetch := f.left, fetchDead := w.fetchDead <|> dead }
  let (w, fs) := match w.cap with
    | none => (w, f.fs)
    | some cp =>
      let z := g cp.pages f.fs
      ({ w with cap := some { cp with pages := z.left, dead := cp.dead || z.dead.isSome } }, z.fs)
  match w.task with
  | none => (w, fs)
  | some t =>
    match t.fin with
    | none => (w, fs)
    | some x =>
      let z := g x.pages fs
      ({ w with task := some { t with fin := some { x with pages := z.left, dead := x.dead <|> z.req } } }, z.fs)

/-- Changes the requests of a bobbin's tasks. -/
def pagesTasks (g : List PageReq → List FaultPage → PagesOut) : List TaskEntry → List FaultPage →
    List TaskEntry × List FaultPage
  | [], fs => ([], fs)
  | e :: es, fs =>
    let z := g e.pages fs
    let (es, fs) := pagesTasks g es z.fs
    ({ e with pages := z.left, dead := e.dead <|> z.req } :: es, fs)

/-- Changes the requests of a core's commands. -/
def pagesCmds (g : List PageReq → List FaultPage → PagesOut) : FMap Cmd → List FaultPage → FMap Cmd × List FaultPage
  | [], fs => ([], fs)
  | (k, x) :: m, fs =>
    let z := g x.pages fs
    let (m, fs) := pagesCmds g m z.fs
    ((k, { x with pages := z.left, dead := x.dead || z.dead.isSome }) :: m, fs)

/-- Changes the requests of fills that wait. -/
def pagesFills (g : PageFun) : List Fill → List FaultPage → List Fill × List FaultPage
  | [], fs => ([], fs)
  | x :: xs, fs =>
    let z := g x.part (unitOfCore x.core) (coreBit x.core) x.pages fs
    let (xs, fs) := pagesFills g xs z.fs
    ({ x with pages := z.left, dead := x.dead || z.dead.isSome } :: xs, fs)

/-- Changes the requests of notices that are marked as kills. -/
def pagesKills (g : PageFun) : List KillNotice → List FaultPage → List KillNotice × List FaultPage
  | [], fs => ([], fs)
  | x :: xs, fs =>
    let z := g x.part (unitOfCore x.core) (coreBit x.core) x.pages fs
    let (xs, fs) := pagesKills g xs z.fs
    ({ x with pages := z.left, dead := x.dead || z.dead.isSome } :: xs, fs)

/-- The front end's stage of the filters (R221). -/
def feUnit : Nat := 128

/-- Changes the requests of queues; a page declared unresolvable is kept. -/
def pagesQueues (g : PageFun) : FMap Queue → List FaultPage → FMap Queue × List FaultPage
  | [], fs => ([], fs)
  | (k, x) :: m, fs =>
    let z := g (k / 64) feUnit 0 x.pages fs
    let dead := if z.dead.isSome then x.pages.filter fun q => decide (q ∉ z.left) else []
    let (m, fs) := pagesQueues g m z.fs
    ((k, { x with pages := z.left, dead := x.dead ++ dead }) :: m, fs)

/-- Changes the requests of front-end copies. -/
def pagesCopies (g : PageFun) : List CopyOp → List FaultPage → List CopyOp × List FaultPage
  | [], fs => ([], fs)
  | x :: xs, fs =>
    let z := g x.part feUnit 0 x.pages fs
    let (xs, fs) := pagesCopies g xs z.fs
    ({ x with pages := z.left, dead := x.dead || z.dead.isSome } :: xs, fs)

/-- Changes the requests of front-end writes. -/
def pagesWrites (g : PageFun) : List FeOp → List FaultPage → List FeOp × List FaultPage
  | [], fs => ([], fs)
  | x :: xs, fs =>
    let z := g x.part feUnit 0 x.pages fs
    let (xs, fs) := pagesWrites g xs z.fs
    ({ x with pages := z.left, dead := x.dead || z.dead.isSome } :: xs, fs)

/-- Changes the requests of restores. -/
def pagesRestores (g : PageFun) : List Restore → List FaultPage → List Restore × List FaultPage
  | [], fs => ([], fs)
  | x :: xs, fs =>
    let z := g x.part feUnit 0 x.pages fs
    let (xs, fs) := pagesRestores g xs z.fs
    ({ x with pages := z.left, dead := x.dead || z.dead.isSome } :: xs, fs)

/-- Changes the requests of every warp. -/
def pagesSlots (g : PageFun) : FMap Warp → List FaultPage → FMap Warp × List FaultPage
  | [], fs => ([], fs)
  | (key, w) :: m, fs =>
    let c := key / 128
    let (w, fs) := w.mapPages (g w.id.part (unitOfCore c) (coreBit c)) fs
    let (m, fs) := pagesSlots g m fs
    ((key, w) :: m, fs)

/-- Changes the requests of every core's bobbin and shuttle; `part` gives the partition of a core's job. -/
def pagesCores (g : PageFun) (part : Core → Nat) : FMap Core → List FaultPage → FMap Core × List FaultPage
  | [], fs => ([], fs)
  | (c, x) :: m, fs =>
    let h := g (part x) (unitOfCore c) (coreBit c)
    let (bob, fs) := pagesTasks h x.bob fs
    let (cmds, fs) := pagesCmds h x.cmds fs
    let (m, fs) := pagesCores g part m fs
    ((c, { x with bob := bob, cmds := cmds }) :: m, fs)

/-- Changes every page request of the machine. -/
def State.mapPages (s : State) (g : PageFun) : State :=
  let (slots, fs) := pagesSlots g s.slots s.faults
  let (cores, fs) := pagesCores g (fun x => (s.job (x.occ.getD 0)).part) s.cores fs
  let (fills, fs) := pagesFills g s.fills fs
  let (kills, fs) := pagesKills g s.kills fs
  let (queues, fs) := pagesQueues g s.queues fs
  let (copies, fs) := pagesCopies g s.copies fs
  let (feOps, fs) := pagesWrites g s.feOps fs
  let (restores, fs) := pagesRestores g s.restores fs
  { s with slots := slots, cores := cores, fills := fills, kills := kills, queues := queues, copies := copies, feOps := feOps
           restores := restores, faults := fs }

/-- Has some list of requests one that is not in the filters? -/
def unfiled (qs : List PageReq) : Bool := qs.any fun q => !q.filed

def Warp.unfiled (w : Warp) : Bool :=
  Machine.unfiled w.fetch || (w.log.any fun e => Machine.unfiled e.pages) ||
  (match w.cap with | some cp => Machine.unfiled cp.pages | none => false) ||
  (match w.task with
   | some t => match t.fin with | some f => Machine.unfiled f.pages | none => false
   | none => false)

/-- Does any request wait to enter the filters? -/
def State.someUnfiled (s : State) : Bool :=
  (s.slots.any fun p => p.2.unfiled) || (s.fills.any fun x => Machine.unfiled x.pages) ||
  (s.kills.any fun x => Machine.unfiled x.pages) ||
  (s.queues.any fun p => Machine.unfiled p.2.pages) || (s.copies.any fun x => Machine.unfiled x.pages) ||
  (s.feOps.any fun x => Machine.unfiled x.pages) || (s.restores.any fun x => Machine.unfiled x.pages) ||
  s.cores.any fun p => (p.2.bob.any fun e => Machine.unfiled e.pages) || p.2.cmds.any fun q => Machine.unfiled q.2.pages

/-- Pages that wait in core filters are forwarded, and requests that found no room enter the filters, when there is room
(R221). -/
def State.refile (s : State) : State :=
  let s := if s.faults.all FaultPage.staged then s else { s with faults := forwardFaults s.tick s.faults }
  if s.someUnfiled then
    s.mapPages fun part unit core qs fs =>
      let z := fileAll part unit core s.tick qs fs
      { left := z.1, fs := z.2 }
  else s

/-- Is a request for a page of the fault that a reply names? -/
def answers (f : FaultPage) (part unit : Nat) (q : PageReq) : Bool :=
  q.filed && f.part == part && f.unit == unit && f.page == q.page && f.host == q.host

/-- A reply: waiting requests for the page are withdrawn (R222). -/
def resolvePage (f : FaultPage) : PageFun := fun part unit _ qs fs =>
  { left := qs.filter fun q => !answers f part unit q, fs := fs }

/-- The lanes of the requests for the page of a fault. -/
def deadLanes (qs : List PageReq) : W64 := qs.foldl (fun m q => m ||| q.lanes) 0

/-- A reply that a page is unresolvable (R222): SUB 6, or 7 where its permissions refuse. -/
def failPage (f : FaultPage) : PageFun := fun part unit _ qs fs =>
  match qs.filter (answers f part unit) with
  | [] => { left := qs, fs := fs }
  | q :: hit =>
    { left := qs.filter fun q => !answers f part unit q
      dead := some (if (q :: hit).any fun q => q.perm then 7 else 6, deadLanes (q :: hit), q.va), req := some q, fs := fs }

end Sys2Proof.Machine
end

