-- ==== Sys2Proof/Machine/Faults.lean ====
section
/-! DEFINITION. Page walks, the fault queue and the driver's replies (R220 to R222, R406 to R409). -/

namespace Sys2Proof.Machine

/-- BAR0's blocks other than BT and the MSI-X table respond from the ready stage on (R427). -/
def State.barOpen (s : State) : Bool := s.bt.stage == 4

/-- A write of the host to a register: discarded before the ready stage. -/
def State.hostWrites (s : State) (f : State → State) : Host.Outcome State Fault Refusal :=
  .next (if s.barOpen then f s else s)

/-- Entries of a core's L1 TLB and of a die's L2 TLB (R2). -/
def tlbEntries1 : Nat := 128
def tlbEntries2 : Nat := 16384

/-- A TLB of so many entries takes a leaf; a full one gives up another, which one the spec leaves open (log 98). -/
def State.tlbTake (s : State) (size : Nat) (t : FMap W64) (key : Nat) (e : W64) : FMap W64 × State :=
  let (i, s) := if t.length < size || t.has key then (t.length, s) else s.takeOne t.length
  let t : FMap W64 := t.zipIdx.filterMap fun p => if p.2 = i then none else some p.1
  (t.ins key e, s)

/-- A core's L1 TLB holds a leaf from then on. -/
def State.tlbFill1 (s : State) (c key : Nat) (e : W64) : State :=
  let (t, s) := s.tlbTake tlbEntries1 (s.core c).tlb key e
  s.setCore c { s.core c with tlb := t }

/-- A die's L2 TLB, which its cores share, holds a leaf from then on. -/
def State.tlbFill2 (s : State) (d key : Nat) (e : W64) : State :=
  let (t, s) := s.tlbTake tlbEntries2 (s.die d).tlb key e
  s.setDie d { s.die d with tlb := t }

/-- PAGE_WALK: a walk that a miss in both TLBs started completes (R220, R406); a leaf that the die's L2 TLB holds goes to the core's
L1 TLB without a walk. It takes no time here, so that no die has 192 under way. -/
def execPageWalk (part : PartId) (host : Bool) (va : BitVec 64) (_kind : AccessKind) (c : CoreId) (s : State) :
    Host.Outcome State Fault Refusal :=
  let p := s.part part.val
  let key := tlbKey part.val host va.toNat
  if !p.en || (s.core c.val).tlb.has key || (host && p.hptbase == 0) then .refused (.notEnabled "PAGE_WALK")
  else
    match (s.die (dieOf c.val)).tlb.look key with
    | some e => .next (s.tlbFill1 c.val key e)
    | none =>
      match s.walk part.val host va.toNat with
      | .leaf e n =>
        let e := tlbLeaf e n va.toNat
        .next (((s.walkReads part.val host va.toNat).tlbFill2 (dieOf c.val) key e).tlbFill1 c.val key e)
      | _ => .next (s.walkReads part.val host va.toNat)

/-! ## The fault queue -/

/-- A fault record (R221). -/
def faultRec (f : FaultPage) (num : Nat) : List Byte :=
  let fe := f.unit = feUnit
  let unit := if fe then 0 else f.unit
  let w := f.kinds.toNat + 2 ^ 6 * (if f.perm then 1 else 0) + 2 ^ 7 * (if fe then 1 else 0) +
    2 ^ 16 * min f.waiters 65535 + 2 ^ 32 * (if fe then 0 else f.cores.toNat) + 2 ^ 36 * unit
  bytesOf 8 (f.page * 4096 % 2 ^ 57) ++ bytesOf 8 w ++ bytesOf 8 f.tick ++ bytesOf 8 num

/-- The place of a physical or host address that a register holds. -/
def regPlace (a : W64) : Nat := if addrHost a then hostBase + addrOf a else addrOf a

/-- Writes bytes at a physical or host address of the driver's (R409). -/
def State.regWrite (s : State) (a : W64) (off : Nat) (bs : List Byte) : State :=
  s.feWrites [(regPlace a + off, bs.length)] bs

/-- The k-th page of a partition's stages that has no record yet, in order of entry. -/
def State.unsent (s : State) (part k : Nat) : Option FaultPage :=
  (s.faults.filter fun f => f.part == part && f.staged && f.num.isNone)[k]?

/-- FAULT_RECORD_SEND: a page's record is written to the fault queue when there is room (R221, R408). -/
def execFaultRecordSend (part : PartId) (k : Nat) (s : State) : Host.Outcome State Fault Refusal :=
  let p := s.part part.val
  let size := 2 ^ p.fqlog2.toNat
  let used := (p.fqwidx - p.fqridx).toNat
  match s.unsent part.val k with
  | none => .refused (.notEnabled "FAULT_RECORD_SEND")
  | some f =>
    if size ≤ used then .refused (.notEnabled "FAULT_RECORD_SEND")
    else
      let num := p.faultNum
      let s := s.regWrite p.fqbase (32 * (p.fqwidx.toNat % size)) (faultRec f num)
      let fs := s.faults.map fun g => if g = f then { g with num := some num } else g
      let s := { s with faults := fs }.setPart part.val { p with fqwidx := p.fqwidx + 1, faultNum := num + 1 }
      .next (if used = 0 then s.sendMsix part.val p.fqvec.toNat else s)

/-! ## Replies -/

/-- Monitors read again the lines of entries that wait, after a reply (R61, R222). -/
def State.rewatch (s : State) : State :=
  s.cores.keys.foldl (fun s c =>
    let ls := ((s.core c).bob.filter fun e => e.st == .waiting && e.order.isNone).flatMap TaskEntry.lines
    if ls.isEmpty then s else s.watchLines c ls) s

/-- A fill that waited for its page is tried again, or is lost (R90, R178). -/
def State.retryFill (s : State) (x : Fill) : State :=
  if x.dead then (s.fillLost x.core x.part x.area x.cell x.word).releaseAdm x.core x.job x.adm
  else s.deviceFill x.part x.job x.core x.cell x.val x.status x.word x.adm

/-- Fills that no longer wait for pages are tried again. -/
def State.retryFills (s : State) : State :=
  let go := s.fills.filter fun x => x.pages.isEmpty
  if go.isEmpty then s
  else go.foldl State.retryFill { s with fills := s.fills.filter fun x => !x.pages.isEmpty }

/-- A reply to a fault that is outstanding: the stage and the core filters free the page; else DUPL counts (R222, R408). -/
def State.reply (s : State) (part num : Nat) (g : FaultPage → PageFun) : State :=
  match s.faults.find? fun f => f.part == part && f.num == some num with
  | none => let p := s.part part; s.setPart part { p with dupl := p.dupl + 1 }
  | some f =>
    let left := s.faults.filter fun x => !x.isFor f.part f.unit f.page f.host
    (({ s with faults := left }.mapPages (g f)).retryFills).rewatch

/-- MM_FREPLY as written with an action and a fault number (R409). -/
def State.setReply (s : State) (part act : Nat) (num : BitVec 62) : State :=
  s.setPart part { s.part part with freply := BitVec.ofNat 64 (act + 4 * num.toNat) }

def execFaultReplyResolved (part : PartId) (num : BitVec 62) (s : State) : Host.Outcome State Fault Refusal :=
  s.hostWrites fun s => (s.setReply part.val 1 num).reply part.val num.toNat resolvePage

def execFaultReplyUnresolvable (part : PartId) (num : BitVec 62) (s : State) : Host.Outcome State Fault Refusal :=
  s.hostWrites fun s => (s.setReply part.val 2 num).reply part.val num.toNat failPage

/-! ## Invalidation (R407) -/

/-- 4 KiB pages in a range of SIZE code z, when it names one. -/
def rangePages (z : Nat) : Option Nat :=
  match z with
  | 0 => some 1
  | 1 => some 16
  | 2 => some 512
  | 3 => some (512 * 512)
  | _ => none

/-- Does an invalidation of a partition cover a TLB key? -/
def invalCovers (part : Nat) (v : W64) (key : Nat) : Bool :=
  let z := bits v 0 3
  if key / 2 ^ 47 ≠ part then false
  else if z = 7 then true
  else
    match rangePages z with
    | none => false
    | some n => key / n == tlbKey part (v.getLsbD 3) (4096 * bits v 12 45) / n

/-- A write of MM_INVAL (R407, R409). -/
def State.writeInval (s : State) (part : Nat) (v : W64) : State :=
  let p := s.part part
  if p.invBusy then s
  else
    let v := v &&& 0x01FFFFFFFFFFF00F
    let z := bits v 0 3
    s.setPart part { p with inval := v, invBusy := z == 7 || (rangePages z).isSome }

/-- TLB_INVALIDATE. -/
def execTlbInvalidate (part : PartId) (v : BitVec 64) (s : State) : Host.Outcome State Fault Refusal :=
  s.hostWrites fun s => s.writeInval part.val v

/-- A watch on a page whose entry changed is lost (R169, R407). -/
def State.watchAfter (s : State) (c : Nat) (v : W64) (w : Warp) : Warp :=
  match w.watch with
  | none => w
  | some x =>
    if x.entry.isSome ∧ invalCovers w.id.part v (tlbKey w.id.part x.host x.va) ∧ s.leafOf c w.id.part x.host x.va ≠ x.entry then
      { w with watch := some { x with st := .lost } }
    else w

/-- The lines that a warp of a partition waits for in a full/empty operation, to be looked at again. -/
def Warp.waitLines (w : Warp) (part : Nat) : List Nat :=
  match w.wait with
  | .words ls => if w.id.part = part then ls else []
  | _ => []

/-- No TLB holds a leaf any more whose key a test names (R407). -/
def State.tlbDrop (s : State) (f : Nat → Bool) : State :=
  let left := fun (t : FMap W64) => t.keep fun k _ => !f k
  { s with cores := s.cores.mapV (fun _ x => { x with tlb := left x.tlb }), dies := s.dies.mapV fun _ x => { x with tlb := left x.tlb } }

/-- The TLBs hold none of a partition's range any more (R407); sleepers look through their new translations. -/
def State.invalidate (s : State) (part : Nat) (v : W64) : State :=
  let s := s.tlbDrop (invalCovers part v)
  let s := { s with touched := (s.slots.flatMap fun (q : Nat × Warp) => q.2.waitLines part).foldl addNew s.touched }
  { s with slots := s.slots.mapV fun key w => if w.id.part = part then s.watchAfter (key / 128) v w else w }

/-- INVALIDATION_COMPLETE. -/
def execInvalidationComplete (part : PartId) (s : State) : Host.Outcome State Fault Refusal :=
  let p := s.part part.val
  eventIf p.invBusy "INVALIDATION_COMPLETE"
    ((s.setPart part.val { p with invBusy := false }).invalidate part.val p.inval)

/-! ## Page tags (R408, R409) -/

/-- Lines of the page that MM_PGINIT names: place of the first, and how many. -/
def pginitLines (v : W64) : Option (Nat × Nat) :=
  match bits v 2 2 with
  | 1 => none
  | z => (rangePages z).map fun n => (4096 * (bits v 12 40 / n * n), 32 * n)

/-- A write of MM_PGINIT. A page outside the partition's channel groups is left alone (R52). -/
def State.writePginit (s : State) (part : Nat) (v : W64) : State :=
  let p := s.part part
  if p.pgBusy then s
  else
    let v := v &&& 0x000FFFFFFFFFF00D
    let go := match pginitLines v with
      | some x => paOwned p x.1
      | none => false
    s.setPart part { p with pginit := v, pgBusy := go }

/-- PAGE_TAG_INIT. -/
def execPageTagInit (part : PartId) (v : BitVec 64) (s : State) : Host.Outcome State Fault Refusal :=
  s.hostWrites fun s => s.writePginit part.val v

/-- No instruction or constant cache holds a line. -/
def State.dropFetched (s : State) (line : Nat) : State :=
  { s with cores := s.cores.mapV fun _ x =>
      { x with l1 := { x.l1 with icache := x.l1.icache.del line, const := x.l1.const.del line } } }

/-- One line of the page: written back from every L1, its tags set, its copies dropped. -/
def State.tagLine (s : State) (full : Bool) (line : Nat) : State :=
  let s := ((s.cores.keys.foldl (fun s c => s.l1Drop c line) s).dropFetched line).obtainHome line
  (List.range 16).foldl (fun s i => s.setTag (line + 8 * i) full) s

/-- PAGE_TAG_INIT_COMPLETE. -/
def execPageTagInitComplete (part : PartId) (s : State) : Host.Outcome State Fault Refusal :=
  let p := s.part part.val
  match pginitLines p.pginit with
  | none => .refused (.notEnabled "PAGE_TAG_INIT_COMPLETE")
  | some (a, n) =>
    eventIf p.pgBusy "PAGE_TAG_INIT_COMPLETE"
      ((List.range n).foldl (fun s i => s.tagLine (p.pginit.getLsbD 0) (a + 128 * i))
        (s.setPart part.val { p with pgBusy := false }))

end Sys2Proof.Machine
end

