-- ==== Sys2Proof/Machine/Steal.lean ====
section
/-! DEFINITION. Stealing: idle cores, their sweeps of victims, and what a probe finds (R79 to R83). -/

namespace Sys2Proof.Machine

/-- The clusters of a partition on a die (R411). -/
def clustersOn (p : Partition) (d : Nat) : List Nat :=
  (List.range 32).filter fun k => p.clus.getLsbD (32 * d + k)

/-- The role entry of tasks of the job on a core. -/
def State.taskRole (s : State) (c : Nat) : Role := (s.job (s.occJob c)).r.roles.getD 3 {}

/-- An idle core (R79). -/
def State.idleCore (s : State) (c : Nat) : Bool :=
  let x := s.core c
  x.occ.isSome && ((s.job (s.occJob c)).stop).isNone && (s.taskSlot c).isSome &&
  x.bob.all fun e => e.st != .ready

/-- A core's idle time starts when it becomes idle and ends when it ceases to be; while a probe is out, the slot that it reserved
counts as the free one (R79). -/
def State.markIdle (s : State) (c : Nat) : State :=
  let x := s.core c
  let idle := s.idleCore c ||
    (x.steal.isSome && x.occ.isSome && (s.job (s.occJob c)).stop.isNone && x.bob.all fun e => e.st != .ready)
  match x.idleAt with
  | none => if idle then s.setCore c { x with idleAt := some s.tick } else s
  | some _ => if idle then s else s.setCore c { x with idleAt := none, sweep := none }

/-- cr.locthr's fields (R81). -/
def lthMinDepth (x : W64) : Nat := bits x 0 8
def lthMaxStaged (x : W64) : Nat := bits x 8 16
def lthIdle (x : W64) : Nat := bits x 24 32

/-- The victims of a sweep, in order (R79); other dies only after IDLE ticks of idleness (R81). -/
def State.victims (s : State) (c : Nat) : List Nat :=
  let jb := s.job (s.occJob c)
  let p := s.part jb.part
  let d := dieOf c
  let k := c / 4 % 32
  let own := (List.range 3).map fun i => c / 4 * 4 + (c % 4 + 1 + i) % 4
  let ks := ((List.range 31).map fun i => (k + 1 + i) % 32).filter fun k => k ∈ clustersOn p d
  let die := ks.flatMap fun k => (List.range 4).map fun i => 128 * d + 4 * k + i
  let idle := s.tick - (s.core c).idleAt.getD s.tick
  let far :=
    if idle < lthIdle jb.r.locthr then []
    else
      ((List.range 3).map fun i => (d + 1 + i) % 4).flatMap fun e =>
        (clustersOn p e).flatMap fun k => (List.range 4).map fun i => 128 * e + 4 * k + i
  own ++ die ++ far

/-- Room for one more entry: inline, or in the ring (R79). -/
def State.stealRoom (s : State) (c : Nat) : Option Bool :=
  let x := s.core c
  if x.bob.length < 64 then some true
  else if x.ring.length < (s.job (s.occJob c)).r.spill then some false
  else none

/-- STEAL_PROBE: an idle core reserves a slot, holds a place for the reply, and probes the next victim of its sweep
(R79, R82). -/
def execStealProbe (c : CoreId) (s : State) : Host.Outcome State Fault Refusal :=
  let x := s.core c.val
  let vs := x.sweep.getD (s.victims c.val)
  match vs, s.taskSlot c.val, s.stealRoom c.val with
  | v :: vs, some k, some inl =>
    if s.idleCore c.val ∧ x.steal.isNone ∧ x.sweepAt = 0 then
      .next (s.setCore c.val
        { x with steal := some { slot := k, inl := inl, victim := v }, sweep := some vs, idleAt := some (x.idleAt.getD s.tick) })
    else .refused (.notEnabled "STEAL_PROBE")
  | _, _, _ => .refused (.notEnabled "STEAL_PROBE")

/-- The readiness words of an entry as a probe reads them: all full (R62, R80). -/
def State.probeWords (v part : Nat) : List Nat → State → Bool × State
  | [], s => (true, s)
  | va :: vas, s =>
    match s.wordAt v part .tagRead va with
    | .at place =>
      let s := (s.acquireLine v (lineOf place) 3).selfInvalidate v
      if s.tag place then s.probeWords v part vas else (false, s)
    | _ => (false, s)

/-- Can an entry of a victim go to a thief (R80)? -/
def State.canGo (s : State) (v : Nat) (cross : Bool) (e : TaskEntry) : Bool × State :=
  if cross ∧ e.isLocal then (false, s)
  else if e.st ≠ .waiting then (true, s)
  else
    let j := s.occJob v
    let part := (s.job j).part
    let conflict := e.order.isSome &&
      match (s.admitOps v j 0 e.ops).1 with
      | .ok rs => !s.rangesFree e.parent (taskRanges part j 0 e.ops rs)
      | _ => false
    if conflict then (false, s) else s.probeWords v part ((List.range e.nrdy).map e.rdy)

/-- The first that can go. -/
def State.firstGo (v : Nat) (cross : Bool) : List TaskEntry → State → Option TaskEntry × State
  | [], s => (none, s)
  | e :: es, s =>
    let (b, s) := s.canGo v cross e
    if b then (some e, s) else s.firstGo v cross es

/-- The colder entries of a ring move up by one place in the spill region, after an entry has gone from its middle: the spec does
not say how the gap is closed (log 104). -/
def State.shiftRing (s : State) (v : Nat) : List TaskEntry → State
  | [] => s
  | e :: es =>
    let x := s.core v
    let i := (x.ringBase + es.length + 1) % (s.job (s.occJob v)).r.spill
    (s.writeRing v i e).shiftRing v es

/-- Removes an entry from a victim's bobbin or ring; its staging is cancelled, its range entries stay (R80, R82). -/
def State.removeEntry (s : State) (v : Nat) (e : TaskEntry) : State :=
  let x := s.core v
  if x.bob.any fun y => y.key == e.key then (s.cancelStaging v e).dropTask v e.key
  else
    let colder := (x.ring.dropWhile fun y => y.key != e.key).drop 1
    let ring := x.ring.filter fun y => y.key != e.key
    let s := s.shiftRing v colder
    let spill := (s.job (s.occJob v)).r.spill
    s.setCore v { s.core v with ring := ring, ringBase := if spill = 0 then 0 else (x.ringBase + 1) % spill }

/-- What a probe takes (R80, R81). -/
def State.grantSteal (s : State) (c v : Nat) : Option TaskEntry × State :=
  let x := s.core v
  let lt := (s.job (s.occJob c)).r.locthr
  let cross := dieOf c != dieOf v
  if x.occ ≠ (s.core c).occ ∨ (cross ∧ x.depth < lthMinDepth lt) then (none, s)
  else
    match s.firstGo v cross ((x.ring.reverse ++ x.bob.reverse).take 4) with
    | (none, s) => (none, s)
    | (some e, s) =>
      if cross ∧ (e.ops.map opBlock).sum > 1024 * lthMaxStaged lt then (none, s)
      else
        let n := if e.nsteal = 15 then e.nsteal else e.nsteal + 1
        (some { e with nsteal := n, xdie := e.xdie || cross }, s.removeEntry v e)

/-- STEAL_REQUEST of a thief's probe: the victim grants an entry or answers "empty", after a dispatch and a ring movement that
its bobbin is still to make (R75, R80). -/
def execStealRequest (c : CoreId) (s : State) : Host.Outcome State Fault Refusal :=
  match (s.core c.val).steal with
  | some y =>
    if y.reply.isNone && (s.dispatchable y.victim).isNone && !(s.core y.victim).refillable then
      let (r, s) := s.grantSteal c.val y.victim
      let s := s.setCore c.val { s.core c.val with steal := some { y with reply := some r } }
      .next (if r.isSome then s.pulse (s.occJob c.val) else s)
    else .refused (.notEnabled "STEAL_REQUEST")
  | none => .refused (.notEnabled "STEAL_REQUEST")

/-- A stolen entry as it enters the thief's bobbin, bound to the reserved slot (R82). -/
def stolenEntry (e : TaskEntry) (slot o : Nat) : TaskEntry :=
  let e := if e.st = .waiting then { e.waitAgain with order := some o } else e.stageAgain
  { e with key := o, bound := some slot, pages := [], dead := none }

/-- A thief receives a reply (R82). -/
def State.stealReply (s : State) (c : Nat) (y : Steal) (r : Option TaskEntry) : State :=
  let x := s.core c
  let s := s.setCore c { x with steal := none }
  match r with
  | none =>
    let x := s.core c
    if x.sweep = some [] then s.setCore c { x with sweep := none, sweepAt := s.tick + 512 } else s
  | some e =>
    let s := if y.inl then s else s.spillColdest c
    let (o, s) := s.nextSeq
    let x := s.core c
    let e := stolenEntry e y.slot o
    let s := s.setCore c { x with bob := e :: x.bob, sweep := none }
    if e.st = .waiting then s.watchLines c e.lines else s

/-- STEAL_REPLY. -/
def execStealReply (c : CoreId) (s : State) : Host.Outcome State Fault Refusal :=
  match (s.core c.val).steal with
  | some y =>
    match y.reply with
    | some r => .next (s.stealReply c.val y r)
    | none => .refused (.notEnabled "STEAL_REPLY")
  | none => .refused (.notEnabled "STEAL_REPLY")

/-- STEAL_SWEEP_WAIT_EXPIRY: the wait of 512 ticks after a failed sweep ends (R82). -/
def execStealSweepWaitExpiry (c : CoreId) (s : State) : Host.Outcome State Fault Refusal :=
  let x := s.core c.val
  eventIf (x.sweepAt != 0 && decide (x.sweepAt ≤ s.tick)) "STEAL_SWEEP_WAIT_EXPIRY" (s.setCore c.val { x with sweepAt := 0 })

end Sys2Proof.Machine
end

