-- ==== Sys2Proof/Machine/Launch.lean ====
section
/-! DEFINITION. Jobs: the job record and its checks (R20, R22, R24, R377 to R379, R394), placement of teams (R18, R19,
R25, R26, R84, R98, R353, R354, R396), and how a job ends (R85, R393, R446). -/

namespace Sys2Proof.Machine

/-! ## The job record (R394) -/

/-- A role-table entry. -/
def roleAt (raw : List Byte) (i : Nat) : Role :=
  let b := fun k => descNat raw (24 + 4 * i + k) 1
  { warps := b 0, allot := BitVec.ofNat 2 (b 1), prio := BitVec.ofNat 2 (b 2) }

/-- The fields of a job record. -/
def jobRecOf (raw : List Byte) : JobRec :=
  let v := descNat raw
  { code := v 0 8, entry := v 8 4, width := 16 * 2 ^ min (v 12 1) 2, paired := (v 13 1).testBit 0
    bal := (v 13 1).testBit 1, ntb := v 14 1, gx := v 16 4 + 1, gy := v 20 2 + 1, gz := v 22 2 + 1
    roles := (List.range 4).map (roleAt raw)
    teamMasks := (List.range 16).map fun i => v (40 + i) 1
    clusMasks := (List.range 16).map fun i => v (56 + i) 1
    gridMasks := (List.range 16).map fun i => v (72 + i) 1
    lslice := v 88 2, stage := v 90 1, spill := v 92 4, spillBase := v 96 8, hbase := v 112 8, hcount := v 120 4
    locthr := BitVec.ofNat 64 (v 128 8), wdog := v 136 8, image := v 144 8, imageSz := v 152 8, djid := v 172 4 }

/-- Team warps by role, in team order (R22). -/
def teamRoles (jr : JobRec) : List Nat :=
  (List.range 3).flatMap fun i => List.replicate ((jr.roles.getD i {}).warps) i

/-- The warps of a team on the lower core, and on the upper core of a pair (R19). -/
def lowerWarps (jr : JobRec) : Nat :=
  let n := (teamRoles jr).length
  if jr.paired then (n + 1) / 2 else n

def JobRec.taskSlots (jr : JobRec) : Nat := (jr.roles.getD 3 {}).warps

/-- Register bytes of one warp of a role (R26). -/
def roleBytes (jr : JobRec) (i : Nat) : Nat := 4 * jr.width * (32 * ((jr.roles.getD i {}).allot.toNat + 1))

/-- Do t teams of the job fit on an empty core, by slots, registers and scratchpad (R26, R98)? -/
def teamsFit (jr : JobRec) (t : Nat) : Bool :=
  let rs := teamRoles jr
  let h := lowerWarps jr
  let r := jr.taskSlots
  let fits := fun (part : List Nat) =>
    let regs := t * (part.map (roleBytes jr)).sum + r * roleBytes jr 3
    decide (r + t * part.length ≤ 64) && decide (regs ≤ 524288)
  fits (rs.take h) && fits (rs.drop h) &&
  decide (jr.lslice * jr.width * (r + h * t) + 4096 * jr.stage ≤ 524288)

/-- T of R98: the most teams of the job that a core, or a pair, holds at once. -/
def maxTeams (jr : JobRec) : Nat := ((List.range 64).takeWhile fun t => teamsFit jr (t + 1)).length

/-- N of R98. -/
def slicePlaces (jr : JobRec) : Nat := jr.taskSlots + lowerWarps jr * maxTeams jr

/-- Teams that a core, or a pair, can hold at once with its 128 team barriers (R157). -/
def capacity (jr : JobRec) : Nat := if jr.ntb = 0 then maxTeams jr else min (maxTeams jr) (128 / jr.ntb)

/-- The first byte that is not zero among some bytes of the record. -/
def firstByte (raw : List Byte) (o n : Nat) : Option Nat :=
  ((List.range n).find? fun i => raw.getD (o + i) 0 != 0).map fun i => o + i

/-- The first offending byte of REASON 1: reserved bytes that are not zero, and fields outside their limits (R394). -/
def recordLimits (raw : List Byte) : Option Nat :=
  let v := descNat raw
  let field := fun (o n : Nat) (bad : Nat → Bool) => if bad (v o n) then some o else none
  let role := fun i =>
    [field (24 + 4 * i) 1 fun x => decide (64 < x), field (25 + 4 * i) 1 fun x => decide (3 < x),
     field (26 + 4 * i) 1 fun x => decide (3 < x), firstByte raw (27 + 4 * i) 1]
  let mask := fun (o i : Nat) => field (o + i) 1 fun x => decide (7 < x)
  let team := fun i => field (40 + i) 1 fun x => decide (7 < x) || (decide (v 14 1 ≤ i) && x != 0)
  let all :=
    [field 0 8 fun x => x % 4096 != 0 || decide (2 ^ 57 ≤ x), field 8 4 fun x => x % 4 != 0, field 12 1 fun x => decide (2 < x),
     field 13 1 fun x => decide (3 < x), field 14 1 fun x => decide (16 < x)] ++
    (List.range 4).flatMap role ++ (List.range 16).map team ++ (List.range 16).map (mask 56) ++
    (List.range 16).map (mask 72) ++
    [field 88 2 fun x => decide (2048 < x) || x % 16 != 0, field 90 1 fun x => decide (64 < x), firstByte raw 91 1,
     field 92 4 fun x => decide (65536 < x), field 96 8 fun x => x % 4096 != 0 || (v 36 1 != 0 && x == 0),
     field 112 8 fun x => x % 32 != 0, field 120 4 fun x => decide (2 ^ 24 < x), firstByte raw 124 4, firstByte raw 135 1,
     field 136 8 fun x => decide (x < 1500) || decide (15000000000 < x),
     field 144 8 fun x => x % 4096 != 0 || x == 0, field 160 8 fun x => x % 8 != 0, field 168 2 fun x => decide (4095 < x),
     firstByte raw 170 2, firstByte raw 176 336]
  all.findSome? id

/-! ## Reads of a LAUNCH (R394 to R396, R377 to R379) -/

/-- The handler table's entries; none when it breaks R378. -/
def handlerTable (b : List Byte) : Option (FMap Nat) :=
  (List.range 16).foldl (fun (m : Option (FMap Nat)) i =>
    m.bind fun m =>
      let e := descNat b (4 * i) 4
      if e.testBit 1 then none else if e.testBit 0 then some (m.ins (i + 1) (e / 4 * 4)) else some m) (some [])

/-- The schedule table's classes; none when it breaks R377. -/
def schedTable (b : List Byte) : Option (List (Nat × Nat)) :=
  (List.range (descNat b 0 8)).foldl (fun (m : Option (List (Nat × Nat))) i =>
    m.bind fun m =>
      let o := 8 + 16 * i
      if descNat b (o + 8) 4 % 4 != 0 || descNat b (o + 12) 4 != 0 then none
      else some (m ++ [(descNat b o 8, descNat b (o + 8) 4)])) (some [])

/-- NONE of a table offset. -/
def noTable (o : Nat) : Bool := o == 0xFFFFFFFF

/-- Bytes of the image of a job's code, a whole number of pages (R379). No field of the job record gives them: the image holds the
entry and the tables that the record names, and how much more is free (DESIGN CHOICE: log 60). -/
def imageLen (raw htab stab : List Byte) : Nat :=
  let v := descNat raw
  let ends := [v 8 4 + 4] ++ (if noTable (v 104 4) then [] else [v 104 4 + htab.length]) ++
    (if noTable (v 108 4) then [] else [v 108 4 + stab.length])
  4096 * ((ends.foldl max 0 + 4095) / 4096 + Config.codePages (BitVec.ofNat 64 (v 0 8)))

/-- Do the entries of a job's tables lie in its image (R379)? -/
def handlersInside (raw htab stab : List Byte) : Bool :=
  ((handlerTable htab).getD []).all fun p => decide (p.2 < imageLen raw htab stab)
def classesInside (raw htab stab : List Byte) : Bool :=
  ((schedTable stab).getD []).all fun p => decide (p.2 < imageLen raw htab stab)

/-- Packages that a peer table lists as valid (R395). -/
def peerTable (b : List Byte) (n : Nat) : List Nat :=
  ((List.range n).map fun i => descNat b (8 * i) 8).filterMap fun e =>
    if e.testBit 12 then some (e % 2 ^ 12) else none

/-- What a LAUNCH reads besides the packet; `none` for bytes that are not read because a page is unresolvable. -/
structure LaunchReads where
  raw : Option (List Byte) := none
  htab : Option (List Byte) := none
  stab : Option (List Byte) := none
  peers : Option (List Byte) := none
  args : Bool := true

/-- One read, when it is wanted: `none` answers "wait". -/
def State.launchRead (s : State) (part q : Nat) (want : Bool) (addr n : Nat) :
    Except (List PageReq) (Option (List Byte) × State) :=
  if !want then .ok (some [], s)
  else
    match s.feRead part q (BitVec.ofNat 64 addr) n with
    | .bytes bs s => .ok (some bs, s)
    | .dead => .ok (none, s)
    | .wait qs => .error qs

/-- All that a LAUNCH reads, in turn; or the pages that it waits for. -/
def State.launchReads (s : State) (part q : Nat) (pk : List Byte) : Except (List PageReq) (LaunchReads × State) := do
  let rd := fun (s : State) (want : Bool) (a n : Nat) => s.launchRead part q want a n
  let (raw, s) ← rd s true (descNat pk 8 8) 512
  match raw with
  | none => return ({}, s)
  | some r =>
    let code := descNat r 0 8
    let h := descNat r 104 4
    let t := descNat r 108 4
    let pe := descNat r 160 8
    let np := descNat r 168 2
    let (htab, s) ← rd s (!noTable h && h % 64 == 0) (code + h) 64
    let (head, s) ← rd s (!noTable t && t % 8 == 0) (code + t) 8
    let n := match head with | some b => descNat b 0 8 | none => 0
    let (rest, s) ← rd s (n != 0 && decide (n ≤ 8)) (code + t + 8) (16 * n)
    let stab := match head, rest with | some a, some b => some (a ++ b) | _, _ => none
    let (peers, s) ← rd s (pe != 0 && np != 0) pe (8 * np)
    let (args, s) ← rd s (descNat pk 24 4 != 0) (descNat pk 16 8) (descNat pk 24 4)
    return ({ raw := some r, htab := htab, stab := stab, peers := peers, args := args.isSome }, s)

/-! ## The checks (R394) -/

/-- The cores of a partition, ascending. -/
def partCores (p : Partition) : List Nat :=
  (List.range 4).flatMap fun d => (clustersOn p d).flatMap fun k => (List.range 4).map fun c => 128 * d + 4 * k + c

/-- Bytes of a context image of n cores: header, tag table and body (R224). -/
def imageBytes (n : Nat) : Nat :=
  let b := Config.imageBlocks n
  4096 * (1 + (b + 511) / 512 + b)

/-- The first failing check: REASON and DETAIL (R394). -/
def State.launchCheck (s : State) (part : Nat) (x : LaunchReads) : Option (Nat × Nat) :=
  match x.raw with
  | none => some (10, 0)
  | some raw =>
    let jr := jobRecOf raw
    let n := (teamRoles jr).length
    let p := s.part part
    let units := (partCores p).length / (if jr.paired then 2 else 1)
    let h := descNat raw 104 4
    let t := descNat raw 108 4
    let teams := jr.gx * jr.gy * jr.gz
    match recordLimits raw with
    | some o => some (1, o)
    | none =>
      if 2 ^ 32 < teams then some (2, 16)
      else if n = 0 ∨ (if jr.paired then 128 else 64) < n then some (3, 24)
      else if capacity jr = 0 then some (4, 24)
      else if (jr.gridMasks.any fun m => m != 0) ∧ capacity jr * units < teams then
        some (5, (firstByte raw 72 16).getD 72)
      else if !noTable h ∧ x.htab.isNone then some (10, 104)
      else if !noTable h ∧ (h % 64 ≠ 0 ∨ (handlerTable (x.htab.getD [])).isNone ∨ !handlersInside raw (x.htab.getD []) (x.stab.getD [])) then
        some (6, 104)
      else if !noTable t ∧ x.stab.isNone then some (10, 108)
      else if !noTable t ∧ (t % 8 ≠ 0 ∨ 8 < descNat (x.stab.getD []) 0 8 ∨ (schedTable (x.stab.getD [])).isNone ∨
          !classesInside raw (x.htab.getD []) (x.stab.getD [])) then
        some (6, 108)
      else if descNat raw 15 1 ≠ part then some (7, 15)
      else if jr.imageSz < imageBytes (partCores p).length then some (8, imageBytes (partCores p).length)
      else if jr.djid ≠ 0 ∧ s.jobs.any (fun y => y.2.phase == .running && y.2.r.djid == jr.djid) then some (9, 172)
      else if x.peers.isNone then some (10, 160)
      else if !x.args then some (10, 0)
      else none

/-! ## Placement (R25, R26, R98, R353, R354) -/

/-- Is a cluster reserved for a prepared launch of another job, or for a restore (R226, R401)? -/
def State.reservedCluster (s : State) (j k : Nat) : Bool :=
  (s.jobs.any fun p => p.1 != j && p.2.phase == .prepared && decide (k ∈ p.2.resv)) ||
  s.restores.any fun r => match r.map with | some m => m.any fun q => q.2 == k | none => false

/-- Does another job keep a core from this one: a warp, a task or task slots of it (R25, R354)? -/
def State.coreTaken (s : State) (j c : Nat) : Bool :=
  (s.slots.any fun p => p.1 / 128 == c && p.2.st != .free && p.2.id.job != j) ||
  (match (s.core c).occ with
   | some o => o != j && (s.jobs.has o && (s.job o).r.taskSlots != 0)
   | none => false) ||
  s.reservedCluster j (c / 4)

/-- Team warps of a job on a core. -/
def State.teamWarps (s : State) (j c : Nat) : List Warp :=
  (s.slots.keep fun key w => key / 128 == c && w.st != .free && w.id.job == j && !w.id.task && !w.id.handler).vals

/-- Teams of a job on a core, or on the pair that the core belongs to when the job's teams are paired. -/
def State.teamCount (s : State) (j c : Nat) : Nat :=
  let ws := if (s.job j).r.paired then s.teamWarps j (c / 2 * 2) ++ s.teamWarps j (c / 2 * 2 + 1) else s.teamWarps j c
  ((ws.map fun w => w.id.teamIdx).foldl addNew []).length

/-- Room on a core for the given warps of one more team. -/
def State.coreRoom (s : State) (j c : Nat) (jr : JobRec) (roles : List Nat) : Bool :=
  let ws := s.teamWarps j c
  let regs := (ws.map fun w => 4 * jr.width * (32 * (w.id.allot.toNat + 1))).sum + jr.taskSlots * roleBytes jr 3 +
    (roles.map (roleBytes jr)).sum
  !s.coreTaken j c && decide (s.teamCount j c < maxTeams jr) &&
  decide (ws.length + jr.taskSlots + roles.length ≤ slicePlaces jr) && decide (regs ≤ 524288)

/-- Room on a core, or a pair by its lower core, for a whole team. -/
def State.teamRoom (s : State) (j c : Nat) (jr : JobRec) : Bool :=
  let rs := teamRoles jr
  let h := lowerWarps jr
  decide ((s.core c).bars.length + jr.ntb ≤ 128) && s.coreRoom j c jr (rs.take h) &&
  (!jr.paired || s.coreRoom j (c + 1) jr (rs.drop h))

/-- The core of a die on which the next team starts: fewest teams of the job, then lowest (R353). -/
def State.placeFor (s : State) (j d : Nat) : Option Nat :=
  let jb := s.job j
  let cs := (partCores (s.part jb.part)).filter fun c =>
    dieOf c == d && (!jb.r.paired || c % 2 == 0) && s.teamRoom j c jb.r
  cs.foldl (fun best c =>
    match best with
    | none => some c
    | some b => if s.teamCount j c < s.teamCount j b then some c else some b) none

/-- The lines of a job's argument block, as the constant cache takes them (R396). -/
def State.argLines (s : State) (jb : Job) : FMap (List Byte) :=
  let z := s.feSpan jb.part .read jb.args jb.argLen
  (z.segs.map fun p => lineOf p.1).foldl (fun (m : FMap (List Byte)) l =>
    m.ins l (if isHostPlace l then s.hostRead l 128 else s.read l 128)) []

/-- A job begins to occupy a core, unless it does already (R98, R354, R396): no clean copy that an earlier job left hides a
store (R152), every line of the scratchpad is empty (R115), and fault records start from record 0 (R91). -/
def State.occupy (s : State) (j c : Nat) : State :=
  let jb := s.job j
  let x := s.core c
  let s := s.updJob j fun jb => { jb with cores := addNew jb.cores c }
  if x.occ = some j then s
  else
    let l1 : L1 := { x.l1 with clean := [], const := s.argLines jb }
    { s with lineFull := s.lineFull.keep fun a _ => coreOfPlace a != c }.setCore c
      { x with occ := some j, places := slicePlaces jb.r, l1 := l1, bob := [], ring := [], ringBase := 0, monitor := []
               faultIdx := 0, steal := none, sweep := none, idleAt := none, sweepAt := 0 }

/-- Team barriers that a team declares (R157, R158). -/
def State.declareBars (s : State) (jr : JobRec) (c t : Nat) : State :=
  let rs := teamRoles jr
  (List.range jr.ntb).foldl (fun s n =>
    let m := jr.teamMasks.getD n 0
    let ix := (List.range rs.length).filter fun i => m.testBit (rs.getD i 0)
    let x : Barrier := { memb := ix.foldl (fun b i => b ||| bit128 i) 0, exp := ix.length }
    s.setBar (.team c (128 * t + n)) x) s

/-- A team warp at its start (R396). -/
def teamWarp (j : Nat) (jb : Job) (t i role : Nat) : Warp :=
  let jr := jb.r
  let m := laneMask jr.width
  let e := jr.roles.getD role {}
  { id := { part := jb.part, job := j, width := jr.width, role := BitVec.ofNat 2 role, allot := e.allot, prio := e.prio
            twarp := i, twn := (teamRoles jr).length - 1, pair := jr.paired
            team := packXYZ (t % jr.gx) (t / jr.gx % jr.gy) (t / (jr.gx * jr.gy)), grid := jobGrid jr, teamIdx := t }
    regs := ((({} : Regs).wrS 1 (BitVec.ofNat 64 (addrOf jb.args))).wrS 2 (BitVec.ofNat 64 jb.argLen)).wrS 3
      (BitVec.ofNat 64 jr.code)
    ctl := { pc := BitVec.ofNat 64 (jr.code + jr.entry), exec := m, live := m, path := m } }

/-- The team joins a cluster or grid barrier: at once while ARR is zero, else at the next completion (R161). -/
def State.joinBar (s : State) (b : BarRef) (keys : List Nat) : State :=
  let mine := keys.filter fun k => s.member (s.slots.getD k {}) b
  let x := s.bar b
  if mine.isEmpty then s
  else if x.arr = 0 then s.setBar b { x with exp := x.exp + mine.length }
  else
    mine.foldl (fun s k =>
      let w := s.slots.getD k {}
      let w := match b with
        | .cluster _ _ n => { w with lateC := w.lateC ||| bit16 n }
        | .grid _ n => { w with lateG := w.lateG ||| bit16 n }
        | .team _ _ => w
      { s with slots := s.slots.ins k w }) s

/-- Starts team t of a job on a core, or on the pair whose lower core it is (R18, R19, R26, R98). -/
def State.startTeam (s : State) (j t c : Nat) : State :=
  let jb := s.job j
  let jr := jb.r
  let h := lowerWarps jr
  let s := s.occupy j c
  let s := if jr.paired then s.occupy j (c + 1) else s
  let s := s.declareBars jr c t
  let (s, keys) := (teamRoles jr).zipIdx.foldl (fun (acc : State × List Nat) p =>
    let g := if p.2 < h then c else c + 1
    match acc.1.freeSlot g with
    | some k => (acc.1.placeWarp g k (teamWarp j jb t p.2 p.1), acc.2 ++ [slotKey g k])
    | none => acc) (s, [])
  let bs := ((List.range 16).filter fun n => jr.clusMasks.getD n 0 != 0).map fun n => BarRef.cluster j (clusterOf c) n
  let gs := ((List.range 16).filter fun n => jr.gridMasks.getD n 0 != 0).map fun n => BarRef.grid j n
  (bs ++ gs).foldl (fun s b => s.joinBar b keys) s

/-! ## Distributors (R84, R26) -/

/-- The i-th die's share of the starting teams. -/
def dieShare (teams i n : Nat) : DieTeams := { lo := 0, hi := (teams + n - 1 - i) / n }

/-- Unstarted teams of a job at its start. -/
def firstTeams (jr : JobRec) (onDies : List Nat) : FMap DieTeams :=
  onDies.zipIdx.foldl (fun (m : FMap DieTeams) p => m.ins p.1 (dieShare (jr.gx * jr.gy * jr.gz) p.2 onDies.length)) []

/-- The team index at position i of a die's own progression. -/
def ownTeam (jb : Job) (d i : Nat) : Nat := (jb.onDies.idxOf? d).getD 0 + jb.onDies.length * i

/-- The lowest unstarted team of a die's distributor, and what it then holds. -/
def takeLowest (jb : Job) (d : Nat) : Option (Nat × DieTeams) :=
  let x := jb.unst.getD d {}
  let own := if x.lo < x.hi then some (ownTeam jb d x.lo) else none
  match own, x.extra with
  | some t, [] => some (t, { x with lo := x.lo + 1 })
  | some t, e :: es => if t < e then some (t, { x with lo := x.lo + 1 }) else some (e, { x with extra := es })
  | none, e :: es => some (e, { x with extra := es })
  | none, [] => none

/-- The highest unstarted team of a die's distributor, and what it then holds. -/
def takeHighest (jb : Job) (d : Nat) : Option (Nat × DieTeams) :=
  let x := jb.unst.getD d {}
  let own := if x.lo < x.hi then some (ownTeam jb d (x.hi - 1)) else none
  let last := x.extra.getLast?
  match own, last with
  | some t, none => some (t, { x with hi := x.hi - 1 })
  | some t, some e => if e < t then some (t, { x with hi := x.hi - 1 }) else some (e, { x with extra := x.extra.dropLast })
  | none, some e => some (e, { x with extra := x.extra.dropLast })
  | none, none => none

def State.setTeams (s : State) (j d : Nat) (x : DieTeams) : State :=
  s.updJob j fun jb => { jb with unst := jb.unst.ins d x }

/-- Starts one team that a die's distributor holds. -/
def State.startOne (s : State) (j d : Nat) : Option State :=
  match takeLowest (s.job j) d, s.placeFor j d with
  | some (t, x), some c => some ((s.setTeams j d x).startTeam j t c)
  | _, _ => none

/-- Starts every team that a die's distributor can start. -/
def State.startMany (j d : Nat) : Nat → State → State
  | 0, s => s
  | n + 1, s =>
    match s.startOne j d with
    | some s => State.startMany j d n s
    | none => s

/-- At a job's placement every distributor starts the teams that it can (R353): at most 64 on each of 128 cores. -/
def State.startAll (s : State) (j : Nat) : State :=
  (s.job j).onDies.foldl (fun s d => State.startMany j d 8192 s) s

/-- Is a job running, and not being pre-empted? -/
def Job.runs (jb : Job) : Bool := jb.phase == .running && jb.stop.isNone

/-- Is a job's part on a die being pre-empted, or saved as a die form (R359)? -/
def State.dieAway (s : State) (j d : Nat) : Bool :=
  (s.job j).dieStop == some d || s.saves.any fun x => x.away && x.job == j && x.die == some d

/-- DISTRIBUTOR_START_TEAM. The first team of a job that found no core at its launch is its placement: all teams that the
distributors can start then start together (R353). -/
def execDistributorStartTeam (d : DieId) (j : Nat) (s : State) : Host.Outcome State Fault Refusal :=
  let jb := s.job j
  if jb.runs ∧ s.jobs.has j ∧ !s.dieAway j d.val then
    match s.startOne j d.val with
    | some t => .next (if jb.cores.isEmpty then s.startAll j else t)
    | none => .refused (.notEnabled "DISTRIBUTOR_START_TEAM")
  else .refused (.notEnabled "DISTRIBUTOR_START_TEAM")

/-- A sorted list gains a team. -/
def insertTeam (t : Nat) : List Nat → List Nat
  | [] => [t]
  | x :: xs => if t ≤ x then t :: x :: xs else x :: insertTeam t xs

/-- TEAM_REQUEST: a distributor with no unstarted team asks the others in order; the first that holds one gives its
highest (R84). -/
def execTeamRequest (d : DieId) (j : Nat) (s : State) : Host.Outcome State Fault Refusal :=
  let jb := s.job j
  let mine := jb.unst.getD d.val {}
  if jb.runs ∧ s.jobs.has j ∧ !s.dieAway j d.val ∧ d.val ∈ jb.onDies ∧ !mine.asked ∧ (takeLowest jb d.val).isNone ∧
      (s.placeFor j d.val).isSome then
    let others := ((List.range 3).map fun i => (d.val + 1 + i) % 4).filter fun e => decide (e ∈ jb.onDies) && !s.dieAway j e
    match others.findSome? fun e => (takeHighest jb e).map fun (p : Nat × DieTeams) => (e, p) with
    | some (e, t, x) =>
      .next ((s.setTeams j e x).setTeams j d.val { mine with extra := insertTeam t mine.extra })
    | none => .next (s.setTeams j d.val { mine with asked := true })
  else .refused (.notEnabled "TEAM_REQUEST")

/-! ## A job's making -/

/-- The job that a LAUNCH makes (R394 to R396). -/
def State.newJob (s : State) (part : Nat) (pk : Pkt) (packet : List Byte) (x : LaunchReads) : Job :=
  let raw := x.raw.getD []
  let jr := jobRecOf raw
  let ds := (List.range 4).filter fun d => !(clustersOn (s.part part) d).isEmpty
  let h := if noTable (descNat raw 104 4) then [] else (handlerTable (x.htab.getD [])).getD []
  let t := if noTable (descNat raw 108 4) then [] else (schedTable (x.stab.getD [])).getD []
  { part := part, num := pk.q + 64 * (pk.idx % 2 ^ 26), r := jr, raw := raw, pk := pk, sched := t, handlers := h
    args := BitVec.ofNat 64 (descNat packet 16 8), argLen := descNat packet 24 4, onDies := ds
    unst := firstTeams jr ds, pulse := s.tick, peers := peerTable (x.peers.getD []) (descNat raw 168 2) }

/-- Adds a job; answers its number in the model. -/
def State.addJob (s : State) (jb : Job) : Nat × State :=
  (s.nextJob, { s with jobs := s.jobs.ins s.nextJob jb, nextJob := s.nextJob + 1 })

/-! ## Endings (R47, R85, R393, R446) -/

/-- The clusters that a job occupied, those too that a die form has left, return to the base clock (R47). -/
def State.clocksBack (s : State) (jb : Job) : State :=
  let step := (s.part jb.part).step.toNat
  ((jb.cores ++ jb.past).map fun c => c / 4).foldl (fun s k => { s with clockReq := s.clockReq.ins k step }) s

/-- The notices marked as kills for records that killed warps still own (R228). -/
def Job.orphanNotices (jb : Job) (j : Nat) : List KillNotice :=
  jb.orphans.map fun o => { part := jb.part, job := j, va := o.2.1, ident := o.2.2, core := o.1 }

/-- The job leaves the machine: its cores are free, a command that waits for it finds no such job, its packet ends with a code
(R393). -/
def State.endJob (s : State) (j code reason detail : Nat) : State :=
  let jb := s.job j
  let s := s.clocksBack jb
  let s := { s with kills := s.kills ++ jb.orphanNotices j }
  let s := jb.cores.foldl (fun s c =>
    let x := s.core c
    if x.occ = some j then
      s.setCore c { x with occ := none, places := 0, bob := [], ring := [], monitor := [], steal := none, sweep := none
                           idleAt := none, sweepAt := 0, bars := [], pend := [], l1 := { x.l1 with const := [] } }
    else s) s
  let s := { s with jobs := s.jobs.del j }.endCommand jb.part j fun _ => 1
  s.endPacket jb.part jb.pk code reason detail

/-- Do all conditions of R85 hold? -/
def State.jobOver (s : State) (j : Nat) : Bool :=
  let jb := s.job j
  (jb.unst.all fun p => decide (p.2.hi ≤ p.2.lo) && p.2.extra.isEmpty) &&
  (s.slots.all fun p => p.2.st == .free || p.2.id.job != j) &&
  (s.fills.all fun x => x.job != j || x.word.isNone) &&
  (s.saves.all fun x => x.job != j || !x.away) &&
  jb.cores.all fun c =>
    let x := s.core c
    x.occ != some j || (x.bob.isEmpty && x.ring.isEmpty &&
      match x.steal with | some y => (match y.reply with | some (some _) => false | _ => true) | none => true)

/-- A run of a core's dirty bytes reaches its slice at a job's end; a byte that another core of the job has already written
may keep either value (R446). -/
def State.drainRun (c : Nat) (acc : State × FMap Bool) (r : Nat × List Byte) : State × FMap Bool :=
  let old := acc.1.sliceRead r.1 r.2.length
  let z := ((r.2.zip old).zipIdx r.1).foldl (fun (z : List Byte × State × FMap Bool) p =>
    let (keep, s) := if z.2.2.has p.2 then z.2.1.takeBit else (false, z.2.1)
    (z.1 ++ [if keep then p.1.2 else p.1.1], s, z.2.2.ins p.2 true)) ([], acc)
  (z.2.1.sliceWrite c r.1 z.1, z.2.2)

/-- A core is drained at its job's end; its clean copies go, and poisoned words stay poisoned where they now lie. -/
def State.drainEnd (acc : State × FMap Bool) (c : Nat) : State × FMap Bool :=
  let (mine, bad, s) := acc.1.takeDirty c fun _ => true
  let z := (runsOf mine).foldl (State.drainRun c) (s, acc.2)
  ((z.1.poisonAt bad.keys).selfInvalidate c, z.2)

/-- Every dirty host byte in the L2s is written to host memory. -/
def State.flushHost (s : State) : State :=
  (List.range 4).foldl (fun s d =>
    (((s.die d).hdirty.keys.map lineOf).foldl addNew []).foldl State.hostFlush s) s

/-- The cores that a job occupies are drained, and host memory holds what they wrote (R446). -/
def State.drainJob (s : State) (j : Nat) : State := (((s.job j).cores.foldl State.drainEnd (s, [])).1).flushHost

/-- JOB_END: the job's cores are drained (R446). -/
def execJobEnd (j : Nat) (s : State) : Host.Outcome State Fault Refusal :=
  let jb := s.job j
  if s.jobs.has j ∧ jb.runs ∧ jb.gate = .open ∧ s.jobOver j then
    .next ((s.drainJob j).updJob j fun jb => { jb with phase := .ending })
  else .refused (.notEnabled "JOB_END")

/-- JOB_END_RECORD (R393, R446). -/
def execJobEndRecord (j : Nat) (s : State) : Host.Outcome State Fault Refusal :=
  let jb := s.job j
  eventIf (s.jobs.has j && jb.phase == .ending) "JOB_END_RECORD" (s.endJob j 0 0 jb.late)

end Sys2Proof.Machine
end

