-- ==== Sys2Proof/Machine/Context.lean ====
section
/-! DEFINITION. Contexts: pre-emption and its image (R96, R223 to R225, R359), restore (R226, R227, R397, R447), kill
(R228), the watchdog and its report (R229, R230), and the commands of FE_JCMD (R386, R393, R441). -/

namespace Sys2Proof.Machine

/-! ## What pre-emption waits for (R223, steps 1 to 4) -/

/-- The cores of a context: a job's, or those of it on one die (R359). -/
def contextCores (jb : Job) (die : Option Nat) : List Nat :=
  match die with
  | none => jb.cores
  | some d => jb.cores.filter fun c => dieOf c == d

/-- Slots of a context, with their keys. -/
def State.contextSlots (s : State) (j : Nat) (cs : List Nat) : FMap Warp :=
  s.slots.keep fun key w => w.st != .free && w.id.job == j && decide (key / 128 ∈ cs)

/-- Are a line's owners all stopped: commands of cores whose jobs are being pre-empted, or of an image? -/
def State.ownersStopped (s : State) (line : Nat) : Bool :=
  (s.owned.getD line []).all fun k =>
    if k < 2 ^ 14 then
      match (s.core (k / 16)).occ with
      | some j => (s.job j).stop.isSome || (s.job j).dieStop == some (dieOf (k / 16))
      | none => true
    else (k - 2 ^ 14) % 4 == 3

/-- Does an accepted intent wait for engine commands that are themselves stopped, so that it is saved with them (R122, R223)? -/
def State.intentStuck (s : State) (key : Nat) (w : Warp) : Bool :=
  match w.cap with
  | none => false
  | some cp =>
    let held := fun (va : Nat) => match s.translate (key / 128) w.id.part false .write va with
      | .ok place _ _ => s.owned.has (lineOf place) && s.ownersStopped (lineOf place)
      | .fault _ => false
    held cp.record.toNat ||
    match s.translate (key / 128) w.id.part false .atomic cp.record.toNat with
    | .ok place _ _ => let r := s.readRec place; r.ival && held r.iaddr
    | .fault _ => false

/-- Is every issued instruction of a warp complete, or kept by an outstanding fault or by the warp's sleep in it; and is an
ordering instruction's reply there (R223)? -/
def State.warpQuiet (s : State) (key : Nat) (w : Warp) : Bool :=
  (w.log.all fun e => match e.op with
    | .mma _ _ _ _ => true
    | _ => w.sleepsIn == some e || (!e.hostWait && (s.complete (key / 128) (key % 128) e false).isNone)) &&
  w.fdsq.isEmpty &&
  let stalled := w.cap.any fun cp => !cp.pages.isEmpty
  match w.wait with
  | .commit _ ok => stalled || (ok && s.intentStuck key w)
  | .contend ph _ _ _ _ => ph == 6 && (stalled || s.intentStuck key w)
  | _ => true

/-- Have steps 2 and 4 of R223 come to their end: instructions without a fault, NMV commands, and the chunks in flight? -/
def State.contextQuiet (s : State) (j : Nat) (cs : List Nat) : Bool :=
  ((s.contextSlots j cs).all fun p => s.warpQuiet p.1 p.2) &&
  cs.all fun c => (s.core c).cmds.all fun p =>
    !p.2.pages.isEmpty || (p.2.part == 0 && (!p.2.ready || p.2.kind.val != 6))

/-! ## Saving -/

/-- Requests of pages that are to enter the filters anew (R227). -/
def unfile : List PageReq → List FaultPage → PagesOut :=
  fun qs fs => { left := qs.map fun q => { q with filed := false }, fs := fs }

/-- A warp as its context is saved, with its state and what it waits for (R28, R44, R224): an armed watch is lost, one that has fired
stays so (R169, R223; log 42), its capsule remembers its identity (R180, R227). -/
def State.savedWarp (s : State) (key : Nat) (w : Warp) : Warp :=
  let me := s.identity (key / 128) (key % 128) w.gen
  let w := (w.mapPages unfile []).1
  { w with watch := w.watch.map fun (x : Watch) => { x with st := if x.st = .fired then .fired else .lost }
           cap := w.cap.map fun (x : Capsule) => { x with rebind := some (x.rebind.getD me) } }

/-- Each MMA in flight completes, or is recorded to issue again (R223, step 3). -/
def State.stopMmas : List MmaEntry → State → List MmaEntry × State
  | [], s => ([], s)
  | e :: es, s =>
    let (again, s) := s.takeBit
    if again then
      let (r, s) := s.stopMmas es
      ({ e with passed := false } :: r, s)
    else (s.finishMma e).stopMmas es

/-- The MMAs of some cores leave their tables. -/
def State.takeMmas (s : State) (cs : List Nat) : List MmaEntry × State :=
  let all := (s.mma.flatMap fun p => p.2).filter fun e => decide (e.core ∈ cs)
  { s with mma := s.mma.mapV fun _ es => es.filter fun e => !decide (e.core ∈ cs) }.stopMmas all

/-- An outstanding probe is answered: a granted entry enters the thief's saved bobbin (R96). -/
def State.answerProbe (s : State) (c : Nat) : State :=
  match (s.core c).steal with
  | none => s
  | some y => s.stealReply c y (y.reply.getD none)

/-- A core as its context is saved. -/
def savedCore (x : Core) : Core :=
  { x with l1 := {}, sweep := none, idleAt := none, sweepAt := 0, monitor := [], dying := []
           bob := (pagesTasks unfile x.bob []).1, cmds := (pagesCmds unfile x.cmds []).1 }

/-- Destination lines as a context leaves its cores: those in its cores' scratchpads are in the image; the others stay owned
under the image's own numbers until its commands have written them (R122). -/
def parkOwned (part num : Nat) (cs : List Nat) (m : FMap (List Nat)) : FMap (List Nat) :=
  ((m.keep fun l _ => !(isCorePlace l && decide (coreOfPlace l ∈ cs))).mapV fun _ ids =>
    ids.map fun k => if k < 2 ^ 14 ∧ k / 16 ∈ cs then parkedKey part num k else k)

/-- The lines that an image's commands own are free of them. -/
def unpark (part num : Nat) (m : FMap (List Nat)) : FMap (List Nat) :=
  let mine := fun k => decide (2 ^ 14 ≤ k) && (k - 2 ^ 14) % 4 == 3 && (k - 2 ^ 14) / 2 ^ 15 == part + 8 * num
  (m.mapV fun _ ids => ids.filter fun k => !mine k).keep fun _ ids => !ids.isEmpty

/-- Is a place in the scratchpads of a context: its cores', and its partition's die-scratchpad shares on its dies (R224)? -/
def inContext (n : Nat) (p : Partition) (cs : List Nat) (dies : List Nat) (a : Nat) : Bool :=
  (isCorePlace a && decide (coreOfPlace a ∈ cs)) || (dieShareHas n p.dsp a && decide ((a - 2 ^ 60) / 2 ^ 25 % 4 ∈ dies))

/-- The context as its image holds it. -/
def State.context (s : State) (j : Nat) (die : Option Nat) (num reason : Nat) (cs : List Nat) (mma : List MmaEntry) :
    SavedCtx :=
  let jb := s.job j
  let here := inContext jb.part (s.part jb.part) cs (cs.map dieOf)
  { part := jb.part, num := num, reason := reason, job := j, die := die, jb := jb, used := cs
    slots := (s.contextSlots j cs).mapV s.savedWarp
    cores := (s.cores.keep fun c _ => decide (c ∈ cs)).mapV fun _ x => savedCore x
    mem := s.mem.keep fun a _ => here a, lineFull := s.lineFull.keep fun a _ => here a
    poison := s.poison.keep fun a _ => here a, mma := mma }

/-! ## The image (R224, R225) -/

/-- The key of a partition's images (R225, R411). -/
def Partition.imageKey (p : Partition) : List Byte := bytesOf 32 p.ikey.toNat

/-- The tag of a block (R225). -/
def blockTag (key block : List Byte) (off num : Nat) : List Byte :=
  (hmacSha256 key (block ++ bytesOf 8 off ++ bytesOf 8 num)).take 8

/-- Body block i. -/
def blockAt (bs : List Byte) (i : Nat) : List Byte := (bs.drop (4096 * i)).take 4096

/-- A string of bytes in n bytes, zeros behind it. -/
def padTo (n : Nat) (bs : List Byte) : List Byte := bs ++ List.replicate (n - bs.length) 0

/-- An image header before its tag (R224); `offs` are the offsets of the four parts. -/
def imageHeader (jb : Job) (reason num size tick tai : Nat) (offs : List Nat) (cs : List Nat) : List Byte :=
  let dies := (List.range 4).filter fun d => cs.any fun c => dieOf c == d
  padTo 4096 (bytesOf 4 0x49435A47 ++ bytesOf 2 1 ++ bytesOf 2 reason ++ bytesOf 8 num ++ bytesOf 4 0 ++ bytesOf 4 0 ++
    bytesOf 8 tick ++ bytesOf 8 tai ++ bytesOf 8 size ++ bytesOf 8 4096 ++ (offs.flatMap (bytesOf 8)) ++ bytesOf 8 0 ++
    bytesOf 1 ((dies.map fun d => 2 ^ d).sum) ++ bytesOf 31 0 ++ bytesOf 64 ((cs.map fun c => 2 ^ c).sum) ++
    bytesOf 320 0 ++ jb.raw)

/-- Bytes a to a + n of a string, replaced. -/
def splice (bs : List Byte) (a : Nat) (x : List Byte) : List Byte := bs.take a ++ x ++ bs.drop (a + x.length)

/-- The whole image, STATE as SAVED. The spec gives the parts' content and no offsets in them: the body's bytes and the
parts' offsets are free (R224). -/
def imageOf (key header body : List Byte) (num : Nat) : List Byte :=
  let n := body.length / 4096
  let t := (n + 511) / 512
  let tags := (List.range n).flatMap fun i => blockTag key (blockAt body i) (4096 * (1 + t + i)) num
  let h := splice header 88 (blockTag key header 0 num)
  splice h 16 (bytesOf 4 1) ++ padTo (4096 * t) tags ++ body

/-- Makes the image of a context. -/
def State.makeImage (s : State) (ctx : SavedCtx) : List Byte × State :=
  let p := s.part ctx.part
  let n := Config.imageBlocks ctx.used.length
  let body := Config.freeBytes s.freeIdx (4096 * n)
  let offs := (List.range 4).map fun i => Config.freeNat (s.freeIdx + 1 + i)
  let h := imageHeader ctx.jb ctx.reason ctx.num (imageBytes ctx.used.length) s.tick (s.tai / 2 ^ 16) offs ctx.used
  (imageOf p.imageKey h body ctx.num, { s with freeIdx := s.freeIdx + 5 })

/-! ## The report (R230) -/

/-- The image's lines that an engine owns, but for the context's own commands, which have stopped (R122). -/
def State.imageHeld (s : State) (j : Nat) (die : Option Nat) : Bool :=
  let jb := s.job j
  let cs := contextCores jb die
  let z := s.feSpan jb.part .write (BitVec.ofNat 64 jb.r.image) (imageBytes cs.length)
  z.faults.isEmpty && z.segs.any fun p =>
    (s.owned.getD (lineOf p.1) []).any fun k => !(decide (k < 2 ^ 14) && decide (k / 16 ∈ cs))

/-- The image is written at its address; none of it when a page of it does not translate (log 17). -/
def State.writeImage (s : State) (jb : Job) (bytes : List Byte) : State :=
  let z := s.feSpan jb.part .write (BitVec.ofNat 64 jb.r.image) bytes.length
  if z.faults.isEmpty then s.feWrites z.segs bytes else s

/-- Barriers of a context with OVF set or bytes missing. -/
def stuckBarriers (ctx : SavedCtx) : Nat :=
  let bad := fun (x : Barrier) => x.ovf || decide (x.barr < x.bexp)
  let n := fun (m : FMap Barrier) => (m.filter fun p => bad p.2).length
  (ctx.cores.map fun p => n p.2.bars).sum + n ctx.jb.cbars + n ctx.jb.gbars

/-- The report's 64 bytes. R230 does not say whether handler warps count among the warps of a state: they do not here, since HELD
warps stand for them (DESIGN CHOICE: log 117). -/
def State.reportBytes (s : State) (ctx : SavedCtx) (info : W64) : List Byte :=
  let count := fun (t : SlotState) => (ctx.slots.filter fun p => p.2.st == t && !p.2.id.handler).length
  let tasks := (ctx.slots.filter fun p => p.2.task.isSome).length + (ctx.cores.map fun p => p.2.depth).sum
  let dog := ctx.reason = 1
  bytesOf 2 ctx.reason ++ bytesOf 1 ctx.part ++ bytesOf 1 0 ++ bytesOf 4 ctx.jb.num ++ bytesOf 8 s.tick ++
  bytesOf 8 (s.tai / 2 ^ 16) ++ bytesOf 8 ctx.jb.r.image ++ bytesOf 4 (count .active) ++ bytesOf 4 (count .asleep) ++
  bytesOf 4 (count .held) ++ bytesOf 4 tasks ++ bytesOf 8 (if dog then ctx.jb.pulse else info.toNat) ++
  bytesOf 8 (if dog then stuckBarriers ctx else 0)

/-- The report is sent, for the reasons that write one; HM_WDOG counts it (R230, R386, R434). A command that waits for the job's
end ends after it (R441). -/
def State.sendReport (s : State) (ctx : SavedCtx) (info : W64) : State :=
  if ctx.reason = 5 then s
  else
    let hm := s.hm
    { s with hm := { hm with wdog := satAdd hm.wdog 1 } }.feStart
      { part := ctx.part, q := ctx.jb.pk.q, idx := ctx.jb.pk.idx, steps := [.report (s.reportBytes ctx info)]
        tells := some ctx.job }

/-! ## Pre-emption -/

/-- The cores of a saved context are free; its slots are FREE and keep their generations. -/
def State.clearContext (s : State) (j num : Nat) (cs : List Nat) : State :=
  let s := { s with
    slots := s.slots.mapV fun key (w : Warp) =>
      if w.id.job = j ∧ key / 128 ∈ cs ∧ w.st ≠ SlotState.free then { gen := w.gen } else w
    owned := parkOwned (s.job j).part num cs s.owned }
  let s := cs.foldl (fun s c =>
    let x := s.core c
    if x.occ = some j then
      s.setCore c { x with occ := none, places := 0, bob := [], ring := [], monitor := [], steal := none, sweep := none
                           idleAt := none, sweepAt := 0, bars := [], pend := [], cmds := [], dying := []
                           l1 := { x.l1 with const := [] } }
    else s) s
  s.updJob j fun jb => { jb with cores := jb.cores.filter fun c => !decide (c ∈ cs) }

/-- A core's commands that SHCAN has stopped end CANCELLED (R44). -/
def State.endCancelled (s : State) (c : Nat) : State :=
  (s.core c).cmds.foldl (fun s p => if p.2.cancel then s.endCmd c p.1 p.2 4 else s) s

/-- Each active capsule of some warps sends its notice of departure (R177). -/
def State.departAll (s : State) (ws : FMap Warp) : State :=
  ws.foldl (fun s p => match p.2.cap with | some cp => s.depart (p.1 / 128) p.2.id.part cp.record | none => s) s

/-- Steps 3 to 6 of R223. -/
def State.saveContext (s : State) (j : Nat) (die : Option Nat) (reason : Nat) (info : W64) : State :=
  let jb := s.job j
  let cs := contextCores jb die
  let s := cs.foldl State.answerProbe s
  let (mma, s) := s.takeMmas cs
  let s := cs.foldl (fun s c => ((s.farFlush c fun _ => true).endCancelled c).drain c) s
  let s := s.departAll (s.contextSlots j cs)
  let p := s.part jb.part
  let num := p.imgNum + 1
  let s := s.setPart jb.part { p with imgNum := num }
  let ctx := s.context j die num reason cs mma
  let (bytes, s) := s.makeImage ctx
  let s := s.writeImage jb bytes
  let s := { s with saves := s.saves ++ [{ ctx with bytes := bytes, away := ctx.die.isSome }] }.clearContext j num cs
  match die with
  | some d =>
    (s.updJob j fun jb => { jb with dieStop := none, unst := jb.unst.del d, past := cs.foldl addNew jb.past }).endCommand
      jb.part j fun _ => 0
  | none =>
    let s := s.clocksBack jb
    let s := (s.sendReport ctx info).updJob j fun jb => { jb with phase := .saved, stop := none, dieStop := none }
    let s := if reason = 5 then s.endCommand jb.part j fun op => if op = 1 then 0 else 1 else s
    s.endPacket jb.part jb.pk 3 reason jb.r.image

/-- May steps 3 to 6 of R223 be taken: the context is quiet, and no engine has still to write where the image lies? -/
def State.mayPreempt (s : State) (j : Nat) (die : Option Nat) : Bool :=
  s.contextQuiet j (contextCores (s.job j) die) && !s.imageHeld j die

/-- PREEMPTION_COMPLETE: the image is written and the slots are free. -/
def execPreemptionComplete (j : Nat) (s : State) : Host.Outcome State Fault Refusal :=
  let jb := s.job j
  if s.jobs.has j ∧ jb.phase = .running then
    match jb.stop, jb.dieStop with
    | some x, _ =>
      eventIf (s.mayPreempt j none) "PREEMPTION_COMPLETE" (s.saveContext j none x.reason x.info)
    | none, some d =>
      eventIf (s.mayPreempt j (some d)) "PREEMPTION_COMPLETE" (s.saveContext j (some d) 5 0)
    | none, none => .refused (.notEnabled "PREEMPTION_COMPLETE")
  else .refused (.notEnabled "PREEMPTION_COMPLETE")

/-- WATCHDOG_EXPIRY (R229, R230). -/
def execWatchdogExpiry (j : Nat) (s : State) : Host.Outcome State Fault Refusal :=
  let jb := s.job j
  eventIf (s.jobs.has j && jb.runs && jb.gate == .open && decide (jb.pulse + jb.r.wdog ≤ s.tick)) "WATCHDOG_EXPIRY"
    (s.stopJob j { reason := 1, info := BitVec.ofNat 64 jb.pulse })

/-! ## Kill (R228) -/

/-- A task that is not DONE becomes DONE with KILLED (R59, R228). -/
def State.killEntry (j c : Nat) (s : State) (e : TaskEntry) : State :=
  if e.nofut then s
  else
    s.deviceFill (s.job j).part j c (BitVec.ofNat 64 e.fut) 0 FS_KILLED (some (BitVec.ofNat 64 e.word)) 0

/-- The tasks of a core, in its bobbin, its ring, and in a steal reply under way. -/
def Core.allTasks (x : Core) : List TaskEntry :=
  x.bob ++ x.ring ++ (match x.steal with | some y => (y.reply.getD none).toList | none => [])

/-- A warp is killed with its context: its capsule sends a notice of departure marked as a kill, its task is DONE and owns no
lines. -/
def State.killWarp (j : Nat) (s : State) (p : Nat × Warp) : State :=
  let c := p.1 / 128
  let w := p.2
  let s := match w.cap with
    | some cp =>
      let me := cp.rebind.getD (s.identity c (p.1 % 128) w.gen)
      let s := s.depart c w.id.part cp.record
      { s with kills := s.kills ++ [{ part := w.id.part, job := j, va := cp.record.toNat, ident := me, core := c }] }
    | none => s
  match w.task with
  | some t => (s.own (wbKey t.e.key) []).killEntry j c t.e
  | none => s

/-- A slot's warp is killed with its context, and the slot is FREE. -/
def State.killSlot (j : Nat) (s : State) (p : Nat × Warp) : State :=
  let s := s.killWarp j p
  { s with slots := s.slots.ins p.1 { gen := p.2.gen } }

/-- Tasks of a core are killed with their context; what they staged owns no lines. -/
def State.killTasks (j c : Nat) (s : State) (es : List TaskEntry) : State :=
  es.foldl (fun s e => (s.own (stageKey e.key) []).killEntry j c e) s

/-- The images of a job that hold what has not come back: its warps, tasks and commands are killed too. -/
def State.killImages (s : State) (j : Nat) (f : SavedCtx → Bool) : State :=
  (s.saves.filter fun x => x.job == j && f x).foldl (fun s x =>
    let s := x.slots.foldl (State.killWarp j) s
    let s := x.cores.foldl (fun s p => s.killTasks j p.1 p.2.allTasks) s
    { s with owned := unpark x.part x.num s.owned }) s

/-- A command that is stopped moves the rest of the chunk in flight, as far as no page and no owner of its lines holds it back. -/
def State.finishChunk (c e : Nat) : Nat → State → State
  | 0, s => s
  | n + 1, s =>
    match (s.core c).cmds.look e with
    | none => s
    | some x =>
      if x.part = 0 || !x.pages.isEmpty || x.dead then s
      else
        match s.stepCmd c e x with
        | some t => t.finishChunk c e n
        | none => s

/-- A killed command stops at its next chunk boundary (R228): a chunk has at most 4,096 parts. -/
def State.killCmd (c : Nat) (s : State) (e : Nat) : State :=
  let s := s.finishChunk c e 4096
  match (s.core c).cmds.look e with
  | some x => s.endCmd c e x 4
  | none => s

/-- Every step of killing a context. Its cores are drained before the end is recorded (R446). -/
def State.killJob (s : State) (j : Nat) : State :=
  let jb := s.job j
  let cs := jb.cores.filter fun c => (s.core c).occ == some j
  let s := cs.foldl (fun s c => (s.core c).cmds.keys.foldl (State.killCmd c) (s.farFlush c fun _ => true)) s
  let s := { s with mma := s.mma.mapV fun _ es => es.filter fun e => (s.warp e.core e.slot).id.job != j }
  let s := (s.contextSlots j jb.cores).foldl (State.killSlot j) s
  let s := cs.foldl (fun s c => s.killTasks j c (s.core c).allTasks) s
  let s := (s.killImages j fun x => x.away).drainJob j
  { s with ranges := s.ranges.filter fun r => r.job != j }.endJob j 2 0 0

/-- The context of a SAVED job is killed: its latest image holds it (R96, R226, R228). -/
def State.killSaved (s : State) (j : Nat) : State :=
  let jb := s.job j
  let last := (s.saves.filter fun x => x.job == j).foldl (fun n x => max n x.num) 0
  let s := s.killImages j fun x => x.num == last
  { s with ranges := s.ranges.filter fun r => r.job != j, kills := s.kills ++ jb.orphanNotices j, jobs := s.jobs.del j }

/-! ## FE_JCMD (R386, R393, R441) -/

/-- The running job that a number names. -/
def State.jobNumbered (s : State) (part : Nat) (num : Nat) (phase : JobPhase) : Option Nat :=
  (s.jobs.find? fun p => p.2.part == part && p.2.num == num && p.2.phase == phase).map Prod.fst

/-- A write of FE_JCMD: discarded while the front end is not running or a command is in progress. -/
def State.jobCommand (s : State) (part op num die : Nat) (run : State → State) : State :=
  let p := s.part part
  if !s.feReady || s.feLost || p.jbusy then s
  else run (s.setPart part { p with jcmd := BitVec.ofNat 37 (num % 2 ^ 32 + 2 ^ 32 * op + 2 ^ 35 * die), jres := 1 })

/-- The command has ended with a result. -/
def State.commandRes (s : State) (part res : Nat) : State :=
  s.setPart part { s.part part with jbusy := false, jres := BitVec.ofNat 2 res }

/-- The command waits for a job. -/
def State.commandWaits (s : State) (part j : Nat) : State :=
  s.setPart part { s.part part with jbusy := true, jres := 3, jwait := j }

/-- FE_JCMD OP 1, which uses no DIE. -/
def State.cmdPreempt (s : State) (part job die : Nat) : State :=
  s.jobCommand part 1 job die fun s =>
    match s.jobNumbered part job .running with
    | none => s.commandRes part 1
    | some j => (s.stopJob j { reason := 5 }).commandWaits part j

/-- FE_JCMD OP 2, refused for a job with a grid barrier or task slots (R359). -/
def State.cmdPreemptDie (s : State) (part job die : Nat) : State :=
  s.jobCommand part 2 job die fun s =>
    match s.jobNumbered part job .running with
    | none => s.commandRes part 1
    | some j =>
      let jb := s.job j
      if (jb.r.gridMasks.any fun m => m != 0) || jb.r.taskSlots != 0 then s.commandRes part 2
      else if jb.stop.isSome then s.commandWaits part j
      else (s.updJob j fun jb => { jb with dieStop := some die }).commandWaits part j

/-- FE_JCMD OP 3, which uses no DIE. A SAVED job has ended, and what its image holds is killed (R96, R226). -/
def State.cmdKill (s : State) (part job die : Nat) : State :=
  s.jobCommand part 3 job die fun s =>
    match s.jobNumbered part job .running, s.jobNumbered part job .saved with
    | some j, _ => if ((s.job j).stop).isSome then s.commandWaits part j else (s.killJob j).commandRes part 0
    | none, some j => (s.killSaved j).commandRes part 1
    | none, none => s.commandRes part 1

def execJobPreempt (part : PartId) (job : BitVec 32) (s : State) : Host.Outcome State Fault Refusal :=
  .next (s.cmdPreempt part.val job.toNat 0)

def execJobPreemptDie (part : PartId) (job : BitVec 32) (d : DieId) (s : State) : Host.Outcome State Fault Refusal :=
  .next (s.cmdPreemptDie part.val job.toNat d.val)

def execJobKill (part : PartId) (job : BitVec 32) (s : State) : Host.Outcome State Fault Refusal :=
  .next (s.cmdKill part.val job.toNat 0)

/-! ## Restore: the check (R226, R397) -/

/-- What the parts of an image's body hold, as its hardware lays them out: nothing is known of it (R224). -/
opaque Config.imageContext : List Byte → SavedCtx

/-- How the check of an image ends. -/
inductive ImageCheck where
  | wait (qs : List PageReq)
  | ends (code reason detail : Nat)
  | ok (ctx : SavedCtx)

/-- Is a word of some image bytes poisoned? -/
def State.feBad (s : State) (part : Nat) (addr : W64) (n : Nat) : Bool :=
  (s.feSpan part .read addr n).segs.any fun p => s.poisoned p.1 p.2

/-- Clusters that hold some cores, ascending. -/
def clustersOf (cs : List Nat) : List Nat := (List.range 128).filter fun k => cs.any fun c => c / 4 == k

/-- The clusters of a partition on which a context may be placed, ascending. -/
def State.homeClusters (s : State) (ctx : SavedCtx) : List Nat :=
  (List.range 128).filter fun k => (s.part ctx.part).clus.getLsbD k &&
    match ctx.die with | some d => k / 32 == d | none => true

/-- The context that an image holds which this machine has no record of writing: its tags are right, so it was written under the
partition's key by the same hardware. The spec gives no offsets in its parts (R224), so what they hold is free; its header is as it
reads (DESIGN CHOICE: log 56). -/
def State.foreignContext (s : State) (part : Nat) (bs : List Byte) : SavedCtx :=
  let x := Config.imageContext bs
  let used := (List.range 512).filter fun c => (descNat bs 128 64).testBit c
  let cores := x.cores.keep fun c _ => decide (c ∈ used)
  let raw := (bs.drop 512).take 512
  { x with
    part := part, num := descNat bs 8 8, reason := descNat bs 6 2, job := s.nextJob, die := none, used := used, bytes := bs, away := false
    cores := cores, slots := x.slots.keep fun key _ => decide (key / 128 ∈ used)
    mma := x.mma.filter fun e => decide (e.core ∈ used)
    mem := x.mem.keep fun a _ => inContext part (s.part part) used (used.map dieOf) a
    lineFull := x.lineFull.keep fun a _ => inContext part (s.part part) used (used.map dieOf) a
    poison := [], jb := { x.jb with part := part, raw := raw, r := jobRecOf raw, cores := used, orphans := [] } }

/-- The saved context that some image bytes restore: STATE apart, the bytes of an image that this machine wrote. -/
def State.imageContext (s : State) (part : Nat) (bs : List Byte) : SavedCtx :=
  (s.saves.find? fun c => c.part == part && splice c.bytes 16 (bytesOf 4 0) == splice bs 16 (bytesOf 4 0)).getD
    (s.foreignContext part bs)

/-- Does the job that a die form left still run (R447)? -/
def State.rejoins (s : State) (ctx : SavedCtx) : Bool :=
  ctx.die.isNone || (s.jobs.has ctx.job && (s.job ctx.job).phase == .running)

/-- The check of R226 on the image's bytes; `lost`: the blocks that could not be read, which fail like uncorrectable ones. -/
def State.checkBytes (s : State) (part : Nat) (addr : W64) (bs : List Byte) (lost : Nat → Bool) : ImageCheck :=
  let num := descNat bs 8 8
  let key := (s.part part).imageKey
  let n := bs.length / 4096
  let t := (n - 1 + 512) / 513
  let bad := fun i => lost i || s.feBad part (addr + BitVec.ofNat 64 (4096 * i)) 4096 ||
    (decide (t < i) && (bs.drop (4096 + 8 * (i - 1 - t))).take 8 != blockTag key (blockAt bs i) (4096 * i) num)
  match ((List.range (n - 1)).map (· + 1)).find? bad with
  | some i => .ends 4 0 (4096 * i)
  | none =>
    let ctx := s.imageContext part bs
    if (s.homeClusters ctx).length < (clustersOf ctx.used).length || !s.rejoins ctx then .ends 5 0 0 else .ok ctx

/-- Reads and checks an image: header, then STATE, then every block, once no page of it is awaited any more (R226, R397). -/
def State.checkImage (s : State) (part q : Nat) (addr : W64) : ImageCheck :=
  match s.feRead part q addr 4096 with
  | .wait qs => .wait qs
  | .dead => .ends 4 0 0
  | .bytes h _ =>
    let key := (s.part part).imageKey
    let num := descNat h 8 8
    let size := descNat h 40 8
    let bare := splice (splice h 16 (bytesOf 4 0)) 88 (bytesOf 8 0)
    let st := descNat h 16 4
    if s.feBad part addr 4096 || descNat h 0 4 != 0x49435A47 || descNat h 4 2 != 1 ||
        (h.drop 88).take 8 != blockTag key bare 0 num || (st != 1 && st != 2) then .ends 4 0 0
    else if descNat h 527 1 ≠ part then .ends 1 7 15
    else if st = 2 then .ends 5 0 0
    else
      let z := s.feSpan part .read addr size
      let lost := fun i => z.faults.any fun q => q.page == (addrOf addr + 4096 * i) / 4096
      match z.faults.filter fun f => !(s.queue part q).lost f with
      | f :: fs => .wait (f :: fs)
      | [] =>
        if s.feHeld z.segs then .wait []
        else
          let block := fun i => match s.feRead part q (addr + BitVec.ofNat 64 (4096 * i)) 4096 with
            | .bytes bs _ => bs
            | _ => List.replicate 4096 0
          s.checkBytes part addr ((List.range (size / 4096)).flatMap block) lost

/-! ## Restore: place -/

/-- Is a cluster free for a context (R226)? -/
def State.clusterFree (s : State) (ctx : SavedCtx) (k : Nat) : Bool :=
  (List.range 4).all fun i =>
    let c := 4 * k + i
    !s.coreTaken (if ctx.die.isSome then ctx.job else s.nextJob) c &&
    !s.slots.any fun p => p.1 / 128 == c && p.2.st != .free

/-- The saved clusters mapped to free ones in ascending order; none while too few are free. -/
def State.mapClusters (s : State) (ctx : SavedCtx) : Option (List (Nat × Nat)) :=
  let want := clustersOf ctx.used
  let free := (s.homeClusters ctx).filter (s.clusterFree ctx)
  if free.length < want.length then none else some (want.zip free)

/-- The job no longer awaits the warps of some die forms (R447). -/
def State.comeBack (s : State) (f : SavedCtx → Bool) : State :=
  { s with saves := s.saves.map fun c => if f c then { c with away := false } else c }

/-- The die form that an image at an address was written as: its job goes on without it when the restore is abandoned. -/
def State.giveUp (s : State) (part : Nat) (addr : W64) : State :=
  s.comeBack fun c => c.part == part && c.jb.r.image == addr.toNat

/-- A restore is abandoned: its packet ends (R226). -/
def State.abandon (s : State) (r : Restore) (code reason detail : Nat) : State :=
  ({ s with restores := s.restores.filter (· != r) }.giveUp r.part r.addr).endPacket r.part r.pk code reason detail

/-- The oldest restore of a queue of which a test holds. -/
def State.restoreOf (s : State) (part q : Nat) (f : Restore → Bool) : Option Restore :=
  s.restores.find? fun r => r.part == part && r.pk.q == q && f r

/-- RESTORE_PLACE (R226). -/
def execRestorePlace (part : PartId) (q : QueueNo) (s : State) : Host.Outcome State Fault Refusal :=
  match s.restoreOf part.val q.val fun r => r.map.isNone with
  | none => .refused (.notEnabled "RESTORE_PLACE")
  | some r =>
    if !s.rejoins r.ctx then .next (s.abandon r 5 0 0)
    else
      match s.mapClusters r.ctx with
      | none => .refused (.notEnabled "RESTORE_PLACE")
      | some m =>
        .next { s with restores := s.restores.map fun y => if y = r then { y with map := some m } else y }

/-! ## Restore: resume (R227) -/

/-- A saved core's new place. -/
def newCore (m : List (Nat × Nat)) (c : Nat) : Nat :=
  4 * ((m.find? fun p => p.1 == c / 4).map Prod.snd |>.getD (c / 4)) + c % 4

/-- A scratchpad place after the move. -/
def newPlace (m : List (Nat × Nat)) (a : Nat) : Nat :=
  if isCorePlace a then scratchBase (newCore m ((a - 2 ^ 59) / 2 ^ 19)) + (a - 2 ^ 59) % 2 ^ 19 else a

/-- A cluster-barrier key after the move. -/
def newBarKey (m : List (Nat × Nat)) (key : Nat) : Nat := 16 * (newCore m (4 * (key / 16)) / 4) + key % 16

/-- A slot's new key. -/
def newSlot (m : List (Nat × Nat)) (key : Nat) : Nat := slotKey (newCore m (key / 128)) (key % 128)

/-- A barrier after the move: the warps that have arrived (R45). -/
def movedBar (m : List (Nat × Nat)) (x : Barrier) : Barrier := { x with arrs := x.arrs.map (newSlot m) }

def newBar (m : List (Nat × Nat)) (j : Nat) : BarRef → BarRef
  | .team c key => .team (newCore m c) key
  | .cluster _ k n => .cluster j (newCore m (4 * k) / 4) n
  | .grid _ n => .grid j n

/-- What a sleeper waits for after the move. -/
def newWait (m : List (Nat × Nat)) (j : Nat) : Wait → Wait
  | .barrier b h w ph => .barrier (newBar m j b) h w ph
  | .line l full seq => .line (newPlace m l) full seq
  | x => x

/-- The generation that a slot gets at the restore (R27, R227). -/
def State.newGen (s : State) (m : List (Nat × Nat)) (c k : Nat) : BitVec 21 := (s.warp (newCore m c) k).gen + 1

/-- An origin after the move. -/
def State.newOrigin (s : State) (m : List (Nat × Nat)) (c : Nat) (o : Origin) : Origin :=
  { o with sgen := s.newGen m c o.slot }

/-- A warp as it is loaded: one that slept in CENTER issues it again (R44, R327). -/
def State.loadedWarp (s : State) (m : List (Nat × Nat)) (j key : Nat) (w : Warp) : Warp :=
  let w := match w.wait with | .record _ _ => { w with st := .active, wait := .none } | _ => w
  { w with gen := s.newGen m (key / 128) (key % 128), id := { w.id with job := j }, wait := newWait m j w.wait
           origins := w.origins.mapV fun _ o => s.newOrigin m (key / 128) o
           watch := w.watch.map fun (x : Watch) => { x with line := newPlace m x.line } }

/-- A task as it is loaded: STAGING and READY ones stage again, with no new drain (R96). -/
def loadedTask (e : TaskEntry) : TaskEntry :=
  if e.st = .waiting then { e with seen := 0, order := if e.nrdy = 0 then e.order else none }
  else { e.stageAgain with drained := true }

/-- A command as it is loaded: marked missed with a new promise (R227); it takes its unwritten lines in hand anew (R122). -/
def State.loadedCmd (s : State) (m : List (Nat × Nat)) (j c : Nat) (x : Cmd) : Cmd :=
  { x with sgen := s.newGen m c x.slot, ident := { x.ident with job := j }, unheld := x.ready
           missed := some (laterTick (s.tick + 1) (Config.freeNat s.freeIdx)) }

/-- A core as it is loaded in the place of one. -/
def State.loadedCore (s : State) (m : List (Nat × Nat)) (j c : Nat) (old x : Core) : Core :=
  let bob := x.bob.map loadedTask
  { x with l1 := { old.l1 with clean := [], const := s.argLines (s.job j) }, occ := some j, bob := bob
           bars := x.bars.mapV fun _ b => movedBar m b
           monitor := (bob.flatMap TaskEntry.lines).foldl addNew [], pend := x.pend.map fun (o : PendingOrigin) =>
             { o with origin := s.newOrigin m c o.origin }
           cmds := x.cmds.mapV fun _ y => s.loadedCmd m j c y }

/-- A map's keys changed. -/
def reKey {α : Type} (f : Nat → Nat) (m : FMap α) : FMap α := m.foldl (fun (z : FMap α) p => z.ins (f p.1) p.2) []

/-- Adds the entries of one map to another, whose unlisted keys read as `d`. -/
def addAll {α : Type} [DecidableEq α] (d : α) (m : FMap α) (z : FMap α) : FMap α :=
  z.foldl (fun (m : FMap α) p => m.put d p.1 p.2) m

/-- Lists the entries of one map in another. -/
def listAll {α : Type} (m : FMap α) (z : FMap α) : FMap α := z.foldl (fun (m : FMap α) p => m.ins p.1 p.2) m

/-- The scratchpads hold what the image holds. -/
def State.loadMemory (s : State) (m : List (Nat × Nat)) (ctx : SavedCtx) : State :=
  let gone := inContext ctx.part (s.part ctx.part) (ctx.used.map (newCore m)) (ctx.used.map dieOf)
  { s with mem := addAll 0 (s.mem.keep fun a _ => !gone a) (reKey (newPlace m) ctx.mem)
           lineFull := addAll false (s.lineFull.keep fun a _ => !gone a) (reKey (newPlace m) ctx.lineFull)
           poison := addAll false (s.poison.keep fun a _ => !gone a) (reKey (newPlace m) ctx.poison)
           owned := unpark ctx.part ctx.num s.owned }

/-- The conditions that loaded sleepers wait for are tested again (R44). -/
def State.testAgain (s : State) (ws : FMap Warp) : State :=
  ws.foldl (fun s p => match p.2.wait with
    | .words ls => { s with touched := ls.foldl addNew s.touched }
    | .line l _ _ => { s with touchedBits := addNew s.touchedBits l }
    | _ => s) s

/-- Recorded MMAs issue again on their new clusters; cr.mxstat.RPL says so of a warp's latest one (R227, R350). -/
def State.loadMmas (s : State) (m : List (Nat × Nat)) (es : List MmaEntry) : State :=
  es.foldl (fun s e =>
    let c := newCore m e.core
    let w := s.warp c e.slot
    { s with mma := s.mma.ins (c / 4) (s.mmaTable (c / 4) ++ [{ e with core := c, sgen := w.gen }]) }.setWarp c e.slot
      { w with mxrpl := w.mxrpl || w.lastMma == some e.num }) s

/-- The job of a restored context: of a whole one the saved job under the packet's number, or a second one when the
image was resumed before (R397); of a die form the running job (R447). -/
def State.loadJob (s : State) (m : List (Nat × Nat)) (r : Restore) : Nat × State :=
  let ctx := r.ctx
  let cs := ctx.used.map (newCore m)
  if ctx.die.isSome then
    (ctx.job, s.updJob ctx.job fun jb =>
      let back := ctx.die.bind fun d => (ctx.jb.unst.look d).map fun x => (d, x)
      let unst := match back with | some (d, x) => jb.unst.ins d x | none => jb.unst
      { jb with cores := cs.foldl addNew jb.cores, cbars := (reKey (newBarKey m) jb.cbars).mapV fun _ b => movedBar m b
                unst := unst.mapV fun _ (x : DieTeams) => { x with asked := false } })
  else
    let (j, s) :=
      if s.jobs.has ctx.job ∧ (s.job ctx.job).phase = .saved then (ctx.job, s)
      else (s.nextJob, { s with nextJob := s.nextJob + 1 })
    let unst := ctx.jb.unst.mapV fun _ (x : DieTeams) => { x with asked := false }
    let jb := { ctx.jb with num := r.pk.q + 64 * (r.pk.idx % 2 ^ 26), phase := .running, gate := .open, pk := r.pk
                            late := r.late, cores := cs, past := [], unst := unst
                            cbars := (reKey (newBarKey m) ctx.jb.cbars).mapV fun _ b => movedBar m b
                            gbars := ctx.jb.gbars.mapV fun _ b => movedBar m b, pulse := s.tick, stop := none, dieStop := none }
    (j, { s with jobs := s.jobs.ins j jb })

/-- Every unit is loaded, and all resume at once (R226, R227). -/
def State.loadContext (s : State) (m : List (Nat × Nat)) (r : Restore) : State :=
  let ctx := r.ctx
  let (j, s) := s.loadJob m r
  let s := s.loadMemory m ctx
  let slots := (ctx.slots.mapV (s.loadedWarp m j)).map fun p => (newSlot m p.1, p.2)
  let cores := ctx.cores.map fun p => (newCore m p.1, s.loadedCore m j p.1 (s.core (newCore m p.1)) p.2)
  let s := { s with slots := listAll s.slots slots, cores := listAll s.cores cores, freeIdx := s.freeIdx + 1 }
  let s := ((s.loadMmas m ctx.mma).testAgain slots).updJob j fun jb => { jb with pulse := s.tick }
  if ctx.die.isSome then (s.comeBack fun c => c.part == ctx.part && c.num == ctx.num).endPacket r.part r.pk 0 0 0 else s

/-- A restore waits for pages of its STATE word. -/
def State.restoreWaits (s : State) (r : Restore) (qs : List PageReq) : State :=
  let (ps, s) := s.feFile r.part qs
  { s with restores := s.restores.map fun y => if y = r then { y with pages := ps } else y }

/-- RESTORE_RESUME: STATE := CONSUMED, and then the context runs again (R226, R397). A die form whose job has ended meanwhile is
abandoned (R447). The spec does not say what becomes of a restore whose STATE cannot be written: it is abandoned with IMAGE_CORRUPT, as
when the word cannot be read (DESIGN CHOICE: log 118). -/
def execRestoreResume (part : PartId) (q : QueueNo) (s : State) : Host.Outcome State Fault Refusal :=
  match s.restoreOf part.val q.val fun r => r.map.isSome && !r.held && r.pages.isEmpty with
  | none => .refused (.notEnabled "RESTORE_RESUME")
  | some r =>
    if !s.rejoins r.ctx then .next (s.abandon r 5 0 0)
    else if r.dead then .next (s.abandon r 4 0 0)
    else
      match s.feWrite part.val .write (r.addr + 16) (bytesOf 4 2) with
      | .done t => .next ({ t with restores := t.restores.filter (· != r) }.loadContext (r.map.getD []) r)
      | .wait [] => .refused (.notEnabled "RESTORE_RESUME")
      | .wait qs => .next (s.restoreWaits r qs)
      | .fail => .next (s.abandon r 4 0 0)

end Sys2Proof.Machine
end

