-- ==== Sys2Proof/Machine/Queue.lean ====
section
/-! DEFINITION. Queues and packets: queue registers (R385, R387), the forms of packets (R388, R389), their starts and
completions (R390 to R392, R394, R397, R402), timed launch (R401), look-ahead and slots (R398, R399). -/

namespace Sys2Proof.Machine

/-! ## Queue registers (R385, R387, R389) -/

/-- A write to a queue register: discarded while the front end is not running (R384). -/
def State.queueWrite (s : State) (f : State → State) : Host.Outcome State Fault Refusal :=
  .next (if s.feReady && !s.feLost then f s else s)

/-- A write of FE_QCTL; LOG2SZ outside 4 to 20 leaves EN 0. -/
def State.writeQctl (s : State) (part q : Nat) (v : W64) : State :=
  let l := bits v 0 5
  s.setQueue part q
    { s.queue part q with log2 := BitVec.ofNat 5 l, vec := BitVec.ofNat 6 (bits v 16 6)
                          en := v.getLsbD 8 && decide (4 ≤ l) && decide (l ≤ 20) }

/-- QUEUE_ENABLE: a write of FE_QCTL with EN set. -/
def execQueueEnable (part : PartId) (q : QueueNo) (v : BitVec 64) (s : State) : Host.Outcome State Fault Refusal :=
  s.queueWrite fun s => s.writeQctl part.val q.val (v ||| 0x100)

/-- QUEUE_DISABLE: FE_QCTL.EN is cleared. -/
def execQueueDisable (part : PartId) (q : QueueNo) (s : State) : Host.Outcome State Fault Refusal :=
  s.queueWrite fun s => s.setQueue part.val q.val { s.queue part.val q.val with en := false }

/-- A write of FE_QWIDX (R387). -/
def State.writeWidx (s : State) (part q : Nat) (n : BitVec 32) : State :=
  let x := s.queue part q
  if 2 ^ x.log2.toNat < (n - x.ridx).toNat then s.setQueue part q { x with kerr := true }
  else if 1 ≤ (n - x.widx).toNat ∧ (n - x.widx).toNat < 2 ^ 31 then s.setQueue part q { x with widx := n }
  else s

def execFeQwidxWrite (part : PartId) (q : QueueNo) (n : BitVec 32) (s : State) : Host.Outcome State Fault Refusal :=
  s.queueWrite fun s => s.writeWidx part.val q.val n

/-- A write of FE_QRIDX: while EN is 0 it sets both indices, and the queue is stopped no longer (R385, R389). A WAITW that has
started goes on; a TIMED packet has lost the packet that it was to release, and is no more (DEDUCED: log 114). -/
def State.writeRidx (s : State) (part q : Nat) (n : BitVec 32) : State :=
  let x := s.queue part q
  if x.en then s
  else
    let x := match x.timed with | some y => x.forget y.idx | none => x
    let x := if x.waitw.isSome then x else { x with pages := [], dead := [] }
    s.setQueue part q { x with ridx := n, widx := n, stopped := false, err := 0, timed := none, look := 0 }

def execFeQridxWrite (part : PartId) (q : QueueNo) (n : BitVec 32) (s : State) : Host.Outcome State Fault Refusal :=
  s.queueWrite fun s => s.writeRidx part.val q.val n

/-! ## Packets (R388) -/

/-- Are n bytes from an offset zero? -/
def zeroAt (p : List Byte) (o n : Nat) : Bool := descNat p o n == 0

/-- Is the address field at an offset malformed: bits 62:57, or an alignment? -/
def badAddr (p : List Byte) (o k : Nat) : Bool :=
  let a := descNat p o 8
  a / 2 ^ 57 % 2 ^ 6 != 0 || a % k != 0

/-- Completion fields, or a signal, malformed: OP above 3, or a word that is not aligned. -/
def badSignal (p : List Byte) (addr op : Nat) : Bool :=
  decide (3 < descNat p op 1) || badAddr p addr (if descNat p op 1 = 0 then 1 else 8)

def badCompletion (p : List Byte) : Bool := badSignal p 32 48 || !zeroAt p 49 7 || badAddr p 56 32

/-- BAD_PACKET of one packet (R388, R389). -/
def badPacket (p : List Byte) : Bool :=
  decide (1 < descNat p 1 1) || !zeroAt p 2 2 ||
  match descNat p 0 1 with
  | 1 =>
    let n := descNat p 24 4
    badAddr p 8 64 || badAddr p 16 1 || decide (4096 < n) || n % 8 != 0 || !zeroAt p 28 4 || badCompletion p
  | 2 => badAddr p 8 4096 || !zeroAt p 16 16 || badCompletion p
  | 3 =>
    badAddr p 8 8 || (descNat p 8 8).testBit 63 || decide (2 < descNat p 24 1) || !zeroAt p 25 7 || !zeroAt p 40 24
  | 4 => badSignal p 8 24 || !zeroAt p 25 39
  | 5 =>
    let n := descNat p 24 8
    badAddr p 8 4 || badAddr p 16 4 || decide (n < 4) || decide (2 ^ 40 < n) || n % 4 != 0 || badCompletion p
  | 6 => decide (1 < descNat p 18 1) || !zeroAt p 19 45
  | 7 => !zeroAt p 8 56
  | 8 => badAddr p 8 32 || !zeroAt p 16 48
  | _ => true

/-- INTR and the completion fields of a packet. -/
def pktOf (q idx : Nat) (p : List Byte) : Pkt :=
  { q := q, idx := idx, tag := descNat p 4 4, intr := (descNat p 1 1).testBit 0, sig := BitVec.ofNat 64 (descNat p 32 8)
    sigVal := BitVec.ofNat 64 (descNat p 40 8), sigOp := descNat p 48 1, stat := BitVec.ofNat 64 (descNat p 56 8) }

/-- Reads the packet at RIDX. -/
def State.headPacket (s : State) (part q : Nat) : FeRead :=
  let x := s.queue part q
  s.feRead part q (x.base + BitVec.ofNat 64 (64 * (x.ridx.toNat % 2 ^ x.log2.toNat))) 64

/-- May a packet of the queue that has started go on: the front end running, its partition enabled, no page awaited? -/
def State.packetLives (s : State) (part q : Nat) : Bool :=
  s.feReady && !s.feLost && (s.part part).en && (s.queue part q).pages.isEmpty

/-- May the queue go on with its packets: enabled and not stopped? -/
def State.queueLives (s : State) (part q : Nat) : Bool :=
  let x := s.queue part q
  s.packetLives part q && x.en && !x.stopped

/-- May the front end read the packet at RIDX (R399)? A stopped queue still reads the one that a TIMED packet is to release
(R389; DEDUCED: log 114). -/
def State.readsHead (s : State) (part q : Nat) : Bool :=
  let x := s.queue part q
  s.packetLives part q && x.en && (!x.stopped || x.timed.isSome) && x.slot && x.waitw.isNone && x.ridx != x.widx

/-- May the queue start the packet at RIDX (R390, R399)? -/
def State.queueStarts (s : State) (part q : Nat) : Bool :=
  let x := s.queue part q
  s.queueLives part q && x.slot && x.waitw.isNone && x.timed.isNone && x.ridx != x.widx

/-- The bytes of the packet at RIDX when it is well formed and of a type. -/
def State.headOf (s : State) (part q type : Nat) : Option (List Byte) :=
  match s.headPacket part q with
  | .bytes p _ => if !badPacket p && descNat p 0 1 == type then some p else none
  | _ => none

/-- An event that starts a packet of a type. -/
def State.withHead (s : State) (part q type : Nat) (name : String)
    (f : List Byte → Host.Outcome State Fault Refusal) : Host.Outcome State Fault Refusal :=
  if s.queueStarts part q then
    match s.headOf part q type with
    | some p => f p
    | none => .refused (.notEnabled name)
  else .refused (.notEnabled name)

/-! ## LAUNCH and RESUME (R394, R397) -/

/-- The code lines at the entry of a job record, as a core fetches them; none when the read faults (R398). -/
def State.entryLines (s : State) (part c : Nat) (jr : JobRec) : Segs :=
  match s.translate c part false .fetch (jr.code + jr.entry) with
  | .ok place _ _ => [(lineOf place, 128)]
  | .fault _ => []

/-- At a packet's start every entry line that a core of its partition holds is checked against its slice, and fetched again when it
was written since (R398). -/
def State.freshCode (s : State) (part : Nat) (jr : JobRec) : State :=
  (partCores (s.part part)).foldl (fun s c =>
    (s.entryLines part c jr).foldl (fun (s : State) p =>
      if (s.core c).l1.icache.has p.1 && s.codeLine c p.1 != s.l2Line p.1 then s.fillCode c p.1 else s) s) s

/-- A LAUNCH whose reads are made: the job is registered, or rejected. -/
def State.launchNow (s : State) (part q : Nat) (p : List Byte) (x : LaunchReads) : State :=
  let pk := pktOf q (s.queue part q).ridx.toNat p
  match s.launchCheck part x with
  | some (r, d) => (s.packetStarts part q).endPacket part pk 1 r d
  | none =>
    let jb := s.newJob part pk p x
    let (j, s) := ((s.freshCode part jb.r).packetStarts part q).addJob jb
    s.startAll j

def execLaunch (part : PartId) (q : QueueNo) (s : State) : Host.Outcome State Fault Refusal :=
  s.withHead part.val q.val 1 "LAUNCH" fun p =>
    match s.launchReads part.val q.val p with
    | .error [] => .refused (.notEnabled "LAUNCH")
    | .error qs => .next (s.queueWaits part.val q.val qs)
    | .ok (x, s) => .next (s.launchNow part.val q.val p x)

def execResume (part : PartId) (q : QueueNo) (s : State) : Host.Outcome State Fault Refusal :=
  s.withHead part.val q.val 2 "RESUME" fun p =>
    let pk := pktOf q.val (s.queue part.val q.val).ridx.toNat p
    let a := BitVec.ofNat 64 (descNat p 8 8)
    match s.checkImage part.val q.val a with
    | .wait [] => .refused (.notEnabled "RESUME")
    | .wait qs => .next (s.queueWaits part.val q.val qs)
    | .ends c r d =>
      let s := s.packetStarts part.val q.val
      .next ((if c = 1 then s else s.giveUp part.val a).endPacket part.val pk c r d)
    | .ok ctx =>
      let s := s.packetStarts part.val q.val
      .next { s with restores := s.restores ++ [{ part := part.val, pk := pk, addr := a, ctx := ctx }] }

/-! ## WAITW (R391) -/

/-- A WAITW completes. -/
def State.waitEnds (s : State) (part q : Nat) (x : WaitWord) : State :=
  (s.setQueue part q { s.queue part q with waitw := none, parked := false, pages := [], dead := [] }).packetEnds part q
    x.idx x.intr

/-- Tests a WAITW's condition, as an acquire at SYSTEM scope; none while it fails. -/
def State.waitTest (s : State) (part q : Nat) (x : WaitWord) : Option State :=
  let y := s.queue part q
  let z := s.feSpan part (if x.mode = 0 then .tagRead else .read) x.addr 8
  match z.faults with
  | [] =>
    if x.mode = 0 ∧ !z.tagged then some (s.failWait part q 3 x.idx)
    else if s.feHeld z.segs then none
    else
      let (bs, s) := s.feReads z.segs
      let v := BitVec.ofNat 64 (natOf bs)
      let met :=
        match x.mode with
        | 0 => z.segs.all fun p => s.tag p.1
        | 1 => decide (x.thr.toNat ≤ v.toNat)
        | _ => decide (x.thr.toInt ≤ v.toInt)
      if met then some (s.waitEnds part q x) else none
  | qs =>
    if qs.any y.lost then some (s.failWait part q 4 x.idx)
    else
      some ((s.setQueue part q { y with parked := true, slot := false, had := true }).queueWaits part q qs)

/-- WAITW: the packet starts and is tested; or one that waits is tested again. -/
def execWaitw (part : PartId) (q : QueueNo) (s : State) : Host.Outcome State Fault Refusal :=
  let y := s.queue part.val q.val
  match y.waitw with
  | some x =>
    if s.packetLives part.val q.val && (!y.parked || y.slot) then
      match s.waitTest part.val q.val x with
      | some t => .next t
      | none => .refused (.notEnabled "WAITW")
    else .refused (.notEnabled "WAITW")
  | none =>
    s.withHead part.val q.val 3 "WAITW" fun p =>
      let t := descNat p 32 8
      let x : WaitWord :=
        { idx := y.ridx.toNat, addr := BitVec.ofNat 64 (descNat p 8 8), thr := BitVec.ofNat 64 (descNat p 16 8)
          mode := descNat p 24 1, intr := (descNat p 1 1).testBit 0
          limit := if t = 0 then none else some (s.tai + 2 ^ 16 * t) }
      let s := s.packetStarts part.val q.val
      let s := s.setQueue part.val q.val { s.queue part.val q.val with waitw := some x }
      .next ((s.waitTest part.val q.val x).getD s)

/-- WAITW_TIMEOUT (R391). -/
def execWaitwTimeout (part : PartId) (q : QueueNo) (s : State) : Host.Outcome State Fault Refusal :=
  match (s.queue part.val q.val).waitw with
  | some x =>
    match x.limit with
    | some t => eventIf (!s.feLost && decide (t ≤ s.tai)) "WAITW_TIMEOUT" (s.failWait part.val q.val 5 x.idx)
    | none => .refused (.notEnabled "WAITW_TIMEOUT")
  | none => .refused (.notEnabled "WAITW_TIMEOUT")

/-! ## SIGNAL, MARK, FENCE (R388, R390, R392) -/

/-- The write of a SIGNAL packet. -/
def signalOf (p : List Byte) : FeWrite :=
  .signal (descNat p 24 1) (BitVec.ofNat 64 (descNat p 8 8)) (BitVec.ofNat 64 (descNat p 16 8))

/-- A packet that is one write starts; it completes when the write is performed. -/
def State.startWrite (s : State) (part q : Nat) (p : List Byte) (w : FeWrite) : State :=
  let i := (s.queue part q).ridx.toNat
  (s.packetStarts part q).feStart
    { part := part, q := q, idx := i, steps := [w], ends := true, intr := (descNat p 1 1).testBit 0, strict := true }

def execSignal (part : PartId) (q : QueueNo) (s : State) : Host.Outcome State Fault Refusal :=
  s.withHead part.val q.val 4 "SIGNAL" fun p => .next (s.startWrite part.val q.val p (signalOf p))

/-- MARK writes a record of 32 bytes whose content the spec does not give: free bytes. -/
def execMark (part : PartId) (q : QueueNo) (s : State) : Host.Outcome State Fault Refusal :=
  s.withHead part.val q.val 8 "MARK" fun p =>
    let w := FeWrite.bytes (BitVec.ofNat 64 (descNat p 8 8)) (Config.freeBytes s.freeIdx 32)
    .next ({ s with freeIdx := s.freeIdx + 1 }.startWrite part.val q.val p w)

/-- FENCE: starts and completes when every earlier packet of its queue has completed. -/
def execFencePacket (part : PartId) (q : QueueNo) (s : State) : Host.Outcome State Fault Refusal :=
  s.withHead part.val q.val 7 "FENCE_PACKET" fun p =>
    let x := s.queue part.val q.val
    eventIf x.started.isEmpty "FENCE_PACKET"
      ((s.packetStarts part.val q.val).packetEnds part.val q.val x.ridx.toNat ((descNat p 1 1).testBit 0))

/-! ## COPY (R402) -/

/-- The number under which a copy owns its destination lines. -/
def copyOwner (x : CopyOp) : Nat := copyKey x.part x.pk.q x.pk.idx

/-- The destination that a copy has still to write. -/
def State.copyDest (s : State) (x : CopyOp) : FeSpan :=
  s.feSpan x.part .engineWrite (x.dst + BitVec.ofNat 64 x.pos) (x.len - x.pos)

def segLines (zs : Segs) : List Nat := (zs.map fun p => lineOf p.1).foldl addNew []

/-- Replaces a copy, or drops it with its lines. -/
def State.putCopy (s : State) (x : CopyOp) (y : Option CopyOp) : State :=
  let s := { s with copies := s.copies.flatMap fun z => if z.part = x.part ∧ z.pk = x.pk then y.toList else [z] }
  if y.isNone then s.own (copyOwner x) [] else s

/-- A copy owns every unwritten destination line whose page translates, and takes it home; the others it claims as soon as they do
(R122, R146, R402). -/
def State.holdCopy (s : State) (x : CopyOp) : State :=
  let z := s.copyDest x
  let ls := segLines z.segs
  let new := ls.filter fun l => !((s.owned.getD l []).any (· == copyOwner x))
  let home := fun (s : State) l => if isHostPlace l then (s.gather l 4).hostFlush l else s.obtainHome l
  (((new.filter isCachedPlace).foldl home s).own (copyOwner x) ls).putCopy x
    (some { x with unheld := !z.faults.isEmpty })

/-- COPY starts (R146). -/
def execCopy (part : PartId) (q : QueueNo) (s : State) : Host.Outcome State Fault Refusal :=
  s.withHead part.val q.val 5 "COPY" fun p =>
    let x : CopyOp :=
      { part := part.val, pk := pktOf q.val (s.queue part.val q.val).ridx.toNat p, src := BitVec.ofNat 64 (descNat p 8 8)
        dst := BitVec.ofNat 64 (descNat p 16 8), len := descNat p 24 8, order := s.waitSeq }
    let s := s.packetStarts part.val q.val
    .next ({ s with copies := s.copies ++ [x], waitSeq := s.waitSeq + 1 }.holdCopy x)

/-- The copy engine's read of some segments: poisoned units read as zero, and they are returned with the offsets at which they
were met (R125). -/
def State.copyRead (s : State) (segs : Segs) : List Byte × List (Nat × Nat) × State :=
  segs.foldl (fun (acc : List Byte × List (Nat × Nat) × State) q =>
    let (out, bad, s) := acc
    let (bs, s) := s.feReadSeg q
    let zs := bs.zipIdx.map fun p => if s.poison.getD (unitOf (q.1 + p.2)) false then 0 else p.1
    let new := (unitsOf q.1 q.2).filter fun u => s.poison.getD u false
    (out ++ zs, bad ++ new.map fun u => (out.length + (u - q.1), u), s)) ([], [], s)

/-- One chunk of a copy: up to 4 KiB, a poisoned unit as zero with a record in the error log (R125), charged to the partition's
buckets (R402); none while an engine's write of its lines comes first. -/
def State.copyChunk (s : State) (x : CopyOp) : Option State :=
  let n := min 4096 (x.len - x.pos)
  let off := BitVec.ofNat 64 x.pos
  let a := s.feSpan x.part .engineRead (x.src + off) n
  let b := s.feSpan x.part .engineWrite (x.dst + off) n
  match a.faults ++ b.faults with
  | [] =>
    if (segLines (a.segs ++ b.segs)).any (s.heldBefore (copyOwner x) x.order) then none
    else
      let (bs, bad, s) := s.copyRead a.segs
      let s := bad.foldl (fun s p => s.logError x.part 1 0 0 0 0 0 (x.pos + p.1) p.2) s
      let s := s.feWrites b.segs bs
      let x' := { x with pos := x.pos + n }
      let s := if x'.pos < x.len then s.holdCopy x' else (s.putCopy x none).endPacket x.part x.pk 0 0 0
      some (s.chargeFe x.part (a.segs ++ b.segs))
  | qs =>
    if x.dead then
      some (((s.putCopy x none).stopQueue x.part x.pk.q 7 x.pk.idx).packetEnds x.part x.pk.q x.pk.idx false)
    else
      let (ps, s) := s.feFile x.part qs
      some (s.putCopy x (some { x with pages := ps }))

/-- The copy of a queue that moves next. R153 leaves started copies of one queue unordered: the model takes the oldest whose pages
are present (DESIGN CHOICE: log 119). -/
def State.copyOf (s : State) (part q : Nat) : Option CopyOp :=
  s.copies.find? fun x => x.part == part && x.pk.q == q && x.pages.isEmpty

/-- COPY_COMPLETE: the last chunk. -/
def execCopyComplete (part : PartId) (q : QueueNo) (s : State) : Host.Outcome State Fault Refusal :=
  match s.copyOf part.val q.val with
  | some x =>
    match s.copyChunk x with
    | some t => eventIf (decide (x.len ≤ x.pos + 4096)) "COPY_COMPLETE" t
    | none => .refused (.notEnabled "COPY_COMPLETE")
  | none => .refused (.notEnabled "COPY_COMPLETE")

/-! ## Timed launch (R401) -/

/-- Ten nanoseconds of TAI time. -/
def tenNs : Nat := 10 * 2 ^ 16

/-- TIMED: the trigger of the packet that follows. -/
def execTimed (part : PartId) (q : QueueNo) (s : State) : Host.Outcome State Fault Refusal :=
  s.withHead part.val q.val 6 "TIMED" fun p =>
    let x : TimedPkt :=
      { idx := (s.queue part.val q.val).ridx.toNat, trigger := 2 ^ 16 * descNat p 8 8 + descNat p 16 2
        drop := descNat p 18 1 == 1, intr := (descNat p 1 1).testBit 0 }
    let s := s.packetStarts part.val q.val
    .next (s.setQueue part.val q.val { s.queue part.val q.val with timed := some x })

/-- The follower of a TIMED packet: its bytes, when it is there, well formed and of a type that may follow. -/
def State.follower (s : State) (part q : Nat) : Option (List Byte) :=
  if s.readsHead part q then
    (s.headOf part q 1) <|> (s.headOf part q 2) <|> (s.headOf part q 4)
  else none

def State.setTimed (s : State) (part q : Nat) (x : TimedPkt) : State :=
  s.setQueue part q { s.queue part q with timed := some x }

/-- Begins the preparation of a follower. -/
def State.prepare (s : State) (part q : Nat) (x : TimedPkt) (p : List Byte) : Host.Outcome State Fault Refusal :=
  let pk := pktOf q (s.queue part q).ridx.toNat p
  match descNat p 0 1 with
  | 1 =>
    match s.launchReads part q p with
    | .error [] => .refused (.notEnabled "TIMED_PREPARE")
    | .error qs => .next (s.queueWaits part q qs)
    | .ok (y, s) =>
      match s.launchCheck part y with
      | some (r, d) => .next (s.setTimed part q { x with prep := .begun none 1 r d })
      | none =>
        let jb : Job := { s.newJob part pk p y with phase := .prepared, gate := .shut }
        let (j, s) := (s.freshCode part jb.r).addJob jb
        .next (s.setTimed part q { x with prep := .begun (some j) 0 0 0 })
  | 2 =>
    let a := BitVec.ofNat 64 (descNat p 8 8)
    match s.checkImage part q a with
    | .wait [] => .refused (.notEnabled "TIMED_PREPARE")
    | .wait qs => .next (s.queueWaits part q qs)
    | .ends c r d => .next (s.setTimed part q { x with prep := .begun none c r d })
    | .ok ctx =>
      let r : Restore := { part := part, pk := pk, addr := a, ctx := ctx, held := true }
      let s := { s with restores := s.restores ++ [r] }
      .next (s.setTimed part q { x with prep := .begun none 0 0 0 })
  | _ => .next (s.setTimed part q { x with prep := .begun none 0 0 0 })

/-- Has the preparation of a timed packet's follower become due (R401)? -/
def State.inLead (s : State) (part : Nat) (x : TimedPkt) : Bool :=
  decide (x.trigger ≤ s.tai + 2 ^ 16 * (s.part part).tlead.toNat)

/-- TIMED_PREPARE: from the trigger less FE_TLEAD on. -/
def execTimedPrepare (part : PartId) (q : QueueNo) (s : State) : Host.Outcome State Fault Refusal :=
  match (s.queue part.val q.val).timed, s.follower part.val q.val with
  | some x, some p =>
    if x.prep = .waiting ∧ s.inLead part.val x then s.prepare part.val q.val x p
    else .refused (.notEnabled "TIMED_PREPARE")
  | _, _ => .refused (.notEnabled "TIMED_PREPARE")

/-- A prepared restore of a queue. -/
def State.heldRestore (s : State) (part q : Nat) : Option Restore := s.restoreOf part q fun r => r.held

/-- A prepared job that does not run is dropped: its slots are FREE, its cores too. -/
def State.dropPrepared (s : State) (j : Nat) : State :=
  let jb := s.job j
  let s := { s with slots := s.slots.mapV fun _ (w : Warp) =>
    if w.id.job = j ∧ w.st ≠ SlotState.free then { gen := w.gen } else w }
  let s := jb.cores.foldl (fun s c =>
    let x := s.core c
    if x.occ = some j then
      s.setCore c { x with occ := none, places := 0, bars := [], l1 := { x.l1 with const := [] } }
    else s) s
  { s with jobs := s.jobs.del j }

/-- The follower is released (R401): with a lateness in ns when it is late. The warps of a launch first issue FE_TDELAY after the
trigger, or after a late release. -/
def State.release (s : State) (part q : Nat) (x : TimedPkt) (p : List Byte) (late : Nat) (j : Option Nat)
    (code reason detail : Nat) : State :=
  let pk := pktOf q (s.queue part q).ridx.toNat p
  let s := s.setQueue part q { s.queue part q with timed := none }
  let s := s.packetEnds part q x.idx x.intr
  if descNat p 0 1 = 4 then s.startWrite part q p (signalOf p)
  else
    let s := s.packetStarts part q
    if code ≠ 0 then s.endPacket part pk code reason detail
    else
      match j with
      | some j =>
        let first := max s.tai x.trigger + 2 ^ 16 * min 300 (Config.tdelay part)
        s.updJob j fun jb => { jb with phase := .running, gate := .from first, late := late, resv := [], pulse := s.tick }
      | none =>
        { s with restores := s.restores.map fun r =>
            if r.part = part ∧ r.pk = pk ∧ r.held then { r with held := false, late := late } else r }

/-- POLICY 1: the packet is dropped, and a job ends LATE (R401). -/
def State.dropLate (s : State) (part q : Nat) (x : TimedPkt) (p : List Byte) (late : Nat) : State :=
  let i := (s.queue part q).ridx.toNat
  let pk := pktOf q i p
  let s := x.prep.job.elim s s.dropPrepared
  let s := { s with restores := s.restores.filter fun r => !(r.part == part && r.pk == pk && r.held) }
  let s := s.setQueue part q { s.queue part q with timed := none }
  let s := (s.packetEnds part q x.idx x.intr).packetStarts part q
  if descNat p 0 1 = 4 then s.packetEnds part q i pk.intr else s.endPacket part pk 6 0 late

/-- Lateness in ns: none within 10 ns of the trigger. -/
def State.lateness (s : State) (x : TimedPkt) : Nat :=
  if s.tai ≤ x.trigger + tenNs then 0 else (s.tai - x.trigger) / 2 ^ 16

/-- TIMED_PREPARATION_COMPLETE: a packet already past its trigger is released late at once under POLICY 0. -/
def execTimedPreparationComplete (part : PartId) (q : QueueNo) (s : State) : Host.Outcome State Fault Refusal :=
  match (s.queue part.val q.val).timed, s.follower part.val q.val with
  | some x, some p =>
    match x.prep with
    | .begun j c r d =>
      let type := descNat p 0 1
      let placed := fun j => (s.job j).onDies.any fun e => (s.placeFor j e).isSome
      let ready := c != 0 || (match j, type with
        | some j, _ => placed j
        | none, 2 => (s.heldRestore part.val q.val).any fun y => y.map.isSome
        | none, _ => true)
      if ready then
        let s := match j with
          | some j =>
            let s := if (s.job j).cores.isEmpty then s.startAll j else s
            s.updJob j fun jb => { jb with resv := clustersOf jb.cores }
          | none => s
        if x.trigger + tenNs < s.tai ∧ !x.drop then .next (s.release part.val q.val x p (s.lateness x) j c r d)
        else .next (s.setTimed part.val q.val { x with prep := .done j c r d })
      else .refused (.notEnabled "TIMED_PREPARATION_COMPLETE")
    | _ => .refused (.notEnabled "TIMED_PREPARATION_COMPLETE")
  | _, _ => .refused (.notEnabled "TIMED_PREPARATION_COMPLETE")

/-- TIMED_RELEASE: at the trigger, within 10 ns. -/
def execTimedRelease (part : PartId) (q : QueueNo) (s : State) : Host.Outcome State Fault Refusal :=
  match (s.queue part.val q.val).timed, s.follower part.val q.val with
  | some x, some p =>
    let late := s.lateness x
    if s.tai + tenNs < x.trigger then .refused (.notEnabled "TIMED_RELEASE")
    else
      match x.prep with
      | .done j c r d =>
        .next (if late ≠ 0 ∧ x.drop then s.dropLate part.val q.val x p late else s.release part.val q.val x p late j c r d)
      | _ =>
        eventIf (x.drop && decide (x.trigger ≤ s.tai)) "TIMED_RELEASE"
          (s.dropLate part.val q.val x p ((s.tai - x.trigger) / 2 ^ 16))
  | _, _ => .refused (.notEnabled "TIMED_RELEASE")

/-- TIMED_FIRST_ISSUE: the warps of a released launch may issue (R401); the comparators are the front end's (R384). -/
def execTimedFirstIssue (part : PartId) (q : QueueNo) (s : State) : Host.Outcome State Fault Refusal :=
  let due := s.jobs.find? fun p =>
    !s.feLost && p.2.part == part.val && p.2.pk.q == q.val &&
    match p.2.gate with | .from t => decide (t ≤ s.tai + tenNs) | _ => false
  match due with
  | some (j, _) => .next (s.updJob j fun jb => { jb with gate := .open, pulse := s.tick })
  | none => .refused (.notEnabled "TIMED_FIRST_ISSUE")

/-! ## Look-ahead and slots (R398, R399) -/

/-- Does a FENCE at the head wait for earlier packets of its queue (R390)? -/
def State.fenceHolds (s : State) (part q : Nat) : Bool :=
  let x := s.queue part q
  x.waitw.isNone && x.timed.isNone && x.ridx != x.widx && !x.started.isEmpty && (s.headOf part q 7).isSome

/-- Is the head of a queue blocked: a WAITW, a TIMED packet or a FENCE that holds, or a page that its reading waits for
(R390, R398)? -/
def State.headBlocked (s : State) (part q : Nat) : Bool :=
  let x := s.queue part q
  x.waitw.isSome || x.timed.isSome || !x.pages.isEmpty || s.fenceHolds part q

/-- The n-th packet behind the head, as look-ahead reads it, and where it lies; none when the read faults. -/
def State.lookPacket (s : State) (part q n : Nat) : Option (List Byte × Segs) :=
  let x := s.queue part q
  let z := s.feSpan part .read (x.base + BitVec.ofNat 64 (64 * ((x.ridx.toNat + n) % 2 ^ x.log2.toNat))) 64
  if z.faults.isEmpty then some ((s.feReads z.segs).1, z.segs) else none

/-- The cores on which a job of some record would be placed now. -/
def State.wouldPlace (s : State) (part : Nat) (jr : JobRec) : List Nat :=
  let free := (partCores (s.part part)).filter fun c => (!jr.paired || c % 2 == 0) && s.teamRoom s.nextJob c jr
  free.flatMap fun c => if jr.paired then [c, c + 1] else [c]

/-- Look-ahead fetches code lines and, where no job's loads would meet them, argument lines into the caches of a core (R398). -/
def State.prefetch (s : State) (part : Nat) (jr : JobRec) (args : Segs) (c : Nat) : State :=
  let s := (s.entryLines part c jr).foldl (fun (s : State) p =>
    if (s.core c).l1.icache.has p.1 then s else s.fillCode c p.1) s
  let x := s.core c
  if x.occ.isSome then s
  else
    let const := (args.map fun p => lineOf p.1).foldl (fun (m : FMap (List Byte)) l => m.ins l (s.l2Line l)) x.l1.const
    s.setCore c { x with l1 := { x.l1 with const := const } }

/-- Look-ahead at a LAUNCH: its job record and argument block are read, the record is checked, and for one that passes code and
argument lines are fetched. A read that faults is dropped (R394, R398). -/
def State.lookLaunch (s : State) (part q : Nat) (p : List Byte) : State :=
  match s.launchReads part q p with
  | .error _ => s
  | .ok (y, _) =>
    let rec' := s.feSpan part .read (BitVec.ofNat 64 (descNat p 8 8)) 512
    let args := s.feSpan part .read (BitVec.ofNat 64 (descNat p 16 8)) (descNat p 24 4)
    let s := s.chargeFe part (rec'.segs ++ args.segs)
    match s.launchCheck part y with
    | some _ => s
    | none =>
      let jr := jobRecOf (y.raw.getD [])
      (s.wouldPlace part jr).foldl (fun s c => s.prefetch part jr args.segs c) s

/-- LOOKAHEAD_PARSE: one more packet behind a blocked head is parsed, up to 8. It changes nothing that a load, fetch or
packet returns; its traffic is charged to the partition's buckets (R398). -/
def execLookaheadParse (part : PartId) (q : QueueNo) (s : State) : Host.Outcome State Fault Refusal :=
  let x := s.queue part.val q.val
  let first := if x.waitw.isSome || x.timed.isSome then 0 else 1
  let behind := (x.widx - x.ridx).toNat - first
  let parsed := s.setQueue part.val q.val { x with look := x.look + 1 }
  eventIf (!s.feLost && x.en && !x.stopped && x.slot && s.headBlocked part.val q.val && decide (x.look < min 8 behind))
    "LOOKAHEAD_PARSE"
    (match s.lookPacket part.val q.val (first + x.look) with
    | none => parsed
    | some (p, segs) =>
      let t := parsed.chargeFe part.val segs
      if !badPacket p && descNat p 0 1 == 1 then t.lookLaunch part.val q.val p else t)

/-- Does a queue wait for a slot: it has a packet to start, its parked WAITW can go on, or the preparation of a timed packet is
due (R399)? -/
def State.wantsSlot (s : State) (part q : Nat) : Bool :=
  let x := s.queue part q
  !x.slot && s.packetLives part q &&
  (x.parked ||
   match x.timed with
   | some y => x.en && s.inLead part y
   | none => s.queueLives part q && !(x.had && s.fenceHolds part q) && x.waitw.isNone && x.ridx != x.widx)

/-- May a queue's slot be taken: its head is blocked? One whose timed packet is being prepared or released keeps it
(DESIGN CHOICE: log 115). -/
def State.yields (s : State) (part q : Nat) : Bool :=
  s.headBlocked part q && !(s.queue part q).timed.any (s.inLead part)

/-- The queues of a partition, in use. -/
def State.queuesOf (s : State) (part : Nat) : List Nat :=
  ((s.queues.keep fun k _ => k / 64 == part).keys).map fun k => k % 64

/-- Does queue a go before queue b into a slot: first those that parked (R391), then those that have given one up, then the
longest waiting (R399)? -/
def State.slotBefore (s : State) (part a b : Nat) : Bool :=
  let x := s.queue part a
  let y := s.queue part b
  if x.parked ≠ y.parked then x.parked else if x.had ≠ y.had then x.had else decide (x.since.getD 0 < y.since.getD 0)

/-- QUEUE_SLOT_ADMIT: one of the partition's 8 slots is free, or taken from a queue whose head is blocked. -/
def execQueueSlotAdmit (part : PartId) (q : QueueNo) (s : State) : Host.Outcome State Fault Refusal :=
  let qs := s.queuesOf part.val
  let want := s.wantsSlot part.val
  let holders := qs.filter fun k => (s.queue part.val k).slot
  let first := !qs.any fun k => k != q.val && want k && s.slotBefore part.val k q.val
  let enter := fun (s : State) =>
    s.setQueue part.val q.val { s.queue part.val q.val with slot := true, parked := false, had := false, since := none }
  if want q.val && first then
    if holders.length < 8 then .next (enter s)
    else
      match holders.find? fun k => s.yields part.val k with
      | some k => .next (enter (s.setQueue part.val k { s.queue part.val k with slot := false, had := true }))
      | none => .refused (.notEnabled "QUEUE_SLOT_ADMIT")
  else .refused (.notEnabled "QUEUE_SLOT_ADMIT")

/-! ## What every step leaves settled -/

/-- The head of a queue that can start one, or the follower of a TIMED packet, is read: a fault, PACKET_XLATE,
BAD_PACKET (R389). -/
def State.headErrors (s : State) (part q : Nat) : State :=
  let x := s.queue part q
  let stop := fun (err : Nat) => match x.timed with
    | some y => s.failTimed part q err x.ridx.toNat y.idx
    | none => s.stopQueue part q err x.ridx.toNat
  if s.readsHead part q then
    match s.headPacket part q with
    | .wait qs => s.queueWaits part q qs
    | .dead => stop 2
    | .bytes p _ => if badPacket p || (x.timed.isSome && !decide (descNat p 0 1 ∈ [1, 2, 4])) then stop 1 else s
  else s

/-- Does a queue still use a slot: for a packet to start, or one that has started and holds the others? -/
def Queue.busy (x : Queue) : Bool :=
  x.waitw.isSome || (x.en && (x.timed.isSome || (!x.stopped && x.ridx != x.widx)))

/-- A queue with nothing to start gives its slot up, and its claim to be admitted first; one that waits for a slot takes its
turn, and one that does not has none (R399). -/
def State.slotTurn (s : State) (part q : Nat) : State :=
  let x := s.queue part q
  let s := if x.busy then s else s.setQueue part q { x with slot := false, had := false, parked := false }
  let x := s.queue part q
  if s.wantsSlot part q then
    if x.since.isSome then s
    else { s with waitSeq := s.waitSeq + 1 }.setQueue part q { x with since := some s.waitSeq }
  else if x.since.isSome then s.setQueue part q { x with since := none } else s

/-- Does a queue still hold the TIMED packet for which a job was prepared? -/
def State.stillTimed (s : State) (j : Nat) (jb : Job) : Bool :=
  match (s.queue jb.part jb.pk.q).timed with
  | some x => x.prep.job == some j
  | none => false

/-- Prepared launches and restores whose TIMED packet is gone are dropped. -/
def State.dropStale (s : State) : State :=
  let js := (s.jobs.keep fun j jb => jb.phase == .prepared && !s.stillTimed j jb).keys
  let s := js.foldl State.dropPrepared s
  { s with restores := s.restores.filter fun r => !r.held || (s.queue r.part r.pk.q).timed.isSome }

def State.queueSettle (s : State) : State :=
  s.queues.keys.foldl (fun s k => (s.headErrors (k / 64) (k % 64)).slotTurn (k / 64) (k % 64)) s.feSettle.dropStale

end Sys2Proof.Machine
end

