-- ==== Sys2Proof/Machine/Fabric.lean ====
section
/-! DEFINITION. Evictions, the heddle directory and its recalls, heddle-die loss, Scaskaxon ports and members, scrubbing
(R99, R123, R140, R142 to R144, R414 to R419). -/

namespace Sys2Proof.Machine

/-! ## Evictions (R99, R143) -/

/-- L1_EVICTION: a line that the L1 holds leaves it, its dirty bytes written to the slice. -/
def execL1Eviction (c : CoreId) (line : Nat) (s : State) : Host.Outcome State Fault Refusal :=
  let l1 := (s.core c.val).l1
  eventIf (l1.clean.has line || l1.dirty.any fun p => lineOf p.1 == line) "L1_EVICTION" (s.l1Drop c.val line)

/-- What the directory, the entries to be rebuilt or a broadcast region say of a line's copies. -/
def Heddle.copies (h : Heddle) (line : Nat) : Option DirEntry :=
  (h.dir ++ h.lostDir ++ h.bcast.getD (region line) []).find? fun e => e.line == line

/-- Does a die hold a line dirty: a host line with dirty bytes; a device line of its own stacks, or one that it holds in O or M? -/
def State.holdsDirty (s : State) (d line : Nat) : Bool :=
  if isHostPlace line then homeDie line == d && (s.die d).hdirty.any fun p => lineOf p.1 == line
  else deviceLine line && (s.isHome d line || (s.hd.copies line).any fun e => decide (3 ≤ e.dst.getD d 0))

/-- L2_EVICTION: the write-back data are sent, and the die still answers snoops with them (R143). The line's recorded
cores are drained first (R140). -/
def execL2Eviction (d : DieId) (line : Nat) (s : State) : Host.Outcome State Fault Refusal :=
  let t := s.drainRecorded d.val line none
  eventIf (s.holdsDirty d.val line && !decide (4 * line + d.val ∈ s.hd.wbs)) "L2_EVICTION"
    { t with hd := { t.hd with wbs := t.hd.wbs ++ [4 * line + d.val] } }

/-- A line is stored in its stack: a 32-byte unit is clean only when all four of its words are (R445). -/
def State.storeUnits (s : State) (line : Nat) : State :=
  s.poisonAt ((List.range 4).flatMap fun i =>
    let us := (List.range 4).map fun k => line + 32 * i + 8 * k
    if us.any fun u => s.poison.getD u false then us else [])

/-- WRITEBACK_ACK: the home has the data, and the die answers no longer (R143). -/
def execWritebackAck (d : DieId) (line : Nat) (s : State) : Host.Outcome State Fault Refusal :=
  let s' := if isHostPlace line then s.hostFlush line else s.storeUnits line
  let hd := s'.hd
  eventIf (decide (4 * line + d.val ∈ s.hd.wbs)) "WRITEBACK_ACK"
    { s' with hd := { hd with wbs := hd.wbs.filter (· != 4 * line + d.val) }.giveUp s.groupPos d.val line }

/-- HEDDLE_SNOOP: a die's slice drains the line's recorded cores (R140). -/
def execHeddleSnoop (d : DieId) (line : Nat) (s : State) : Host.Outcome State Fault Refusal :=
  eventIf (deviceLine line) "HEDDLE_SNOOP" (s.drainRecorded d.val line none)

/-! ## The directory (R414, R415) -/

/-- A line's copies are invalidated: watches on it fire (R168). -/
def State.invalidated (s : State) (line : Nat) : State := { s with touched := addNew s.touched line }

/-- A request at a heddle die that it serves at once: the other dies' recorded cores drain, and an entry changes or is
allocated; a write invalidates the other copies, and a member's brings the bytes (R140, R142, R416). Of another member's memory
this package keeps a guest entry, which says what its own dies hold (R414). -/
def State.dirServe (s : State) (q line : Nat) (write : Bool) (bytes : List Byte) : State :=
  let s := s.gather line q
  let s :=
    if q < 4 ∨ posOf line = s.groupPos then s.request State.drain q line write
    else if write then { s with hd := s.hd.drop line }
    else
      match s.hd.entry line with
      | some e => { s with hd := s.hd.setEntry s.groupPos { e with dst := e.dst.map fun x => if x = 4 then 3 else if x = 2 then 1 else x } }
      | none => s
  let s := if write ∧ 4 ≤ q then s.write line (bytes.take 128) else s
  if write then s.invalidated line else s

/-- Can a requester's coherence traffic for a line be carried: a member of the group that a port reaches, or a die for a line whose
home one reaches (R418, R419)? -/
def State.carried (s : State) (q line : Nat) : Bool :=
  if q < 4 then s.reaches line
  else s.groupHas (q - 4) && q - 4 != s.groupPos && !s.hd.unreach.getLsbD (q - 4) && s.hd.carries (q - 4)

/-- A request at a heddle die: it is served, or a recall begins for it; none when it has to wait. -/
def State.dirRequest (s : State) (q line : Nat) (write : Bool) (bytes : List Byte) : Option State :=
  let h := s.hd.dieFor line
  let hd := s.hd
  if !hd.up.getLsbD h || !s.carried q line || hd.lostDir.any fun e => e.line == line then none
  else if hd.bcast.has (region line) || (hd.entry line).isSome || (decide (4 ≤ q) && posOf line != s.groupPos) then
    some (s.dirServe q line write bytes)
  else if decide (q < 4) && s.isHome q line then none
  else if (hd.ways line).length < 16 then some (s.dirServe q line write bytes)
  else
    match hd.recalls.look h, oldest (hd.ways line) with
    | none, some v =>
      let r : Recall := { victim := v.line, die := q, line := line, write := write, tick := s.tick, seq := hd.seqs.getD q 0, bytes := bytes }
      some { s with hd := { hd with recalls := hd.recalls.ins h r, nRecall := hd.nRecall + 1 } }
    | _, _ => none

/-- A requester's number, and the bytes that its write brings. -/
def requesterNo : Requester → Nat
  | .die d => d.val
  | .member pos _ => 4 + pos.val
def requesterBytes : Requester → List Byte
  | .die _ => []
  | .member _ bs => bs

/-- DIRECTORY_REQUEST. -/
def execDirectoryRequest (q : Requester) (line : Nat) (write : Bool) (s : State) : Host.Outcome State Fault Refusal :=
  match if deviceLine line then s.dirRequest (requesterNo q) line write (requesterBytes q) else none with
  | some t => .next t
  | none => .refused (.notEnabled "DIRECTORY_REQUEST")

/-- The request that waited for a recall goes on. -/
def State.recallOver (s : State) (h : Nat) (r : Recall) : State :=
  let hd := s.hd
  let s := { s with hd := { hd with recalls := hd.recalls.del h } }
  (s.dirRequest r.die r.line r.write r.bytes).getD s

/-- RECALL_COMPLETE: sharers are invalidated, the owner has written back (R415). -/
def execRecallComplete (h : Fin 2) (s : State) : Host.Outcome State Fault Refusal :=
  match s.hd.recalls.look h.val with
  | none => .refused (.notEnabled "RECALL_COMPLETE")
  | some r =>
    let s := (s.gather r.victim 4).invalidated r.victim
    .next ({ s with hd := s.hd.drop r.victim }.recallOver h.val r)

/-- A region enters the overflow table with the copies that its entries name. -/
def Heddle.toBroadcast (h : Heddle) (g : Nat) : Heddle :=
  let es := h.dir.filter fun e => region e.line == g
  { h with dir := h.dir.filter fun e => region e.line != g, bcast := h.bcast.ins g (h.bcast.getD g [] ++ es) }

/-- RECALL_TIMEOUT: a holder has not answered for 50 µs, 75,000 ticks (R415). -/
def execRecallTimeout (h : Fin 2) (s : State) : Host.Outcome State Fault Refusal :=
  match s.hd.recalls.look h.val with
  | none => .refused (.notEnabled "RECALL_TIMEOUT")
  | some r =>
    let hd := s.hd
    let room := hd.bcast.has (region r.victim) || decide (hd.bcast.length < 4096)
    let t := { s with hd := { hd with recfail := hd.recfail + 1 }.toBroadcast (region r.victim) }
    eventIf (decide (r.tick + 75000 ≤ s.tick) && room) "RECALL_TIMEOUT" (t.recallOver h.val r)

/-- OVERFLOW_SWEEP, every 1 ms: 1,500,000 ticks. -/
def execOverflowSweep (s : State) : Host.Outcome State Fault Refusal :=
  let hd := s.hd
  eventIf (decide (hd.swept < s.tick / 1500000)) "OVERFLOW_SWEEP"
    { s with hd := { hd with bcast := hd.bcast.keep fun _ es => es.any fun e => e.beyond s.groupPos, swept := s.tick / 1500000 } }

/-! ## Heddle-die loss (R384, R417) -/

/-- Since when no up port has reached a member of the group: it begins when the last port goes down or a table names the member,
and ends with a port that reaches it (R419). -/
def State.countCut (s : State) : State :=
  let hd := s.hd
  let lone := (List.range 8).filter fun pos => s.groupHas pos && pos != s.groupPos &&
    !((List.range 16).any fun p => hd.ports.getLsbD p && (hd.reach.getD p 0).getLsbD pos)
  { s with hd := { hd with cut := lone.map fun pos => (pos, hd.cut.getD pos s.tick) } }

/-- A queue as the loss of the front end leaves it: stopped with FE_LOST, also when it had stopped before; nothing that it had started
goes on (R384, R389). -/
def Queue.lose (x : Queue) : Queue :=
  { x with stopped := true, err := 8, eidx := x.ridx, waitw := none, timed := none, pages := [], dead := [], parked := false
           slot := false, since := none }

/-- The front end and the recovery core are lost: every queue of every partition stops, and no copy, write or restore, flash write or
measurement goes on (R384, R433). -/
def State.loseFront (s : State) : State :=
  let s := s.copies.foldl (fun s x => s.own (copyOwner x) []) s
  { s with feLost := true, queues := (List.range 512).map fun k => (k, (s.queues.getD k {}).lose), copies := [], feOps := []
           restores := [], bt := { s.bt with pending := false, busy := .idle } }

/-- Requests whose replies are still on their way when a heddle die is lost: those that it served in this very tick (R416, R417). -/
def Heddle.repliesUnder (h : Heddle) (x tick : Nat) : List Recall :=
  h.replies.flatMap fun p => (p.2.filter fun y => y.tick == tick && h.dieFor y.line == x).map fun y =>
    { victim := y.line, die := p.1 % 16, line := y.line, write := y.write, tick := tick, seq := y.seq }

/-- HEDDLE_DIE_LOSS. -/
def execHeddleDieLoss (h : Fin 2) (s : State) : Host.Outcome State Fault Refusal :=
  let hd := s.hd
  let lost := hd.dir.filter fun e => hd.dieFor e.line == h.val
  let req := (hd.recalls.look h.val).toList.map (fun (r : Recall) => { r with tick := s.tick }) ++ hd.repliesUnder h.val s.tick
  let down : BitVec 16 := if h.val = 0 then 0xFF00 else 0x00FF
  let hd' := { hd with up := hd.up &&& ~~~(BitVec.ofNat 2 (2 ^ h.val)), rebuild := true, ports := hd.ports &&& down
                       recalls := hd.recalls.del h.val, lostDir := hd.lostDir ++ lost, lostReq := hd.lostReq ++ req
                       dir := hd.dir.filter fun e => hd.dieFor e.line != h.val }
  let hm := s.hm
  let t := { s with hd := hd', hm := { hm with hdeg := satAdd hm.hdeg 1 } }.countCut
  eventIf (hd.up.getLsbD h.val) "HEDDLE_DIE_LOSS" (if h.val = 0 then t.loseFront else t)

/-- Has a home slice the requester's number among its last completed ones (R416)? -/
def Heddle.answered (h : Heddle) (r : Recall) : Bool :=
  (h.replies.getD (replyKey r.die r.line) []).any fun y => y.seq == r.seq && y.line == r.line

/-- REQUEST_RESEND: a request outstanding at a lost die for 20 µs, 30,000 ticks, is sent again. A home slice that has performed it
answers with the reply that it keeps, and does not perform it again (R416). -/
def execRequestResend (d : DieId) (s : State) : Host.Outcome State Fault Refusal :=
  match s.hd.lostReq.find? fun r => r.die == d.val && decide (r.tick + 30000 ≤ s.tick) with
  | none => .refused (.notEnabled "REQUEST_RESEND")
  | some r =>
    let hd := s.hd
    let t := { s with hd := { hd with lostReq := hd.lostReq.filter (· != r) } }
    if hd.answered r then .next t
    else
      match t.dirRequest r.die r.line r.write r.bytes with
      | some t => .next t
      | none => .refused (.notEnabled "REQUEST_RESEND")

/-- A rebuilt entry is allocated; in a full set the oldest entry is recalled at once, its copies drained and invalidated (R415,
R417). -/
def State.rebuilt (s : State) (e : DirEntry) : State :=
  let e := { e with age := s.hd.nextAge }
  let add := fun (h : Heddle) => { h with nextAge := h.nextAge + 1, dir := h.dir ++ [e] }
  if (s.hd.ways e.line).length < 16 then { s with hd := add s.hd }
  else
    match oldest (s.hd.ways e.line) with
    | some v =>
      let s := (s.gather v.line 4).invalidated v.line
      { s with hd := { add (s.hd.drop v.line) with nRecall := s.hd.nRecall + 1 } }
    | none => s

/-- DIRECTORY_REBUILD_COMPLETE. -/
def execDirectoryRebuildComplete (s : State) : Host.Outcome State Fault Refusal :=
  let hd := s.hd
  eventIf (hd.rebuild && hd.up != 0) "DIRECTORY_REBUILD_COMPLETE"
    (hd.lostDir.foldl State.rebuilt { s with hd := { hd with lostDir := [], rebuild := false, degraded := true } })

/-! ## Links and members (R418, R419) -/

def portBit (port : Nat) : BitVec 16 := BitVec.ofNat 16 (2 ^ port)

/-- Changes which ports are up. -/
def State.setPorts (s : State) (ports : BitVec 16) : State :=
  let hd := s.hd
  { s with hd := { hd with ports := ports } }.countCut

/-- SCASKAXON_PORT_DOWN. -/
def execScaskaxonPortDown (port : Fin 16) (s : State) : Host.Outcome State Fault Refusal :=
  let hd := s.hd
  eventIf (hd.ports.getLsbD port.val) "SCASKAXON_PORT_DOWN" (s.setPorts (hd.ports &&& ~~~portBit port.val))

/-- SCASKAXON_PORT_UP: a port of a heddle die that works gains lock; which members it reaches, and whether its peer reports this
package's member table, come from outside (R418). -/
def execScaskaxonPortUp (x : PortUp) (s : State) : Host.Outcome State Fault Refusal :=
  let hd := s.hd
  let n := x.port.val
  let foreign := if x.same then hd.foreign &&& ~~~portBit n else hd.foreign ||| portBit n
  eventIf (!hd.ports.getLsbD n && hd.up.getLsbD (n / 8)) "SCASKAXON_PORT_UP"
    ({ s with hd := { hd with replays := hd.replays.del n, reach := hd.reach.ins n x.members
                              foreign := foreign } }.setPorts (hd.ports ||| portBit n))

/-- LINK_LEVEL_REPLAY: the port goes down after 16 consecutive failed replays. -/
def execLinkLevelReplay (port : Fin 16) (ok : Bool) (s : State) : Host.Outcome State Fault Refusal :=
  let hd := s.hd
  let n := if ok then 0 else hd.replays.getD port.val 0 + 1
  let ports := if n = 16 then hd.ports &&& ~~~portBit port.val else hd.ports
  eventIf (hd.ports.getLsbD port.val) "LINK_LEVEL_REPLAY"
    ({ s with hd := { hd with replays := hd.replays.put 0 port.val (if n = 16 then 0 else n) } }.setPorts ports)

/-- Words become poisoned; HM_POIS counts them (R123, R434). -/
def State.countPoison (s : State) (n : Nat) : State :=
  let hm := s.hm
  { s with hm := { hm with pois := satAdd hm.pois n } }

def State.poisonUnits (s : State) (us : List Nat) : State := (s.countPoison us.length).poisonAt us

/-- An entry without a member position. -/
def DirEntry.dropMember (e : DirEntry) (pos : Nat) : DirEntry :=
  let mine := e.pkgv.getLsbD pos
  { e with pkgv := e.pkgv &&& ~~~(BitVec.ofNat 8 (2 ^ pos)), pkgw := e.pkgw && !mine, pkgm := e.pkgm && !mine }

/-- Does a member hold the line in M or O? -/
def DirEntry.heldBy (e : DirEntry) (pos : Nat) : Bool := e.pkgw && e.pkgm && e.pkgv.getLsbD pos

/-- Ends the commands of one core that transfer to a package, with REMOTE (R335, R419). -/
def State.endRemote (s : State) (pkg c : Nat) : State :=
  let mine := (s.core c).cmds.keep fun _ x => x.ready && (x.kind.val == 4 || x.kind.val == 5) && x.d.rpkg == pkg
  mine.foldl (fun s p => s.endCmd c p.1 p.2 6) s

/-- Recalls that wait for copies which nobody holds any more are over (R415). -/
def State.recallsOver (s : State) : State :=
  s.hd.recalls.foldl (fun s p =>
    if (s.hd.copies p.2.victim).isNone then s.recallOver p.1 p.2 else s) s

/-- MEMBER_UNREACHABLE: a member that no up port has reached for 1 ms, 1,500,000 ticks (R419): every entry drops it, a region of the
overflow table that it alone held leaves it, recalls that waited for it alone are over, lines that it held in M or O are poisoned,
and its transfers end with REMOTE. -/
def execMemberUnreachable (pos : Fin 8) (s : State) : Host.Outcome State Fault Refusal :=
  let hd := s.hd
  let every := hd.dir ++ hd.lostDir ++ hd.bcast.flatMap Prod.snd
  let lost := every.filter fun e => e.heldBy pos.val
  let drop := fun (es : List DirEntry) => (es.map fun e => e.dropMember pos.val).filter fun e => e.beyond s.groupPos
  let hm := s.hm
  let t := { s with hd := { hd with unreach := hd.unreach ||| BitVec.ofNat 8 (2 ^ pos.val), dir := drop hd.dir
                                    lostDir := drop hd.lostDir
                                    bcast := (hd.bcast.mapV fun _ es => drop es).keep fun _ es => !es.isEmpty }
                    hm := { hm with hdeg := satAdd hm.hdeg 1 } }
  let t := (t.poisonUnits (lost.flatMap fun e => unitsOf e.line 128)).recallsOver
  let t := t.cores.keys.foldl (fun t c => t.endRemote (s.packageAt pos.val) c) t
  let since := (hd.cut.look pos.val).any fun t0 => decide (t0 + 1500000 ≤ s.tick)
  eventIf (s.groupHas pos.val && pos.val != s.groupPos && !hd.unreach.getLsbD pos.val && since) "MEMBER_UNREACHABLE" t

/-! ## Errors (R123) -/

/-- The units that an uncorrectable error at a place of memory poisons: a word of a scratchpad; all four words of the 32-byte unit
of a stack (R445). -/
def errorUnits (a : Nat) : List Nat :=
  if isGlobalPlace a then (List.range 4).map fun k => a / 32 * 32 + 8 * k else [unitOf a]

/-- SCRUB_PASS: errors corrected are counted; the units of uncorrectable ones are poisoned. -/
def execScrubPass (corrected : Nat) (bad : List Nat) (s : State) : Host.Outcome State Fault Refusal :=
  let hm := s.hm
  let us := (bad.flatMap errorUnits).foldl addNew []
  .next ({ s with hm := { hm with cerr := satAdd hm.cerr corrected } }.poisonUnits us)

/-- An error met by a level of storage takes the action of R123's table; none where that level holds nothing there. -/
def State.upset (s : State) : Upset → Option State
  | .corrected => let hm := s.hm; some { s with hm := { hm with cerr := satAdd hm.cerr 1 } }
  | .parity => let hm := s.hm; some { s with hm := { hm with parr := satAdd hm.parr 1 } }
  | .register c k key =>
    let w := s.warp c.val k.val
    let held := if key.val < 8192 then decide (key.val / 64 < w.vregs) && decide (key.val % 64 < w.id.width)
      else decide (8194 ≤ key.val)
    if w.st ≠ .free ∧ held then some (s.setWarp c.val k.val { w with bad := w.bad.ins key.val true }) else none
  | .l1 c a =>
    let x := s.core c.val
    let u := a / 8 * 8
    if x.l1.dirty.any fun p => p.1 / 8 * 8 == u then
      some ((s.countPoison 1).setCore c.val { x with l1 := { x.l1 with poison := x.l1.poison.ins u true, fresh := x.l1.fresh.keep fun b _ => b / 8 * 8 != u } })
    else none
  | .l2 a => if isCachedPlace a then some (s.poisonUnits [unitOf a]) else none
  | .memory a => if isHostPlace a then none else some (s.poisonUnits (errorUnits a))

end Sys2Proof.Machine
end

