-- ==== Sys2Proof/Machine/Tai.lean ====
section
/-! DEFINITION. Time: how a step lets the tick and the TAI counter go on, and the counter's discipline (R284 to R286,
R386, R400). -/

namespace Sys2Proof.Machine

/-- Units of 2^-16 ns in n ns. -/
def nsUnits (n : Nat) : Nat := 2 ^ 16 * n

/-- TAI units in a number of ticks: a tick is 2/3 ns (R285). -/
def taiOfTicks (n : Nat) : Nat := 2 ^ 17 * n / 3

/-- The most that the discipline corrects while e units pass: 1,000 ppm beyond 10 µs, else 100 ppm (R400). -/
def slewLimit (slew : Int) (e : Nat) : Nat := if nsUnits 10000 < slew.natAbs then e / 1000 else e / 10000

/-- The counter runs fast while it is behind and slow while it is ahead. The rate is at most the limit; which, is a free
value (R400). -/
def State.slewNow (s : State) (e : Nat) : Nat × State :=
  let d := s.taiD
  if d.slew = 0 then (s.tai + e, s)
  else
    let (n, s) := s.takeNat
    let k := n % (min (slewLimit d.slew e) d.slew.natAbs + 1)
    if 0 < d.slew then (s.tai + e + k, { s with taiD := { d with slew := d.slew - k } })
    else (s.tai + e - k, { s with taiD := { d with slew := d.slew + k } })

/-- The ticks of this step pass (log 8). -/
def State.passTime (s : State) : State :=
  let n := s.tick + s.dts.headD 1
  let (t, s') := s.slewNow (taiOfTicks n - taiOfTicks s.tick)
  { s' with tick := n, tai := t, dts := s.dts.tail }

/-! ## Discipline (R400) -/

/-- Does the front end run? -/
def State.feRuns (s : State) : Bool := s.feReady && !s.feLost

/-- The source that the discipline follows (R400, log 28). -/
def State.taiSrc (s : State) : BitVec 2 := (s.part s.taiD.part).taiSrc

/-- A sample: the counter less its source, in units of 2^-16 ns. -/
def State.taiSample (s : State) (off : Int) : State :=
  let d := s.taiD
  let a := off.natAbs
  let good := if a ≤ nsUnits 20 then min 16 (d.good + 1) else 0
  let lock := if nsUnits 100 < a then false else s.taiLock || good == 16
  let d := { d with toff := BitVec.ofInt 64 (off / 2 ^ 16), good := good, sampled := s.tick, waiting := false }
  if off < -(nsUnits 10000 : Int) then { s with tai := s.tai + a, taiLock := lock, taiD := { d with slew := 0 } }
  else { s with taiLock := lock, taiD := { d with slew := -off } }

/-- TAI_SET: a write of FE_TAISET. -/
def State.setTai (s : State) (ns : W64) : State :=
  let d := { s.taiD with set := ns }
  let t := nsUnits ns.toNat
  if s.tai < t then { s with tai := t, taiD := { d with slew := 0 } }
  else { s with taiD := { d with slew := (t : Int) - s.tai } }

def execTaiSet (ns : BitVec 64) (s : State) : Host.Outcome State Fault Refusal := s.hostWrites fun s => s.setTai ns

/-- Ticks in n ms. -/
def msTicks (n : Nat) : Nat := 1500000 * n

/-- PTM_REQUEST, every PTMPER ms. -/
def execPtmRequest (s : State) : Host.Outcome State Fault Refusal :=
  let d := s.taiD
  eventIf (s.feRuns && s.taiSrc == 1 &&
      decide (d.asked + msTicks (s.part d.part).ptmper.toNat ≤ s.tick)) "PTM_REQUEST"
    { s with taiD := { d with asked := s.tick, waiting := true } }

/-- PTM_SAMPLE: the result, in ns of the counter from the host's clock. -/
def execPtmSample (off : Int) (s : State) : Host.Outcome State Fault Refusal :=
  eventIf (s.feRuns && s.taiSrc == 1 && s.taiD.waiting) "PTM_SAMPLE" (s.taiSample (2 ^ 16 * off))

/-- PPS_EDGE: FE_PPSSEC advances; with SRC 2 the edge is a sample. -/
def execPpsEdge (s : State) : Host.Outcome State Fault Refusal :=
  let d := s.taiD
  let t := nsUnits (1000000000 * d.ppssec.toNat)
  let s' := { s with taiD := { d with ppssec := d.ppssec + 1 } }
  eventIf s.feRuns "PPS_EDGE" (if s.taiSrc = 2 then s'.taiSample ((s.tai : Int) - t) else s')

/-- TAI_SAMPLE_TIMEOUT: no sample for 4 s. -/
def execTaiSampleTimeout (s : State) : Host.Outcome State Fault Refusal :=
  let d := s.taiD
  eventIf (s.taiLock && decide (d.sampled + msTicks 4000 ≤ s.tick)) "TAI_SAMPLE_TIMEOUT"
    { s with taiLock := false, taiD := { d with good := 0 } }

end Sys2Proof.Machine
end

