-- ==== Sys2Proof/Machine/Partition.lean ====
section
/-! DEFINITION. Partitions: enabling, reset, buckets (R410 to R413); the coherence group's registers (R418); the PCIe
attachment (R421, R422). -/

namespace Sys2Proof.Machine

/-! ## Enabling (R410, R411) -/

/-- The numbers of the other partitions that are enabled. -/
def State.enabledOthers (s : State) (p : Nat) : List Partition :=
  ((List.range 8).filter fun q => q != p && (s.part q).en).map s.part

def Partition.dieMiB (p : Partition) (d : Nat) : Nat := bits (p.dsp.zeroExtend 64) (8 * d) 8

/-- The first failing check (R410); zero when all pass. -/
def State.enableError (s : State) (p : Nat) : Nat :=
  let x := s.part p
  let os := s.enabledOthers p
  let dies := List.range 4
  let waysOf := fun d => os.foldl (fun m y => m ||| y.ways d) 0
  if x.clus = 0 ∨ os.any (fun y => y.clus &&& x.clus != 0) then 1
  else if os.any (fun y => y.chan &&& x.chan != 0) then 2
  else if os.any (fun y => y.l2w &&& x.l2w != 0) ∨ dies.any (fun d => x.onDie d && x.ways d == 0 && waysOf d == 65535) then 3
  else if dies.any (fun d => decide (32 < x.dieMiB d + (os.map fun y => y.dieMiB d).sum)) then 4
  else if dies.any (fun d =>
      decide (64 < x.share d + (os.map fun y => y.share d).sum) || (x.onDie d && x.share d == 0)) then 5
  else if os.any (fun y => y.fn == x.fn) then 6
  else 0

/-- The clusters of a partition that no other enabled one owns are to have its base clock (R411). -/
def State.askBase (s : State) (p : Nat) : State :=
  let x := s.part p
  let mine := (List.range 128).filter fun k => x.clus.getLsbD k && !(s.enabledOthers p).any fun y => y.clus.getLsbD k
  mine.foldl (fun s k => s.askClock k x.step.toNat) s

/-- A write of 1 to PT_CTL.EN; the base clock reaches the clusters that the partition now owns. -/
def State.enable (s : State) (p : Nat) : State :=
  let x := s.part p
  if x.en then s
  else
    let e := s.enableError p
    let s := s.setPart p { x with en := e == 0, err := BitVec.ofNat 4 e }
    if e = 0 then s.askBase p else s

/-- A write of 0 to PT_CTL.EN: discarded while jobs run. -/
def State.disable (s : State) (p : Nat) : State :=
  if s.jobs.any fun j => j.2.part == p && j.2.phase != .saved then s else s.setPart p { s.part p with en := false }

def execPartitionEnable (part : PartId) (s : State) : Host.Outcome State Fault Refusal :=
  s.hostWrites fun s => s.enable part.val

def execPartitionDisable (part : PartId) (s : State) : Host.Outcome State Fault Refusal :=
  s.hostWrites fun s => s.disable part.val

/-! ## Partition reset (R412, R441) -/

/-- What the front end holds for a partition, beside its jobs, is dropped, and every queue is as after reset. -/
def State.resetQueues (s : State) (p : Nat) : State :=
  let s := (s.copies.filter fun x => x.part == p).foldl (fun s x => s.own (copyOwner x) []) s
  { s with queues := s.queues.keep fun k _ => k / 64 != p, copies := s.copies.filter fun x => x.part != p
           feOps := s.feOps.filter fun o => o.part != p, restores := s.restores.filter fun r => r.part != p }

/-- A job of the partition ends: a prepared one is dropped, any other killed. -/
def State.resetJob (s : State) (j : Nat) : State :=
  match (s.job j).phase with
  | .prepared => s.dropPrepared j
  | .saved => s.killSaved j
  | _ => s.killJob j

/-- Steps 1 and 2; a command of FE_JCMD that is under way ends with FE_JRES 1 (R441). -/
def State.startReset (s : State) (p : Nat) : State :=
  if (s.part p).rstBusy then s
  else
    let s := s.resetQueues p
    let s := (s.jobs.keep fun _ jb => jb.part == p).keys.foldl State.resetJob s
    let x := s.part p
    s.setPart p { x with rstBusy := true, jres := if x.jbusy then 1 else x.jres, jbusy := false }

def execPartitionReset (part : PartId) (s : State) : Host.Outcome State Fault Refusal :=
  s.hostWrites fun s => s.startReset part.val

/-- A core's caches: dirty bytes written back, at the charge of its partition's bucket as far as there are tokens, every copy dropped
(R412). -/
def State.flushCore (s : State) (c : Nat) : State :=
  let s := s.drain c
  s.setCore c { s.core c with l1 := {} }

/-- The host lines in a partition's ways of a die's L2 are written back, at the charge of its bucket there as far as there are tokens,
and their copies dropped; no other partition's lines change (R412). -/
def State.flushWays (s : State) (p d : Nat) : State :=
  let x := s.die d
  let mine := (x.hpart.keep fun _ q => q == p).keys
  let dirty := mine.filter fun l => x.hdirty.any fun b => lineOf b.1 == l
  mine.foldl State.hostFlush (if dirty.isEmpty then s else s.spend d p dirty.length)

/-- The directory names no copy of a partition's lines any more, and no slice a core of it (R412, R414). -/
def State.forgetCopies (s : State) (x : Partition) : State :=
  let mine := fun (e : DirEntry) => paOwned x e.line
  let hd := s.hd
  { s with
    hd := { hd with dir := hd.dir.filter fun e => !mine e, lostDir := hd.lostDir.filter fun e => !mine e
                    bcast := (hd.bcast.mapV fun _ es => es.filter fun e => !mine e).keep fun _ es => !es.isEmpty }
    dies := s.dies.mapV fun _ d =>
      let recs := d.recs.mapV fun _ r => r.filter fun q => !x.clus.getLsbD (q.1 / 4)
      { d with recs := recs.keep fun _ r => !r.isEmpty } }

/-- Is a place in a scratchpad of the partition: its cores', or its shares of the dies' (R97, R98, R410)? -/
def resetPlace (n : Nat) (p : Partition) (a : Nat) : Bool :=
  (isCorePlace a && p.clus.getLsbD ((a - 2 ^ 59) / 2 ^ 19 / 4)) || dieShareHas n p.dsp a

/-- Steps 3 to 5: write-back, zeroing, TLBs and faults. -/
def State.finishReset (s : State) (p : Nat) : State :=
  let x := s.part p
  let s := (partCores x).foldl State.flushCore s
  let s := ((List.range 4).foldl (fun s d => s.flushWays p d) s).forgetCopies x
  let gone := resetPlace p x
  let mine := fun (c : Nat) => x.clus.getLsbD (c / 4)
  let s := { s with
    mem := s.mem.keep fun a _ => !gone a, lineFull := s.lineFull.keep fun a _ => !gone a
    poison := s.poison.keep fun a _ => !gone a, owned := s.owned.keep fun a _ => !gone a
    mma := s.mma.keep fun k _ => !x.clus.getLsbD k, cores := s.cores.keep fun c _ => !mine c
    slots := s.slots.mapV fun key (w : Warp) => if mine (key / 128) then { gen := w.gen } else w
    faults := s.faults.filter fun f => f.part != p, fills := s.fills.filter fun f => f.part != p
    kills := s.kills.filter fun q => q.part != p || q.pages.isEmpty, feOps := s.feOps.filter fun o => o.part != p }
  (s.tlbDrop fun k => k / 2 ^ 47 == p).setPart p { s.part p with rstBusy := false }

/-- PARTITION_RESET_COMPLETE. -/
def execPartitionResetComplete (part : PartId) (s : State) : Host.Outcome State Fault Refusal :=
  eventIf (s.part part.val).rstBusy "PARTITION_RESET_COMPLETE" (s.finishReset part.val)

/-! ## Buckets (R413) -/

/-- Has a warp that sleeps something under way that makes requests: an operand-log entry, a step of the capsule protocol,
a task's write-back or fill? -/
def Warp.requests (w : Warp) : Bool :=
  w.st == .asleep && (!w.log.isEmpty || w.cap.isSome || (w.task.any fun t => t.fin.isSome) ||
    match w.wait with | .contend .. => true | .record .. => true | _ => false)

/-- Has a core of a partition requests of its engines under way: a command, a readiness word to read, a task to admit or to
stage, a probe? -/
def State.coreRequests (s : State) (p : Nat) (x : Core) : Bool :=
  (x.cmds.any fun e => e.2.ident.part == p) ||
  (match x.occ with | some j => (s.job j).part == p | none => false) &&
    (!x.monitor.isEmpty || x.steal.isSome ||
      x.bob.any fun e => e.st == .staging || (e.st == .waiting && e.order.isSome))

/-- Has a partition neither an ACTIVE slot nor anything of an engine pending on a die? A partition whose only request waits
for tokens is not idle, so that it waits one period at most (R413). -/
def State.idleOn (s : State) (p d : Nat) : Bool :=
  !(s.slots.any fun q => dieOf (q.1 / 128) == d && q.2.id.part == p && (q.2.st == .active || q.2.requests)) &&
  !(s.cores.any fun q => dieOf q.1 == d && s.coreRequests p q.2) &&
  !(s.fills.any fun x => x.part == p && dieOf x.core == d) && !(s.copies.any fun x => x.part == p)

/-- The tokens of the partitions of a die after a refill. -/
def State.refill (s : State) (d : Nat) : FMap Nat :=
  let ps := (List.range 8).filter fun p => (s.part p).en && (s.part p).share d != 0
  let share := fun p => (s.part p).share d
  let q := fun p => 500 * share p
  let pool := ((ps.filter fun p => s.idleOn p d).map q).sum
  let act := ps.filter fun p => !s.idleOn p d
  let total := (act.map share).sum
  let got := fun p => pool * share p / total
  let rest := pool - (act.map got).sum
  (act.zipIdx.map fun p => (p.1, q p.1 + got p.1 + if p.2 < rest then 1 else 0))

/-- BUCKET_REFILL, at every 1,024th tick. -/
def execBucketRefill (d : DieId) (s : State) : Host.Outcome State Fault Refusal :=
  let n := s.tick / 1024 + 1
  let new := s.refill d.val
  let b := (List.range 8).foldl (fun b p => FMap.put b 0 (8 * d.val + p) (new.getD p 0)) s.buckets
  eventIf (decide (s.refills.getD d.val 0 < n)) "BUCKET_REFILL"
    { s with buckets := b, refills := s.refills.put 0 d.val n }

/-! ## HD_GROUP, HD_GMEM (R418 to R420) -/

/-- A place of device memory when the packages of the group have moved: a byte stays in the package that holds it, the package at
position q before at position `move q` now (R403, R418). -/
def movedPlace (move : Nat → Option Nat) (a : Nat) : Option Nat :=
  if isGlobalPlace a then (move (posOf a)).map fun q => a / 2 ^ 42 * 2 ^ 42 + 2 ^ 39 * q + a % 2 ^ 39 else some a

/-- A map by place after the same move. -/
def movedMap {α : Type} (move : Nat → Option Nat) (m : FMap α) : FMap α :=
  m.foldl (fun t p => match movedPlace move p.1 with | some a => FMap.ins t a p.2 | none => t) []

/-- Memory after the group's table has changed: the package's own stands at its new position, another member's at the position that
now names that member; of packages that the table has not named before nothing is listed (R418; log 10). -/
def State.regroup (s t : State) : State :=
  let move := fun (q : Nat) =>
    if q = s.groupPos then some t.groupPos
    else if s.groupHas q then (List.range 8).find? fun r => r != t.groupPos && t.groupHas r && t.packageAt r == s.packageAt q
    else none
  let same := s.groupPos = t.groupPos ∧ s.hd.gmem = t.hd.gmem
  if same then t
  else { t with mem := movedMap move t.mem, tags := movedMap move t.tags, poison := movedMap move t.poison }

/-- A write of HD_GROUP (0), HD_GMEM0 (1) or HD_GMEM1 (2): discarded while a partition is enabled. A member that was
unreachable may rejoin after a write of HD_GROUP. -/
def State.writeGroup (s : State) (reg : Nat) (v : W64) : State :=
  if (List.range 8).any fun p => (s.part p).en then s
  else
    let hd := s.hd
    (s.regroup (match reg with
    | 0 => { s with group := v &&& 0xFFF7FF, hd := { hd with unreach := 0 } }
    | 1 => { s with hd := { hd with gmem := (hd.gmem.extractLsb' 64 32) ++ v } }
    | _ => { s with hd := { hd with gmem := (v.truncate 32) ++ (hd.gmem.extractLsb' 0 64) } })).countCut

def execHdGroupWrite (reg : Fin 3) (v : BitVec 64) (s : State) : Host.Outcome State Fault Refusal :=
  s.hostWrites fun s => s.writeGroup reg.val v

/-! ## Functions (R421) -/

/-- The partition of a function. -/
def State.partOf (s : State) (fn : Nat) : Option Nat :=
  let named := (List.range 8).filter fun p => (s.part p).fn.toNat == fn
  (named.find? fun p => (s.part p).en) <|> named.find? fun p => (s.part p).clus != 0

/-- FUNCTION_LEVEL_RESET: of a virtual function its partition, of the physical function every partition. -/
def execFunctionLevelReset (fn : FuncId) (s : State) : Host.Outcome State Fault Refusal :=
  s.hostWrites fun s =>
    if fn.val = 0 then (List.range 8).foldl State.startReset s
    else match s.partOf fn.val with
      | some p => s.startReset p
      | none => s

def execPcieLinkDown (s : State) : Host.Outcome State Fault Refusal :=
  eventIf s.pcie "PCIE_LINK_DOWN" { s with pcie := false }

/-- PCIE_LINK_UP, from the load stage on (R427); in recovery vector 0 of the physical function is raised (R430). -/
def execPcieLinkUp (s : State) : Host.Outcome State Fault Refusal :=
  let t := { s with pcie := true }
  eventIf (!s.pcie && decide (2 ≤ s.bt.stage.toNat)) "PCIE_LINK_UP" (if s.bt.stage = 5 then t.sendVector 0 0 else t)

/-! ## BAR2 (R422) -/

/-- The places of a BAR2 access; none where it is refused. -/
def State.bar2Segs (s : State) (fn off n : Nat) (kind : AccessKind) : Option Segs :=
  if !s.barOpen then none
  else if fn = 0 then
    let stk := s.hd.b2sel.toNat
    if 48 * 2 ^ 30 < off + n then none
    else some ((cuts 128 (n / 128 + 2) off n).map fun p => (2 ^ 39 * (stk / 8) + 2 ^ 36 * (stk % 8) + p.1, p.2))
  else
    match s.partOf fn with
    | none => none
    | some p =>
      let z := s.feSpan p kind (BitVec.ofNat 64 (((s.part p).b2base.toNat + off) % 2 ^ 57)) n
      if z.faults.isEmpty then some z.segs else none

/-- MM_FSTAT.B2ERR of a function's partition advances. -/
def State.bar2Error (s : State) (fn : Nat) : State :=
  match s.partOf fn with
  | none => s
  | some p => let x := s.part p; s.setPart p { x with b2err := x.b2err + 1 }

/-- Does a BAR2 access wait for an engine that owns a line of it (R122, R146)? -/
def State.bar2Waits (s : State) (segs : Option Segs) : Bool := match segs with | some z => s.feHeld z | none => false

/-- BAR2_READ: performed at the home slices, the cores recorded for its lines drained. -/
def execBar2Read (fn : FuncId) (off : Nat) (n : Nat) (s : State) : Host.Outcome State Fault Refusal :=
  let r := match s.bar2Segs fn.val off n .read with
    | some segs =>
      let (bs, s) := s.feReads segs
      { s with bar2 := bs }
    | none => { s.bar2Error fn.val with bar2 := List.replicate n 0xFF }
  eventIf (s.pcie && decide (off + n ≤ 2 ^ 36) && !s.bar2Waits (s.bar2Segs fn.val off n .read)) "BAR2_READ" r

/-- BAR2_WRITE. -/
def execBar2Write (fn : FuncId) (off : Nat) (bytes : List (BitVec 8)) (s : State) : Host.Outcome State Fault Refusal :=
  let r := match s.bar2Segs fn.val off bytes.length .write with
    | some segs => s.feWrites segs bytes
    | none => s.bar2Error fn.val
  let waits := s.bar2Waits (s.bar2Segs fn.val off bytes.length .write)
  eventIf (s.pcie && decide (off + bytes.length ≤ 2 ^ 36) && !waits) "BAR2_WRITE" r

end Sys2Proof.Machine
end

