-- ==== Sys2Proof/Machine/Boot.lean ====
section
/-! DEFINITION. The recovery core: bundles and their checks (R424 to R426), package reset and boot (R427, R428), updates
and recovery (R429, R430), measurement (R431), the I3C target (R433), cold reset (R439). -/

namespace Sys2Proof.Machine

/-! ## Bundles (R425, R426) -/

/-- The first failing check of a bundle against the fused root key hash and minimum SVN; zero when it is accepted. -/
def bundleError (rootKey : List Byte) (minSvn : Nat) (b : List Byte) : Nat :=
  let v := descNat b
  let fw := v 8 4
  let bs := v 12 4
  let firmware := (b.drop 256).take fw
  let stream := (b.drop (256 + fw)).take bs
  if v 0 4 != 0x42465A47 || v 4 2 != 1 || v 208 48 != 0 || fw % 4096 != 0 || decide (2 ^ 23 < fw) ||
      decide (112 * 2 ^ 20 < bs) || decide (b.length < 256 + fw + bs) then 1
  else if sha256 ((b.drop 80).take 64) != rootKey then 2
  else if !ecdsaVerify ((b.drop 80).take 64) ((b.drop 144).take 64) (b.take 144) then 3
  else if v 6 2 < minSvn then 4
  else if sha256 firmware != (b.drop 16).take 32 then 5
  else if sha256 stream != (b.drop 48).take 32 then 6
  else 0

def bundleSvn (b : List Byte) : Nat := descNat b 6 2

/-! ## Package reset (R427, R428) -/

/-- What is left of the machine when a package reset starts: the flash, the fuses, the memory until the clear stage, and the
ends of its links; HM_PWR reads 0 until the next sample (R434). -/
def State.packageReset (s : State) : State :=
  { mem := s.mem, tags := s.tags, poison := s.poison, dts := s.dts, turns := s.turns, late := s.late, lags := s.lags
    eventTurn := s.eventTurn, freeIdx := s.freeIdx, nextJob := s.nextJob, msix := s.msix, sent := s.sent
    bt := { flash := s.bt.flash, fsvn := s.bt.fsvn, rootKey := s.bt.rootKey, resets := s.bt.resets + 1, reply := s.bt.reply
            secret := s.bt.secret, idKey := Config.identityScalar s.bt.secret }
    hm := { warned := s.hm.warned, trendHours := s.hm.trendHours, trends := s.hm.trends } }

/-- A package reset that a command asks for waits for the end of a flash write or a measurement (R428). -/
def State.askReset (s : State) : State :=
  match s.bt.busy with
  | .idle => s.packageReset
  | _ => { s with bt := { s.bt with pending := true } }

/-- Does the recovery core work: H0 powered and not lost (R433, R437)? -/
def State.coreAlive (s : State) : Bool := s.hm.power != .stageOff && s.hd.up.getLsbD 0

/-- A flash whose header block is erased (R429). -/
def erased (flash : List Byte) : List Byte := List.replicate 4096 0xFF ++ flash.drop 4096

/-- The package enters recovery; vector 0 of the physical function is raised when the link is up (R430). -/
def State.recover (s : State) (err : Nat) : State :=
  { s with bt := { s.bt with stage := 5, err := BitVec.ofNat 8 err } }.sendVector 0 0

/-- POWER_ON: power has returned (R427, R437). -/
def execPowerOn (s : State) : Host.Outcome State Fault Refusal :=
  eventIf (s.hm.power == .stageOff) "POWER_ON" s.packageReset

/-- COLD_RESET: the management controller removes and returns power (R439). -/
def execColdReset (s : State) : Host.Outcome State Fault Refusal := .next s.packageReset

/-- BOOT_VERIFY: stage 1. -/
def execBootVerify (s : State) : Host.Outcome State Fault Refusal :=
  let b := s.bt
  let e := bundleError b.rootKey b.fsvn b.flash
  eventIf (b.stage == 1) "BOOT_VERIFY"
    (if e = 0 then
      { s with bt := { b with stage := 2, err := 0, svn := BitVec.ofNat 8 (bundleSvn b.flash)
                              fwHash := (b.flash.drop 16).take 32, bsHash := (b.flash.drop 48).take 32 } }
    else s.recover e)

/-- BOOT_LOAD: stage 2; a failure leads to recovery. -/
def execBootLoad (ok : Bool) (s : State) : Host.Outcome State Fault Refusal :=
  eventIf (s.bt.stage == 2) "BOOT_LOAD"
    (if ok then { s with pcie := true, bt := { s.bt with stage := 3 } } else s.recover s.bt.err.toNat)

/-- BOOT_CLEAR: stage 3. Every byte of device memory is zero, every tag empty, tick and TAI zero; host memory stays. -/
def execBootClear (s : State) : Host.Outcome State Fault Refusal :=
  eventIf (s.bt.stage == 3) "BOOT_CLEAR"
    { s with mem := s.mem.keep fun a _ => isHostPlace a, tags := [], lineFull := []
             poison := []
             tick := 0, tai := 0, bt := { s.bt with stage := 4 } }

/-- BOOT_READY: stage 4. -/
def execBootReady (s : State) : Host.Outcome State Fault Refusal :=
  let hm := s.hm
  eventIf (s.bt.stage == 4 && !s.feReady && s.hd.up.getLsbD 0) "BOOT_READY"
    { s with feReady := true, hm := { hm with pulse := s.tick } }

/-! ## BT_CMD (R428 to R432) -/

/-- A write of BT_CMD: discarded while a flash write runs. -/
def State.btCommand (s : State) (op : Nat) (key : BitVec 16) (run : State → State) : Host.Outcome State Fault Refusal :=
  .next (match s.bt.busy with
    | .update _ => s
    | _ => if s.coreAlive then run { s with bt := { s.bt with op := BitVec.ofNat 4 op, key := key } } else s)

/-- The result of a command. -/
def State.btRes (s : State) (r : Nat) : State := { s with bt := { s.bt with res := BitVec.ofNat 2 r } }

/-- BT_UPDADDR and BT_UPDLEN's bytes of device memory. -/
def State.updBytes (s : State) : List Byte × State :=
  s.feReads (cuts 128 (s.bt.updlen.toNat / 128 + 2) s.bt.updaddr.toNat s.bt.updlen.toNat)

/-- A bundle is checked; one that passes begins to be written to flash (R429, R430). -/
def State.takeBundle (s : State) (b : List Byte) : State :=
  let e := bundleError s.bt.rootKey s.bt.fsvn b
  if e ≠ 0 then ({ s with bt := { s.bt with err := BitVec.ofNat 8 e } }).btRes 2
  else ({ s with bt := { s.bt with err := 0, busy := .update b, flash := erased s.bt.flash } }).btRes 3

/-- A bundle from the host is taken in one stage, and refused in another or while a measurement runs. -/
def State.hostBundle (s : State) (stage : BitVec 4) : State :=
  if s.bt.stage ≠ stage ∨ s.bt.busy ≠ .idle then s.btRes 1
  else
    let (b, s) := s.updBytes
    s.takeBundle b

/-- BT_CMD with OP 1, which needs no KEY. -/
def State.bundleUpdate (s : State) (key : BitVec 16) : Host.Outcome State Fault Refusal :=
  s.btCommand 1 key fun s => s.hostBundle 4

/-- BUNDLE_UPDATE: OP 1. -/
def execBundleUpdate (s : State) : Host.Outcome State Fault Refusal := s.bundleUpdate 0

/-- BT_CMD with OP 5; refused with BT_RES 1 when the other source's bundle came first (R430). -/
def State.recoveryBundle (s : State) (key : BitVec 16) : Host.Outcome State Fault Refusal :=
  match s.bt.busy with
  | .update _ => .next (if s.bt.stage = 5 then s.btRes 1 else s)
  | _ => s.btCommand 5 key fun s => s.hostBundle 5

/-- RECOVERY_BUNDLE: OP 5. -/
def execRecoveryBundle (s : State) : Host.Outcome State Fault Refusal := s.recoveryBundle 0

/-- What happens when an operation of the recovery core has ended: a package reset that waited begins (R428). -/
def State.opOver (s : State) : State := if s.bt.pending then s.packageReset else s

/-- UPDATE_COMPLETE: the bundle is in flash; in recovery the package resets itself (R429, R430). A lost recovery core completes nothing
(R433). -/
def execUpdateComplete (s : State) : Host.Outcome State Fault Refusal :=
  match s.bt.busy with
  | .update b =>
    let t := ({ s with bt := { s.bt with busy := .idle, flash := b } }).btRes 0
    eventIf s.coreAlive "UPDATE_COMPLETE" (if s.bt.stage = 5 then t.packageReset else t.opOver)
  | _ => .refused (.notEnabled "UPDATE_COMPLETE")

/-- BT_CMD with OP 2. -/
def State.measure (s : State) (key : BitVec 16) : Host.Outcome State Fault Refusal :=
  s.btCommand 2 key fun s =>
    if s.bt.busy ≠ .idle then s.btRes 1
    else ({ s with bt := { s.bt with busy := .measure (bytesOf 32 s.bt.nonce.toNat) false } }).btRes 3

/-- MEASURE: OP 2. -/
def execMeasure (s : State) : Host.Outcome State Fault Refusal := s.measure 0

/-- Bytes of a register block, from its 8-byte registers. -/
def regBytes (rs : List W64) : List Byte := rs.flatMap fun r => bytesOf 8 r.toNat

/-- The PT block of a partition as its registers read, PT_CTL to PT_IKEY3 (R411). -/
def Partition.block (p : Partition) (rts : Nat) : List W64 :=
  [if p.en then 1 else 0, BitVec.ofNat 64 ((if p.rstBusy then 1 else 0) + 16 * p.err.toNat), p.clus.extractLsb' 0 64,
   p.clus.extractLsb' 64 64, p.chan, p.l2w, p.dsp.zeroExtend 64, p.bkt.zeroExtend 64, p.fn.zeroExtend 64,
   p.pwr.zeroExtend 64, BitVec.ofNat 64 ((if p.pin then 1 else 0) + 256 * p.step.toNat), BitVec.ofNat 64 rts,
   p.ikey.extractLsb' 0 64, p.ikey.extractLsb' 64 64, p.ikey.extractLsb' 128 64, p.ikey.extractLsb' 192 64]

/-- The configuration that a report's hash covers (R431). -/
def State.configBytes (s : State) : List Byte :=
  (((List.range 8).map s.part).filter fun p => p.en).flatMap (fun p => regBytes (p.block (rangeShare p))) ++
  regBytes [s.group, s.hd.gmem.extractLsb' 0 64, s.hd.gmem.extractLsb' 64 64]

/-- A report without its signature (R431). -/
def State.reportBody (s : State) (nonce : List Byte) : List Byte :=
  let b := s.bt
  bytesOf 4 0x50525A47 ++ bytesOf 2 1 ++ bytesOf 2 b.svn.toNat ++ bytesOf 8 Config.serial.toNat ++
  padTo 32 nonce ++ padTo 32 b.fwHash ++ padTo 32 b.bsHash ++ sha256 s.configBytes ++ bytesOf 8 s.tick ++
  bytesOf 8 b.resets ++ bytesOf 32 0

/-- A report as the ROM's service signs it, with the identity key over the body (R424, R431); its per-message number is free. -/
def State.signedReport (s : State) (nonce : List Byte) : List Byte × State :=
  let body := s.reportBody nonce
  let (k, s) := s.takeNat
  (body ++ ecdsaSign s.bt.idKey k body, s)

/-- MEASUREMENT_REPORT. -/
def execMeasurementReport (s : State) : Host.Outcome State Fault Refusal :=
  match s.bt.busy with
  | .measure nonce i3c =>
    let (bytes, t) := s.signedReport nonce
    let t := { t with bt := { t.bt with busy := .idle } }
    let t :=
      if i3c then { t with bt := { t.bt with reply := 0 :: bytes } }
      else (t.feWrites (cuts 128 4 t.bt.maddr.toNat 256) bytes).btRes 0
    eventIf s.coreAlive "MEASUREMENT_REPORT" t.opOver
  | _ => .refused (.notEnabled "MEASUREMENT_REPORT")

/-- The key of OP 3 and OP 4. -/
def btKey : BitVec 16 := 0xA5C3

/-- COMMIT_SVN: OP 3. -/
def execCommitSvn (key : BitVec 16) (s : State) : Host.Outcome State Fault Refusal :=
  s.btCommand 3 key fun s =>
    if key = btKey ∧ s.bt.fsvn < s.bt.svn.toNat then
      ({ s with bt := { s.bt with fsvn := min 64 s.bt.svn.toNat } }).btRes 0
    else s.btRes 1

/-- PACKAGE_RESET: OP 4. -/
def execPackageReset (key : BitVec 16) (s : State) : Host.Outcome State Fault Refusal :=
  s.btCommand 4 key fun s => if key = btKey then s.askReset else s.btRes 1

/-! ## I3C (R433) -/

/-- BT_STAT (R432). -/
def State.btStat (s : State) : W64 :=
  let b := s.bt
  BitVec.ofNat 64 (b.stage.toNat + 2 ^ 4 * b.err.toNat + 2 ^ 16 * min 64 b.fsvn + 2 ^ 24 * b.svn.toNat +
    2 ^ 32 * (if b.busy = .idle then 0 else 1))

/-- An I3C command's reply; none comes from a recovery core that is lost. -/
def State.i3c (s : State) (run : State → List Byte × State) : Host.Outcome State Fault Refusal :=
  if s.coreAlive then
    let (r, t) := run s
    .next { t with bt := { t.bt with reply := r } }
  else .next { s with bt := { s.bt with reply := [] } }

/-- I3C_STATUS. -/
def execI3cStatus (s : State) : Host.Outcome State Fault Refusal := s.i3c fun s => (0 :: bytesOf 8 s.btStat.toNat, s)

/-- I3C_IMAGE_BLOCK: taken in recovery. -/
def execI3cImageBlock (num : BitVec 32) (bytes : List (BitVec 8)) (s : State) : Host.Outcome State Fault Refusal :=
  s.i3c fun s =>
    if s.bt.stage ≠ 5 ∨ s.bt.busy ≠ .idle then ([1], s)
    else ([0], { s with bt := { s.bt with blocks := s.bt.blocks.ins num.toNat bytes } })

/-- The bundle that the blocks make; a block that has not arrived is zero. -/
def joinBlocks (m : FMap (List Byte)) (len : Nat) : List Byte :=
  ((List.range ((len + 4095) / 4096)).flatMap fun i => m.getD i (List.replicate 4096 0)).take len

/-- I3C_IMAGE_END. -/
def execI3cImageEnd (len : BitVec 32) (s : State) : Host.Outcome State Fault Refusal :=
  s.i3c fun s =>
    if s.bt.stage ≠ 5 ∨ s.bt.busy ≠ .idle then ([1, 0], s)
    else
      let far := s.bt.blocks.keys.any fun i => decide ((len.toNat + 4095) / 4096 ≤ i)
      let b := joinBlocks s.bt.blocks len.toNat
      let e := if far then 1 else bundleError s.bt.rootKey s.bt.fsvn b
      let s := { s with bt := { s.bt with blocks := [], err := BitVec.ofNat 8 e } }
      if e ≠ 0 then ([2, BitVec.ofNat 8 e], s)
      else ([0, 0], { s with bt := { s.bt with busy := .update b, flash := erased s.bt.flash } })

/-- I3C_MEASURE; the reply comes with the report. -/
def execI3cMeasure (nonce : List (BitVec 8)) (s : State) : Host.Outcome State Fault Refusal :=
  s.i3c fun s =>
    if s.bt.busy ≠ .idle then ([1], s) else ([], { s with bt := { s.bt with busy := .measure nonce true } })

/-- I3C_PACKAGE_RESET. -/
def execI3cPackageReset (key : BitVec 16) (s : State) : Host.Outcome State Fault Refusal :=
  s.i3c fun s => if key = btKey then ([0], s.askReset) else ([1], s)

end Sys2Proof.Machine
end

