-- ==== Sys2Proof/Machine/Health.lean ====
section
/-! DEFINITION. The health block's trends (R436), the power controller (R437, R438), and the front end's heartbeat
(R440). -/

namespace Sys2Proof.Machine

/-! ## End of life (R436) -/

/-- Has a resource reached its threshold: 40,000 ppm or 25 mV of a cluster, 1,000 corrected symbols an hour of a stack, an eye margin of
15 % of a port, an efficiency loss of 3 points of a regulator? -/
def trendReached (t : Trend) : Bool :=
  match t.kind.toNat with
  | 1 => decide (40000 ≤ t.value.toNat) || decide (t.margin.toNat ≤ 25)
  | 2 => decide (1000 ≤ t.value.toNat)
  | 3 => decide (t.value.toNat ≤ 15)
  | 4 => decide (30 ≤ t.value.toNat)
  | _ => false

/-- The hours until a resource's threshold: none once it has reached it; else as its samples extrapolate, for which the spec gives no
method (DESIGN CHOICE: log 113). -/
def State.hoursLeft (s : State) (t : Trend) : Nat × State :=
  if trendReached t then (0, s)
  else
    let (n, s) := s.takeNat
    (n % 2 ^ 32, s)

/-- The trends with their hours. -/
def State.hoursOf : List Trend → State → List (Nat × Trend) × State
  | [], s => ([], s)
  | t :: ts, s =>
    let (n, s) := s.hoursLeft t
    let (xs, s) := s.hoursOf ts
    ((n, t) :: xs, s)

/-- The trend with the fewest hours. -/
def leastTrend : List (Nat × Trend) → Option (Nat × Trend)
  | [] => none
  | t :: ts =>
    match leastTrend ts with
    | some x => if x.1 < t.1 then some x else some t
    | none => some t

/-- The hour's samples join the trends, and HM_CAGE shows each cluster's. -/
def Health.sampled (h : Health) (ts : List Trend) : Health :=
  ts.foldl (fun h t =>
    let key := 256 * t.kind.toNat + t.ident.toNat
    { h with
      trends := h.trends.ins key ((t.value.toNat, t.margin.toNat) :: h.trends.getD key [])
      cage := if t.kind.toNat = 1 then h.cage.ins t.ident.toNat (t.value.toNat + 2 ^ 16 * t.margin.toNat) else h.cage }) h

/-- HM_EOL and HM_EOLB after an hour: all ones until 168 hours of trend exist; then the least of the hours, its resource, and the
bounds of its interval, which are free but for LOW ≤ HOURS ≤ HIGH. -/
def State.trended (s : State) (ts : List Trend) : State :=
  let h := { s.hm.sampled ts with trendHours := s.hm.trendHours + 1, eolAt := s.tick }
  let all : BitVec 32 := 0xFFFFFFFF
  let (xs, s) := s.hoursOf ts
  match if 168 ≤ h.trendHours then leastTrend xs else none with
  | none => { s with hm := { h with hours := all, low := all, high := all, limiter := 0, limid := 0 } }
  | some (n, t) =>
    let (a, s) := s.takeNat
    let (b, s) := s.takeNat
    { s with hm := { h with hours := BitVec.ofNat 32 n, low := BitVec.ofNat 32 (a % (n + 1))
                            high := BitVec.ofNat 32 (n + b % (2 ^ 32 - n)), limiter := t.kind, limid := t.ident } }

/-- A health event: the physical function's vector HM_CTL.VEC. -/
def State.healthEvent (s : State) : State := s.sendVector 0 s.hm.vec.toNat

/-- An hour in ticks (R7). -/
def hourTicks : Nat := msTicks 3600000

/-- EOL_RECOMPUTE, once an hour: an event when HOURS is first below 2,000, and again first below 500. -/
def execEolRecompute (trend : List Trend) (s : State) : Host.Outcome State Fault Refusal :=
  let t := s.trended (trend.filter fun t => decide (1 ≤ t.kind.toNat) && decide (t.kind.toNat ≤ 4))
  let h := t.hm
  let a := decide (h.hours.toNat < 2000)
  let b := decide (h.hours.toNat < 500)
  let u := { t with hm := { h with warned := (h.warned.1 || a, h.warned.2 || b) } }
  let u := if a && !h.warned.1 then u.healthEvent else u
  eventIf (s.coreAlive && decide (s.hm.eolAt + hourTicks ≤ s.tick)) "EOL_RECOMPUTE" (if b && !h.warned.2 then u.healthEvent else u)

/-! ## Power (R437, R438) -/

/-- POWER_SAMPLE: the input in mV, the power in W averaged over 1 ms, the hottest junction in 0.1 °C. -/
def execPowerSample (vin pin tj : BitVec 16) (s : State) : Host.Outcome State Fault Refusal :=
  let h := s.hm
  let low := decide (vin.toNat < 40000)
  let since := fun (b : Bool) (x : Option Nat) => if b then some (x.getD s.tick) else none
  .next { s with hm := { h with
    vin := vin, pin := pin, tj := tj
    overCap := decide (h.capNow < pin.toNat), est := pin.toNat, lowSince := since low h.lowSince
    okSince := since (!low) h.okSince, calm := since (decide (100 * pin.toNat ≤ 95 * h.capNow)) h.calm } }

/-- The cluster to lower next among some: the highest clock, then the lowest number. -/
def State.fastest (s : State) (ks : List Nat) : Option Nat :=
  ks.foldl (fun best k =>
    if s.clock k = 0 then best
    else
      match best with
      | none => some k
      | some b => if s.clock b < s.clock k then some k else some b) none

/-- Clusters of the enabled partitions that are pinned, or that are not, ascending. -/
def State.clustersWhere (s : State) (pin : Bool) : List Nat :=
  (List.range 128).filter fun k => (List.range 8).any fun p =>
    let x := s.part p
    x.en && x.clus.getLsbD k && x.pin == pin

/-- The estimator charges 25 W for a cluster step; the power is over the cap until the estimate is at or below it (R437, R438). -/
def Health.charged (h : Health) : Health := { h with est := h.est - 25, overCap := h.overCap && decide (h.capNow < h.est - 25) }

/-- One cluster of those that a test admits is lowered by 50 MHz: an unpinned partition's, else a pinned one's. -/
def State.lowerOne (s : State) (f : Nat → Bool) : Option State :=
  let h := s.hm.charged
  let go := fun (k : Nat) (pin : Bool) =>
    { s with clocks := s.clocks.put 12 k (s.clock k - 1)
             hm := { h with throt := true, pinlow := h.pinlow || pin, stepped := s.tick, lowered := k :: h.lowered } }
  match s.fastest ((s.clustersWhere false).filter f), s.fastest ((s.clustersWhere true).filter f) with
  | some k, _ => some (go k false)
  | none, some k => some (go k true)
  | none, none => none

/-- The latest step is taken back; with the last one THROT and PINLOW are clear. -/
def State.raiseOne (s : State) : Option State :=
  let h := s.hm
  match h.lowered with
  | [] => none
  | k :: ks =>
    let pinned := ks.any fun x => decide (x ∈ s.clustersWhere true)
    some { s with clocks := s.clocks.put 12 k (min 18 (s.clock k + 1))
                  hm := { h with lowered := ks, stepped := s.tick, throt := !ks.isEmpty, pinlow := h.pinlow && pinned } }

/-- 100 µs since the latest step: 150,000 ticks. -/
def State.mayStep (s : State) : Bool := decide (s.hm.stepped + 150000 ≤ s.tick)

/-- THROTTLE_STEP: a cluster is lowered while the power is over the cap; the clocks return, in the reverse order, once
the average has stayed 5 % below the cap for 10 ms. -/
def execThrottleStep (s : State) : Host.Outcome State Fault Refusal :=
  let calm := match s.hm.calm with | some t => decide (t + msTicks 10 ≤ s.tick) | none => false
  match if !s.mayStep then none else if s.hm.overCap then s.lowerOne fun _ => true else if calm then s.raiseOne else none with
  | some t => .next t
  | none => .refused (.notEnabled "THROTTLE_STEP")

/-- THERMAL_THROTTLE: the die's clusters are lowered as for the cap. -/
def execThermalThrottle (d : DieId) (s : State) : Host.Outcome State Fault Refusal :=
  match if s.mayStep ∧ 1050 ≤ s.hm.tj.toNat then s.lowerOne fun k => k / 32 == d.val else none with
  | some t => .next t
  | none => .refused (.notEnabled "THERMAL_THROTTLE")

/-- THERMAL_SHUTDOWN: the core rails are off; the recovery core answers I3C status. -/
def execThermalShutdown (s : State) : Host.Outcome State Fault Refusal :=
  eventIf (decide (1250 ≤ s.hm.tj.toNat)) "THERMAL_SHUTDOWN" { s with hm := { s.hm with power := .railsOff } }

/-- INPUT_UNDERVOLTAGE: below 40 V for 1 ms. -/
def execInputUndervoltage (s : State) : Host.Outcome State Fault Refusal :=
  let since := match s.hm.lowSince with | some t => decide (t + msTicks 1 ≤ s.tick) | none => false
  eventIf (!s.hm.underv && since) "INPUT_UNDERVOLTAGE" { s with hm := { s.hm with underv := true } }

/-- INPUT_VOLTAGE_HELD: 40 V has held for 1 s. -/
def execInputVoltageHeld (s : State) : Host.Outcome State Fault Refusal :=
  let since := match s.hm.okSince with | some t => decide (t + msTicks 1000 ≤ s.tick) | none => false
  eventIf (s.hm.underv && since) "INPUT_VOLTAGE_HELD" { s with hm := { s.hm with underv := false } }

/-- INPUT_OUT_OF_RANGE: below 36 V or above 63 V the first stage turns off. -/
def execInputOutOfRange (s : State) : Host.Outcome State Fault Refusal :=
  let sampled := s.hm.lowSince.isSome || s.hm.okSince.isSome
  eventIf (sampled && (decide (s.hm.vin.toNat < 36000) || decide (63000 < s.hm.vin.toNat))) "INPUT_OUT_OF_RANGE"
    { s with hm := { s.hm with power := .stageOff } }

/-! ## Heartbeat (R440) -/

/-- FE_HEARTBEAT, every 1 ms. -/
def execFeHeartbeat (s : State) : Host.Outcome State Fault Refusal :=
  eventIf (s.feRuns && decide (s.hm.pulse + msTicks 1 ≤ s.tick)) "FE_HEARTBEAT" { s with hm := { s.hm with pulse := s.tick } }

/-- HEARTBEAT_TIMEOUT: 1 s without a pulse. -/
def execHeartbeatTimeout (s : State) : Host.Outcome State Fault Refusal :=
  let t := { s with hm := { s.hm with fehb := true, fehbAt := s.tick } }
  eventIf (s.feReady && s.coreAlive && !s.hm.fehb && decide (s.hm.pulse + msTicks 1000 ≤ s.tick)) "HEARTBEAT_TIMEOUT"
    (t.healthEvent.sendVector 0 0)

/-- AUTO_RESET: with AUTORST set, 1 s after FEHB was set, a package reset. -/
def execAutoReset (s : State) : Host.Outcome State Fault Refusal :=
  eventIf (s.coreAlive && s.hm.fehb && s.hm.autorst && decide (s.hm.fehbAt + msTicks 1000 ≤ s.tick)) "AUTO_RESET" s.askReset

end Sys2Proof.Machine
end

