-- ==== Sys2Proof/Machine/Registers.lean ====
section
/-! DEFINITION. Writes of the host to device registers, each field by its access code (R10, R11, R444): the FE, MM, PT,
HD, BT, HM and error-log blocks and the MSI-X table in BAR0 (R385, R386, R409, R411, R420, R421, R432, R434, R435). -/

namespace Sys2Proof.Machine

/-- An RW field's new value: one outside the field's range leaves it unchanged (R444). -/
def rwRange {n : Nat} (old : BitVec n) (new lo hi : Nat) : BitVec n := if lo ≤ new ∧ new ≤ hi then BitVec.ofNat n new else old

/-- An address field, bits 56:0, that has to be aligned: a value that is not leaves it unchanged (R444). -/
def rwAddr (old v : W64) (k : Nat) : W64 := if bits v 0 57 % k = 0 then v &&& 0x01FFFFFFFFFFFFFF else old

/-- The same beside HOST in bit 63, which the write gives whatever the address is (R444). -/
def rwHostAddr (old v : W64) (k : Nat) : W64 := (rwAddr old v k &&& 0x01FFFFFFFFFFFFFF) ||| (v &&& 0x8000000000000000)

/-- A W1C field: bits written as 1 are cleared. -/
def w1c {n : Nat} (old : BitVec n) (v : W64) (lo : Nat) : BitVec n := old &&& ~~~(BitVec.ofNat n (bits v lo n))

/-! ## The front end (R385, R386) -/

/-- A write of FE_JCMD. -/
def State.writeJcmd (s : State) (p : Nat) (v : W64) : State :=
  let job := bits v 0 32
  match bits v 32 3 with
  | 1 => s.cmdPreempt p job (bits v 35 2)
  | 2 => s.cmdPreemptDie p job (bits v 35 2)
  | 3 => s.cmdKill p job (bits v 35 2)
  | _ =>
    let x := s.part p
    if !s.feRuns || x.jbusy then s else s.setPart p { x with jcmd := v.truncate 37 }

/-- A write in the front end's global block. PTMPER 0 is taken as 1 and reads back as 1 (log 108). -/
def State.writeFe (s : State) (p off : Nat) (v : W64) : State :=
  let x := s.part p
  let put := fun (x : Partition) => s.setPart p x
  let d := s.taiD
  match off with
  | 0x10 => s.writeJcmd p v
  | 0x20 => put { x with rqbase := rwAddr x.rqbase v 64 }
  | 0x28 => put { x with rqlog2 := rwRange x.rqlog2 (bits v 0 4) 2 12, rqvec := BitVec.ofNat 6 (bits v 8 6) }
  | 0x34 => put { x with rqridx := v.truncate 32 }
  | 0x38 => put { x with rqlost := w1c x.rqlost v 0 }
  | 0x40 =>
    { s with taiD := { d with part := p } }.setPart p
      { x with taiSrc := rwRange x.taiSrc (bits v 0 2) 0 2, ptmper := BitVec.ofNat 8 (max 1 (bits v 8 8)) }
  | 0x48 => s.setTai v
  | 0x50 => { s with taiD := { d with ppssec := v } }
  | 0x60 => put { x with tlead := rwRange x.tlead (bits v 0 32) 10000 10000000 }
  | _ => s

/-- A write in a queue's block: discarded while the front end does not run (R384). -/
def State.writeQueue (s : State) (p q off : Nat) (v : W64) : State :=
  if !s.feRuns then s
  else
    let x := s.queue p q
    match off with
    | 0x00 => if x.en then s else s.setQueue p q { x with base := rwHostAddr x.base v 4096 }
    | 0x08 => s.writeQctl p q v
    | 0x10 => s.writeWidx p q (v.truncate 32)
    | 0x14 => s.writeRidx p q (v.truncate 32)
    | 0x18 => s.setQueue p q { x with kerr := x.kerr && !v.getLsbD 16 }
    | 0x20 => s.setQueue p q { x with rptr := v &&& 0x01FFFFFFFFFFFFFF }
    | _ => s

/-! ## Translation and the error log (R409, R435) -/

/-- A write of MM_FREPLY. -/
def State.writeReply (s : State) (p : Nat) (v : W64) : State :=
  let s := s.setPart p { s.part p with freply := v }
  match bits v 0 2 with
  | 1 => s.reply p (bits v 2 62) resolvePage
  | 2 => s.reply p (bits v 2 62) failPage
  | _ => s

/-- A write in the MM block; RWL fields only while the partition is not enabled. -/
def State.writeMm (s : State) (p off : Nat) (v : W64) : State :=
  let x := s.part p
  let put := fun (x : Partition) => s.setPart p x
  let lock := fun (y : Partition) => if x.en then s else s.setPart p y
  match off with
  | 0x00 => lock { x with ptbase := v &&& 0x000FFFFFFFFFF000 }
  | 0x08 => lock { x with hptbase := v &&& 0x000FFFFFFFFFF000 }
  | 0x10 => s.writeInval p v
  | 0x20 => lock { x with fqbase := rwHostAddr x.fqbase v 4096 }
  | 0x28 => put { x with fqlog2 := if x.en then x.fqlog2 else rwRange x.fqlog2 (bits v 0 5) 4 16
                         fqvec := BitVec.ofNat 6 (bits v 8 6) }
  | 0x34 => put { x with fqridx := v.truncate 32 }
  | 0x38 => s.writeReply p v
  | 0x40 => put { x with dupl := w1c x.dupl v 0, b2err := w1c x.b2err v 16 }
  | 0x48 => s.writePginit p v
  | 0x50 => put { x with b2base := v &&& 0x01FFFFFFFFFFFFFF }
  | _ => s

/-- A write in the error log's block. -/
def State.writeEl (s : State) (p off : Nat) (v : W64) : State :=
  let x := s.part p
  let put := fun (x : Partition) => s.setPart p x
  match off with
  | 0x00 => put { x with elbase := rwAddr x.elbase v 64 }
  | 0x08 => put { x with ellog2 := rwRange x.ellog2 (bits v 0 4) 2 12, elvec := BitVec.ofNat 6 (bits v 8 6) }
  | 0x14 => put { x with elridx := v.truncate 32 }
  | 0x18 => put { x with ellost := w1c x.ellost v 0 }
  | _ => s

/-! ## Partitions (R411) -/

/-- Four byte fields of 0 to hi: one that is larger stays as it was. -/
def rwBytes (old : BitVec 32) (v : W64) (hi : Nat) : BitVec 32 :=
  BitVec.ofNat 32 (((List.range 4).map fun d =>
    let new := bits v (8 * d) 8
    2 ^ (8 * d) * (if new ≤ hi then new else bits (old.zeroExtend 64) (8 * d) 8)).sum)

/-- PT_CTL: EN, then RESET. -/
def State.writePtCtl (s : State) (p : Nat) (v : W64) : State :=
  let s := if v.getLsbD 0 then s.enable p else s.disable p
  if v.getLsbD 1 then s.startReset p else s

/-- PT_CLK: the base clock is asked of the partition's clusters. STEP above 18 is taken as 18 and reads back as 18 (log 108). -/
def State.writePtClk (s : State) (p : Nat) (v : W64) : State :=
  let step := min 18 (bits v 8 5)
  let x := s.part p
  (s.setPart p { x with pin := v.getLsbD 0, step := BitVec.ofNat 5 step }).askBase p

/-- The 64 bits at position i of a wide register, replaced. -/
def setWord {n : Nat} (old : BitVec n) (i : Nat) (v : W64) : BitVec n :=
  (old &&& ~~~(BitVec.ofNat n (2 ^ (64 * i) * (2 ^ 64 - 1)))) ||| BitVec.ofNat n (2 ^ (64 * i) * v.toNat)

/-- A write in a partition's PT block. -/
def State.writePt (s : State) (p off : Nat) (v : W64) : State :=
  let x := s.part p
  let put := fun (x : Partition) => s.setPart p x
  let lock := fun (y : Partition) => if x.en then s else s.setPart p y
  match off with
  | 0x00 => s.writePtCtl p v
  | 0x10 => lock { x with clus := setWord x.clus 0 v }
  | 0x18 => lock { x with clus := setWord x.clus 1 v }
  | 0x20 => lock { x with chan := v }
  | 0x28 => lock { x with l2w := v }
  | 0x30 => lock { x with dsp := rwBytes x.dsp v 32 }
  | 0x38 => lock { x with bkt := rwBytes x.bkt v 64 }
  | 0x40 => lock { x with fn := rwRange x.fn (bits v 0 4) 0 8 }
  | 0x48 => put { x with pwr := v.truncate 16 }
  | 0x50 => s.writePtClk p v
  | 0x60 => put { x with ikey := setWord x.ikey 0 v }
  | 0x68 => put { x with ikey := setWord x.ikey 1 v }
  | 0x70 => put { x with ikey := setWord x.ikey 2 v }
  | 0x78 => put { x with ikey := setWord x.ikey 3 v }
  | _ => s

/-! ## Fabric, boot, health (R420, R432, R434) -/

/-- A write in the HD block. -/
def State.writeHd (s : State) (off : Nat) (v : W64) : State :=
  let hd := s.hd
  match off with
  | 0x10 => { s with hd := { hd with nRecall := w1c hd.nRecall v 0, recfail := w1c hd.recfail v 32 } }
  | 0x18 => s.writeGroup 0 v
  | 0x20 => s.writeGroup 1 v
  | 0x28 => s.writeGroup 2 v
  | 0x30 => { s with hd := { hd with b2sel := v.truncate 6 } }
  | _ => s

/-- A write of BT_CMD runs the command that OP names. -/
def State.writeBtCmd (s : State) (v : W64) : Host.Outcome State Fault Refusal :=
  let key := BitVec.ofNat 16 (bits v 16 16)
  match bits v 0 4 with
  | 1 => s.bundleUpdate key
  | 2 => s.measure key
  | 3 => execCommitSvn key s
  | 4 => execPackageReset key s
  | 5 => s.recoveryBundle key
  | _ => .next s

/-- A write in the BT block. -/
def State.writeBt (s : State) (off : Nat) (v : W64) : Host.Outcome State Fault Refusal :=
  let b := s.bt
  match off with
  | 0x08 => .next { s with bt := { b with updaddr := rwAddr b.updaddr v 4096 } }
  | 0x10 => .next { s with bt := { b with updlen := v.truncate 32 } }
  | 0x18 => s.writeBtCmd v
  | 0x28 => .next { s with bt := { b with nonce := setWord b.nonce 0 v } }
  | 0x30 => .next { s with bt := { b with nonce := setWord b.nonce 1 v } }
  | 0x38 => .next { s with bt := { b with nonce := setWord b.nonce 2 v } }
  | 0x40 => .next { s with bt := { b with nonce := setWord b.nonce 3 v } }
  | 0x48 => .next { s with bt := { b with maddr := rwAddr b.maddr v 64 } }
  | _ => .next s

/-- A write in the HM block. HM_CAP reads back as written, and is taken within its range where it is used (log 108). -/
def State.writeHm (s : State) (off : Nat) (v : W64) : State :=
  let h := s.hm
  let put := fun (h : Health) => { s with hm := h }
  match off with
  | 0x10 => put { h with autorst := v.getLsbD 0, vec := BitVec.ofNat 6 (bits v 8 6) }
  | 0x18 => put { h with cap := v.truncate 12 }
  | 0x38 => put { h with csel := v.truncate 7 }
  | 0x80 => put { h with cerr := w1c h.cerr v 0 }
  | 0x88 => put { h with parr := w1c h.parr v 0 }
  | 0x90 => put { h with pois := w1c h.pois v 0 }
  | 0x98 => put { h with wdog := w1c h.wdog v 0 }
  | 0xA0 => put { h with hdeg := w1c h.hdeg v 0 }
  | 0xA8 => put { h with miss := w1c h.miss v 0 }
  | _ => s

/-- A write in a function's MSI-X table: 64 entries of 16 bytes. A pending vector that is masked no longer is sent. The pending-bit
array takes no writes. -/
def State.writeMsix (s : State) (fn off : Nat) (v : W64) : State :=
  if off < 1024 then
    let t := { s with msixTab := writeN s.msixTab (2048 * fn + off / 8 * 8) (bytesOf 8 v.toNat) }
    let vec := off / 16
    if t.msixPba.getD (64 * fn + vec) false && !t.masked fn vec then
      { t with msixPba := t.msixPba.del (64 * fn + vec) }.sendVector fn vec
    else t
  else s

/-! ## BAR0 (R421) -/

/-- FE, queue and MM registers at an offset in a partition's part of BAR0. -/
def State.writePart (s : State) (p off : Nat) (v : W64) : State :=
  if off < 0x10000 then s.writeFe p off v
  else if off < 0x11000 then s.writeQueue p ((off - 0x10000) / 64) (off % 64) v
  else if 0x20000 ≤ off ∧ off < 0x21000 then s.writeMm p (off - 0x20000) v
  else if 0x30000 ≤ off ∧ off < 0x30040 then s.writeEl p (off - 0x30000) v
  else s

/-- What only the physical function's BAR0 holds. -/
def State.writePf (s : State) (off : Nat) (v : W64) : State :=
  if 0x40000 ≤ off ∧ off < 0x48000 then s.writePt ((off - 0x40000) / 0x1000) (off % 0x1000) v
  else if 0x60000 ≤ off ∧ off < 0x61000 then s.writeHd (off - 0x60000) v
  else if 0xC0000 ≤ off ∧ off < 0xC1000 then s.writeHm (off - 0xC0000) v
  else if 0xC1000 ≤ off ∧ off < 0xC1200 then s.writeEl ((off - 0xC1000) / 64) (off % 64) v
  else if 0x100000 ≤ off ∧ off < 0x900000 then
    let o := off % 0x100000
    if o < 0x30000 then s.writePart ((off - 0x100000) / 0x100000) o v else s
  else s

/-- REGISTER_WRITE at an offset of a function's BAR0. The BT block and the MSI-X table respond at any stage, the rest
from the ready stage on (R427). -/
def execRegisterWrite (fn : FuncId) (off : Nat) (v : BitVec 64) (s : State) : Host.Outcome State Fault Refusal :=
  if fn.val = 0 ∧ 0xA0000 ≤ off ∧ off < 0xA1000 then s.writeBt (off - 0xA0000) v
  else if 0x80000 ≤ off ∧ off < 0x81000 then .next (s.writeMsix fn.val (off - 0x80000) v)
  else
    s.hostWrites fun s =>
      if off < 0x40000 then
        match s.partOf fn.val with
        | some p => s.writePart p off v
        | none => s
      else if fn.val = 0 then s.writePf off v
      else s

end Sys2Proof.Machine
end

