-- ==== Sys2Proof/Machine/Settle.lean ====
section
/-! DEFINITION. What every step leaves settled: sleepers whose condition is met wake (R44), watches fire (R168), the
readiness monitors learn of changed lines (R61), requests enter fault filters that have room (R221), and handler warps
start (R215). -/

namespace Sys2Proof.Machine

/-! ## Sleepers -/

/-- The warp wakes and issues its instruction again. -/
def Warp.again (w : Warp) : Warp := { w with st := .active, wait := .none }

/-- Of the warps that sleep on the bit of a line, the one that came first among those whose condition the bit meets
(R116, R299). -/
def State.firstAtLine (s : State) (line : Nat) : Option Nat :=
  let bit := s.lineFull.getD line false
  let ws := s.slots.filterMap fun p =>
    match p.2.wait with
    | .line l full seq => if p.2.st = .asleep ∧ l = line ∧ full = bit then some (p.1, seq) else none
    | _ => none
  match ws with
  | [] => none
  | x :: xs => some (xs.foldl (fun a b => if b.2 < a.2 then b else a) x).1

/-- The current step lets the instruction that a warp sleeps in try again: it completes, or its warp sleeps on (R44). -/
def State.wakeLogged (s : State) (key : Nat) (w : Warp) : State :=
  (w.sleepsIn.bind fun e => s.complete (key / 128) (key % 128) e false).getD s

/-- A sleeper on a barrier cell whose page translates no more: its wait enters the operand log as BARM's would (R165, R407). -/
def State.cellLost (s : State) (key : Nat) (w : Warp) (va : Nat) (q : PageReq) : State :=
  let c := key / 128
  let (ps, fs) := fileAll w.id.part (unitOfCore c) (coreBit c) s.tick [q] s.faults
  let e : LogEntry :=
    { num := w.logNum, op := .barm 2 1, word := w.word, pc := w.ctl.pc - 4, wmode := w.ctl.wmode, active := w.active
      regs := { w.regs with s := w.regs.s.ins 1 (BitVec.ofNat 64 va) }, pages := ps }
  { s with faults := fs, slots := s.slots.ins key { w.again with log := w.log ++ [e], logNum := w.logNum + 1 } }

/-- What the changed lines, and the full/empty bits and owned lines that changed, mean for one sleeping warp. What is reached
through an address is translated now (R407). -/
def State.wakeOne (touched bits : List Nat) (s : State) (p : Nat × Warp) : State :=
  let key := p.1
  let c := key / 128
  let w := s.slots.getD key {}
  let put := fun (w : Warp) => { s with slots := s.slots.ins key w }
  if w.st ≠ .asleep then s
  else
    match w.wait with
    | .words ls => if ls.any fun l => decide (l ∈ touched) || decide (l ∈ bits) then s.wakeLogged key w else s
    | .line l _ _ => if l ∈ bits ∧ s.firstAtLine l = some key ∧ !s.owned.has l then s.wakeLogged key w else s
    | .future va =>
      match s.wordAt c w.id.part .tagRead va with
      | .at place => if s.tag (place + 8) && !s.owned.has (lineOf place) then s.wakeLogged key w else s
      | _ => s.wakeLogged key w
    | .command id => if w.hist.any fun h => h.id == id && h.code == 0 then s else s.wakeLogged key w
    | .cell va ph =>
      match s.translate c w.id.part false .write va with
      | .fault perm => s.cellLost key w va (pageOf va .write perm)
      | .ok place _ _ =>
        if (s.readCell place).ph = ph then s
        else (put { w.again with cells := w.cells.del va }).fenceAcquire w c 3
    | .record va lock =>
      match s.translate c w.id.part false .atomic va with
      | .ok place _ _ => if (s.readRec place).lock = lock then s else put w.again
      | .fault _ => put w.again
    | .area va =>
      match w.cap with
      | some cp =>
        if !cp.pages.isEmpty || cp.dead then s
        else
          match s.wordAt c w.id.part .tagRead va.toNat with
          | .fault q => s.capsulePages c (key % 128) cp [q]
          | _ => s.takeArea c (key % 128) cp
      | none => s
    | .watch _ _ =>
      match w.watch with
      | some x => if x.st = .armed then s else put w.again
      | none => put w.again
    | .finish =>
      match w.task with
      | some t =>
        match t.fin with
        | some f => if f.unheld then s.wbHold c (key % 128) t f else s
        | none => s
      | none => s
    | _ => s

/-- Commands and copies whose destinations did not all translate claim those lines that now do (R122). -/
def State.holdRest (s : State) : State :=
  let s := s.copies.foldl (fun s x => if x.unheld then s.holdCopy x else s) s
  s.cores.foldl (fun s p => p.2.cmds.foldl (fun s q => if q.2.unheld then s.hold p.1 q.1 q.2 else s) s) s

/-! ## Watches (R168) -/

/-- Does the step fire a watch of a warp on a core: a write at the line's place, or a store in that core's L1? -/
def watchFires (touched : List Nat) (l1 : List (Nat × Nat)) (c line : Nat) : Bool :=
  decide (line ∈ touched) || decide ((c, line) ∈ l1)

/-- Armed watches on changed lines fire. -/
def fireWatch (touched : List Nat) (l1 : List (Nat × Nat)) (key : Nat) (w : Warp) : Warp :=
  match w.watch with
  | some x =>
    if x.st = .armed ∧ watchFires touched l1 (key / 128) x.line then { w with watch := some { x with st := .fired } } else w
  | none => w

/-! ## Readiness (R61) -/

/-- The lines of an entry's readiness words whose places are among the changed ones. -/
def State.changedLines (s : State) (c part : Nat) (touched : List Nat) (e : TaskEntry) : List Nat :=
  e.lines.filter fun l =>
    match s.wordAt c part .tagRead l with
    | .at place => decide (lineOf place ∈ touched)
    | _ => false

/-- A core's monitor learns of changed lines of its waiting entries. -/
def State.feedMonitor (touched : List Nat) (s : State) (c : Nat) : State :=
  let x := s.core c
  let part := (s.job (s.occJob c)).part
  let ls := (x.bob.filter fun e => e.st == .waiting).flatMap (s.changedLines c part touched)
  if ls.isEmpty then s else s.watchLines c ls

/-! ## The whole -/

/-- The lines that sleepers and watches learn of are spent. -/
def State.clearTouched (s : State) : State := { s with touched := [], touchedBits := [], touchedL1 := [] }

/-- Cores that hold a bobbin's tasks. -/
def State.bobbinCores (s : State) : List Nat := (s.cores.keep fun _ x => !x.bob.isEmpty).keys

/-- Cores with pending origins. -/
def State.trapCores (s : State) : List Nat := (s.cores.keep fun _ x => !x.pend.isEmpty).keys

/-- Watches fire, then sleepers wake, then the monitors learn of the changed lines. -/
def State.wakeRound (s : State) : State :=
  let touched := s.touched
  let bits := s.touchedBits
  let s := if touched.isEmpty && s.touchedL1.isEmpty then s
    else { s with slots := s.slots.mapV (fireWatch touched s.touchedL1) }
  let s := (s.slots.keep fun _ w => w.st == .asleep).foldl (State.wakeOne touched bits) s.clearTouched
  if touched.isEmpty then s else s.bobbinCores.foldl (State.feedMonitor touched) s

/-- Rounds while those that woke changed lines in their turn; what the last one left is seen in the next step. -/
def State.wakeAll : Nat → State → State
  | 0, s => s
  | n + 1, s =>
    let t := s.wakeRound
    if t.touched.isEmpty && t.touchedBits.isEmpty && t.touchedL1.isEmpty then t else State.wakeAll n t

/-- Rounds in one step: every warp of a core's slots may wake after another. -/
def wakeRounds : Nat := 64

/-- Cores of jobs with task slots. -/
def State.taskCores (s : State) : List Nat :=
  (s.cores.keep fun _ x => match x.occ with | some j => (s.job j).r.taskSlots != 0 | none => false).keys

def State.settle (s : State) : State :=
  let s := (State.wakeAll wakeRounds s.holdRest).refile
  let s := s.trapCores.foldl (fun s c => State.startHandlers c 2 s) s
  (s.taskCores.foldl State.markIdle s).queueSettle

end Sys2Proof.Machine
end

