-- ==== Sys2Proof/Machine/Agenda.lean ====
section
/-! DEFINITION. The agents that go on by themselves: the events that the device makes without anything from outside, in the
order in which a step without an agenda looks for one (log 2). -/

namespace Sys2Proof.Machine

/-- What one agent does next. -/
abbrev Act := State → Host.Outcome State Fault Refusal

def coreNo (c : Nat) : CoreId := Fin.ofNat 512 c
def slotNo (k : Nat) : SlotNo := Fin.ofNat 66 k
def dieNo (d : Nat) : DieId := Fin.ofNat 4 d
def partNo (p : Nat) : PartId := Fin.ofNat 8 p
def queueNo (q : Nat) : QueueNo := Fin.ofNat 64 q
def clusterNo (k : Nat) : ClusterId := Fin.ofNat 128 k

/-- Events of one slot. -/
def slotActs (key : Nat) (w : Warp) : List Act :=
  let c := coreNo (key / 128)
  let k := slotNo (key % 128)
  let acquire : List Act := match w.wait with
    | .contend 0 _ rec save _ => [execCapsuleAcquire c k rec save]
    | _ => []
  ((List.range w.log.length).map fun i => execLongLatencyComplete c (key % 128 + 66 * i)) ++
  [execFdsqResult c k, execWarpPromotion c k, execWaittDeadline c k, execMwaitDeadline c k] ++ acquire ++
  [execCapsuleProbe c k, execCapsuleProbeReply c k, execCapsuleAdopt c k, execCapsuleAdoptionComplete c k,
   execCapsuleCommit c k, execCapsuleEnd c k, execCapsuleAbortRequest c k, execCapsuleRebind c k, execWritebackChunk c k]

/-- Events of one core. -/
def coreActs (n : Nat) (x : Core) : List Act :=
  let c := coreNo n
  (x.cmds.keys.flatMap fun e => [execPromiseExpiry c (Fin.ofNat 16 e), execEngineChunk c (Fin.ofNat 16 e)]) ++
  (x.monitor.map fun l => execReadinessMonitorRead c l) ++
  ((List.range x.bob.length).flatMap fun i =>
    [execTaskAdmission c i, execSnapshotDrain c i, execStagingAllocate c i, execStagingChunk c i]) ++
  [execStagingCancelComplete c, execBobbinRefill c, execTaskDispatch c, execStealRequest c, execStealReply c,
   execStealSweepWaitExpiry c, execStealProbe c, execOriginAgeExpiry c, execHostCompletion c]

/-- Events of one job. -/
def jobActs (j : Nat) (jb : Job) : List Act :=
  (jb.onDies.flatMap fun d => [execDistributorStartTeam (dieNo d) j, execTeamRequest (dieNo d) j]) ++
  [execPreemptionComplete j, execJobEnd j, execJobEndRecord j, execWatchdogExpiry j]

/-- Events of one partition. -/
def partActs (p : Nat) : List Act :=
  let p := partNo p
  [execFaultRecordSend p 0, execInvalidationComplete p, execPageTagInitComplete p, execPartitionResetComplete p,
   execClockBalance p]

/-- Events of one queue. -/
def queueActs (key : Nat) : List Act :=
  let p := partNo (key / 64)
  let q := queueNo (key % 64)
  [execTimedRelease p q, execTimedPreparationComplete p q, execTimedPrepare p q, execTimedFirstIssue p q,
   execRestoreResume p q, execRestorePlace p q, execWaitwTimeout p q, execWaitw p q, execLaunch p q, execResume p q,
   execSignal p q, execMark p q, execFencePacket p q, execCopy p q, execCopyComplete p q, execTimed p q,
   execQueueSlotAdmit p q, execLookaheadParse p q]

/-- Chunks of copies before the last. -/
def State.copyActs (s : State) : List Act :=
  (s.copies.filter fun x => x.pages.isEmpty && decide (x.pos + 4096 < x.len)).map fun x => fun s => (s.copyChunk x).elim (.refused (.notEnabled "a chunk of COPY")) .next

/-- Events of the package. -/
def State.packageActs (s : State) : List Act :=
  [execBootVerify, execBootLoad true, execBootClear, execBootReady, execUpdateComplete, execMeasurementReport,
   execFeHeartbeat, execHeartbeatTimeout, execAutoReset, execThrottleStep, execInputUndervoltage, execInputVoltageHeld,
   execPtmRequest, execTaiSampleTimeout, execOverflowSweep, execDirectoryRebuildComplete] ++
  ((List.range 4).flatMap fun d => [execBucketRefill (dieNo d), execRequestResend (dieNo d)]) ++
  ((List.range 2).flatMap fun h => [execRecallComplete (Fin.ofNat 2 h), execRecallTimeout (Fin.ofNat 2 h)]) ++
  (s.clockReq.keys.map fun k => execClusterClockChange (clusterNo k)) ++
  (s.mma.keys.flatMap fun k => [execMmaPass (clusterNo k), execMmaComplete (clusterNo k)]) ++
  (s.notices.map fun l => execCapsuleDepartureNotice l) ++
  (s.kills.map fun x => execCapsuleKillNotice (partNo x.part) (BitVec.ofNat 64 x.va) (BitVec.ofNat 48 x.ident)) ++
  (s.hd.wbs.map fun n => execWritebackAck (dieNo (n % 4)) (n / 4))

/-- Every event that the device could make now. -/
def State.acts (s : State) : List Act :=
  s.packageActs ++ s.jobs.flatMap (fun p => jobActs p.1 p.2) ++ s.slots.flatMap (fun p => slotActs p.1 p.2) ++
  s.cores.flatMap (fun p => coreActs p.1 p.2) ++ s.parts.keys.flatMap partActs ++ s.queues.keys.flatMap queueActs ++
  s.copyActs

/-- The first that happens: its occasion is at hand, and its bucket admits it. -/
def firstAct (s : State) : List Act → Option State
  | [] => none
  | f :: fs =>
    match f s with
    | .next t => if t.short then firstAct s fs else some t
    | _ => firstAct s fs

end Sys2Proof.Machine
end

