-- ==== Sys2Proof/Machine/Diverge.lean ====
section
/-! DEFINITION. Divergence and reconvergence: the procedures of R40, and the branches that invoke them
(R244, R279). -/

namespace Sys2Proof.Machine

/-- path_end() (R40). -/
def Ctl.pathEnd (x : Ctl) : Ctl :=
  match x.stk with
  | [] => x
  | e :: rest =>
    let y : Ctl :=
      if e.pvalid then
        { x with exec := e.pmask &&& x.live, path := e.pmask &&& x.live, pc := e.ptgt
                 stk := { e with pvalid := false } :: rest }
      else
        { x with exec := e.saved &&& x.live, path := e.psaved &&& x.live, pc := e.rpc, stk := rest }
    match y.stk with
    | [] => y
    | e' :: _ => if y.exec = 0 then { y with pc := e'.rpc } else y

/-- reconverge_check() (R40); each round clears a pending path or pops an entry, so twice the depth of
rounds is enough. -/
def Ctl.reconverge : Nat → Ctl → Ctl
  | 0, x => x
  | n + 1, x =>
    match x.stk with
    | [] => x
    | e :: _ => if x.pc = e.rpc then Ctl.reconverge n x.pathEnd else x

/-- reconverge_check() of a warp, which runs before every issue. -/
def Warp.reconverge (w : Warp) : Warp :=
  { w with ctl := w.ctl.reconverge (2 * w.ctl.stk.length) }

/-- rcv_push(a) (R40). -/
def Warp.rcvPush (w : Warp) (a : W64) : Res Warp := do
  need (decide (w.ctl.stk.length < 32)) RECONVERGENCE_OVERFLOW 0
  let e : StkEntry := { rpc := a, saved := w.ctl.exec, psaved := w.ctl.path }
  .ok { w with ctl := { w.ctl with stk := e :: w.ctl.stk } }

/-- The lanes that a branch may look at: cr.exec, or the lanes of a re-execution (R218). -/
def Warp.execLanes (w : Warp) : W64 := w.ctl.reexec.getD w.ctl.exec

/-- div_split(tgt) (R40): the warp with its pc directed. -/
def Warp.divSplit (w : Warp) (tgt : W64) : Res Warp :=
  let g := w.execLanes &&& w.guard
  let f := w.execLanes &&& ~~~ g
  let c := w.ctl
  if g = 0 then .ok w.advance
  else
    match c.stk with
    | [] =>
      if f = 0 then .ok (w.setPc tgt) else raise RECONVERGENCE_OVERFLOW 0
    | e :: rest =>
      if e.pvalid && e.ptgt != tgt then raise RECONVERGENCE_OVERFLOW 0
      else if f = 0 then
        if e.pvalid then
          let m := (g ||| e.pmask) &&& c.live
          .ok { w with ctl := { c with exec := m, path := m, pc := tgt, stk := { e with pvalid := false } :: rest } }
        else .ok (w.setPc tgt)
      else
        let e' := { e with pmask := (if e.pvalid then e.pmask else 0) ||| g, ptgt := tgt, pvalid := true }
        .ok { w with ctl := { c with exec := f, path := f, pc := c.pc + 4, stk := e' :: rest } }

/-- uniform_branch(tgt) (R40). -/
def Warp.uniformBranch (w : Warp) (tgt : W64) : Res Warp :=
  let c := if w.execLanes ≠ 0 then w.execLanes else w.ctl.path
  let g := c &&& w.guard
  if c ≠ 0 ∧ g = c then .ok (w.setPc tgt)
  else if g = 0 then .ok w.advance
  else raise DIVERGENT_BRANCH 0

def execBra (i : BitVec 25) (s : State) : Host.Outcome State Fault Refusal :=
  commitW s true (s.cw.uniformBranch (s.cw.ctl.pc + dispC i))

def execBdiv (i : BitVec 25) (s : State) : Host.Outcome State Fault Refusal :=
  commitW s true (s.cw.divSplit (s.cw.ctl.pc + dispC i))

def execRcv (i : BitVec 25) (s : State) : Host.Outcome State Fault Refusal :=
  commitW s true do
    let w ← s.cw.rcvPush (s.cw.ctl.pc + dispC i)
    .ok w.advance

/-- BSR links in s63 and jumps, whatever the guard (R279). -/
def execBsr (i : BitVec 25) (s : State) : Host.Outcome State Fault Refusal :=
  let w := s.cw
  commitW s true (.ok ((w.wrS 63 (w.ctl.pc + 4)).setPc (w.ctl.pc + dispC i)))

/-- POOL branches over its pool; a displacement below 1 raises SUB 5 (R244). -/
def execPool (i : BitVec 25) (s : State) : Host.Outcome State Fault Refusal :=
  let w := s.cw
  commitW s true do
    need (decide (1 ≤ i.toInt)) ILLEGAL 5
    .ok (w.setPc (w.ctl.pc + dispC i))

/-- JMP: a target that is no multiple of 4 raises SUB 5 (R279). -/
def execJmp (d a : SReg) (s : State) : Host.Outcome State Fault Refusal :=
  let w := s.cw
  let t := w.rdS a.val
  commitW s true do
    need (t.toNat % 4 == 0) ILLEGAL 5
    .ok ((w.wrS d.val (w.ctl.pc + 4)).setPc t)

def execRets (a : SReg) (s : State) : Host.Outcome State Fault Refusal :=
  let w := s.cw
  let t := w.rdS a.val
  commitW s true do
    need (t.toNat % 4 == 0) ILLEGAL 5
    .ok (w.setPc t)

/-- NOP changes nothing but the program counter (R280). -/
def execNop (s : State) : Host.Outcome State Fault Refusal :=
  commitW s true (.ok s.cw.advance)

/-- TRAP raises SOFTWARE when a lane is active; with no lane active it has no effect (R281). -/
def execTrap (c : BitVec 8) (s : State) : Host.Outcome State Fault Refusal :=
  commitW s false (if s.cw.active = 0 then .ok s.cw.advance else raise SOFTWARE c.toNat)

/-- TICK reads the tick counter (R284). -/
def execTick (d : SReg) (s : State) : Host.Outcome State Fault Refusal :=
  commitW s true (.ok (s.cw.wrS d.val (BitVec.ofNat 64 s.tick)).advance)

/-- The second word that TAI writes: the fraction and LOCK (R284). -/
def taiHigh (s : State) : W64 := BitVec.ofNat 64 (s.tai % 2 ^ 16 + if s.taiLock then 2 ^ 16 else 0)

/-- TAI reads TAI nanoseconds, the fraction and LOCK into a pair (R284). -/
def execTai (d : SReg) (s : State) : Host.Outcome State Fault Refusal :=
  let w := s.cw
  commitW s true do
    aligned 2 [d.val]
    .ok ((w.wrS d.val (BitVec.ofNat 64 (s.tai / 2 ^ 16))).wrS (d.val + 1) (taiHigh s)).advance

end Sys2Proof.Machine
end

