-- ==== Sys2Proof/Machine/Vector.lean ====
section
/-! DEFINITION. The integer vector instructions VALU, VMAD and VBIT (R268 to R270). -/

namespace Sys2Proof.Machine

/-- A function of the element type, saturation, and the bits of the source elements, to the bits of the
result. -/
abbrev VecFun2 := Nat → Bool → Nat → Nat → Nat

/-- The shape of a two-source element instruction: the checks of R236 and R257, then every active lane's
result from its own elements (R268). -/
def vec2 (set : Nat → Bool) (f : VecFun2) (d a b : VReg) (s : State) : Host.Outcome State Fault Refusal :=
  let w := s.cw
  let t := wmET w.ctl.wmode
  commitW s false do
    w.has [d.val, a.val, b.val]
    w.typed (set t) t [d.val, a.val, b.val]
    .ok (w.mapLanes d.val t fun l => f t (wmSAT w.ctl.wmode) (w.get a.val l t) (w.get b.val l t)).advance

/-- The shape with one source. -/
def vec1 (set : Nat → Bool) (f : Nat → Bool → Nat → Nat) (d a : VReg) (s : State) :
    Host.Outcome State Fault Refusal :=
  let w := s.cw
  let t := wmET w.ctl.wmode
  commitW s false do
    w.has [d.val, a.val]
    w.typed (set t) t [d.val, a.val]
    .ok (w.mapLanes d.val t fun l => f t (wmSAT w.ctl.wmode) (w.get a.val l t)).advance

/-- The shape with the destination as third source: f z x y. -/
def vec3 (set : Nat → Bool) (f : Nat → Bool → Nat → Nat → Nat → Nat) (d a b : VReg) (s : State) :
    Host.Outcome State Fault Refusal :=
  let w := s.cw
  let t := wmET w.ctl.wmode
  commitW s false do
    w.has [d.val, a.val, b.val]
    w.typed (set t) t [d.val, a.val, b.val]
    .ok (w.mapLanes d.val t fun l =>
      f t (wmSAT w.ctl.wmode) (w.get d.val l t) (w.get a.val l t) (w.get b.val l t)).advance

def addOf : VecFun2 := fun t sat x y => fitInt sat t (intOf t x + intOf t y)
def subOf : VecFun2 := fun t sat x y => fitInt sat t (intOf t x - intOf t y)
def mulOf : VecFun2 := fun t sat x y => fitInt sat t (intOf t x * intOf t y)
def mulhiOf : VecFun2 := fun t _ x y => wrapInt t (floorShift (intOf t x * intOf t y) (typeBits t))
def shlOf : VecFun2 := fun t _ x y => wrapInt t (x * 2 ^ (y % typeBits t) : Nat)
def shrOf : VecFun2 := fun t _ x y => x / 2 ^ (y % typeBits t)
def sraOf : VecFun2 := fun t _ x y => wrapInt t (floorShift (intOf t x) (y % typeBits t))
def minOf : VecFun2 := fun t _ x y => if intOf t y < intOf t x then y else x
def maxOf : VecFun2 := fun t _ x y => if intOf t x < intOf t y then y else x

def execVadd (d a b : VReg) (s : State) := vec2 isInt addOf d a b s
def execVsub (d a b : VReg) (s : State) := vec2 isInt subOf d a b s
def execVmul (d a b : VReg) (s : State) := vec2 isInt mulOf d a b s
def execVmulh (d a b : VReg) (s : State) := vec2 isInt mulhiOf d a b s
def execVand (d a b : VReg) (s : State) := vec2 isMov (fun _ _ x y => x &&& y) d a b s
def execVor (d a b : VReg) (s : State) := vec2 isMov (fun _ _ x y => x ||| y) d a b s
def execVxor (d a b : VReg) (s : State) := vec2 isMov (fun _ _ x y => x ^^^ y) d a b s
def execVshl (d a b : VReg) (s : State) := vec2 isInt shlOf d a b s
def execVshr (d a b : VReg) (s : State) := vec2 isInt shrOf d a b s
def execVsra (d a b : VReg) (s : State) := vec2 isInt sraOf d a b s
def execVmin (d a b : VReg) (s : State) := vec2 isInt minOf d a b s
def execVmax (d a b : VReg) (s : State) := vec2 isInt maxOf d a b s

/-- |x|; an unsigned element is its own absolute value (R268). -/
def absOf (t : Nat) (sat : Bool) (x : Nat) : Nat := fitInt sat t (intOf t x).natAbs
def negOf (t : Nat) (sat : Bool) (x : Nat) : Nat := fitInt sat t (-intOf t x)
def notOf (t x : Nat) : Nat := 2 ^ typeBits t - 1 - x

def execVabs (d a : VReg) (s : State) := vec1 isInt absOf d a s
def execVneg (d a : VReg) (s : State) := vec1 isInt negOf d a s
def execVnot (d a : VReg) (s : State) := vec1 isMov (fun t _ x => notOf t x) d a s
def execVmov (d a : VReg) (s : State) := vec1 isMov (fun _ _ x => x) d a s

/-- The product and the sum are exact; only the final value saturates or wraps (R269). -/
def madOf (t : Nat) (sat : Bool) (z x y : Nat) : Nat := fitInt sat t (intOf t x * intOf t y + intOf t z)
def msbOf (t : Nat) (sat : Bool) (z x y : Nat) : Nat := fitInt sat t (intOf t z - intOf t x * intOf t y)

def execVmad (d a b : VReg) (s : State) := vec3 isInt madOf d a b s
def execVmsb (d a b : VReg) (s : State) := vec3 isInt msbOf d a b s

def execVclz (d a : VReg) (s : State) := vec1 isInt (fun t _ x => clzBits (typeBits t) x) d a s
def execVpopc (d a : VReg) (s : State) := vec1 isInt (fun t _ x => popBits (typeBits t) x) d a s
def execVbrev (d a : VReg) (s : State) := vec1 isInt (fun t _ x => revBits (typeBits t) x) d a s

/-- pos and n of VBFX and VBFI, from the 32 bits y of the b register's lane (R270). -/
def fieldPos (y : Nat) : Nat := y % 256
def fieldLen (t y : Nat) : Nat := min (y / 256 % 256) (typeBits t - fieldPos y)

/-- The extracted field, sign-extended for a signed type (R270). -/
def bfxOf (t _z x y : Nat) : Nat :=
  let n := fieldLen t y
  let f := x / 2 ^ fieldPos y % 2 ^ n
  if typeSigned t && decide (0 < n) then wrapInt t (toSigned n f) else f

/-- z with the field replaced by the low bits of x (R270). -/
def bfiOf (t z x y : Nat) : Nat :=
  let n := fieldLen t y
  let p := fieldPos y
  if n = 0 then z
  else z - z / 2 ^ p % 2 ^ n * 2 ^ p + x % 2 ^ n * 2 ^ p

/-- VBFX and VBFI: f of the destination's old element, the source element, and the low 32 bits that lane l
of vB holds, whatever the element type (R270). -/
def fieldOp (f : Nat → Nat → Nat → Nat → Nat) (d a b : VReg) (s : State) : Host.Outcome State Fault Refusal :=
  let w := s.cw
  let t := wmET w.ctl.wmode
  commitW s false do
    w.has [d.val, a.val, b.val]
    w.typed (isInt t) t [d.val, a.val, b.val]
    .ok (w.mapLanes d.val t fun l =>
      f t (w.get d.val l t) (w.get a.val l t) (w.regs.rdV b.val l).toNat).advance

def execVbfx (d a b : VReg) (s : State) := fieldOp bfxOf d a b s
def execVbfi (d a b : VReg) (s : State) := fieldOp bfiOf d a b s

/-- VSEL chooses per lane by the select predicate (R270). -/
def execVsel (d a b : VReg) (s : State) : Host.Outcome State Fault Refusal :=
  let w := s.cw
  let t := wmET w.ctl.wmode
  commitW s false do
    w.has [d.val, a.val, b.val]
    w.typed (isMov t) t [d.val, a.val, b.val]
    .ok (w.mapLanes d.val t fun l =>
      if w.selP.getLsbD l then w.get a.val l t else w.get b.val l t).advance

end Sys2Proof.Machine
end

