-- ==== Sys2Proof/Machine/Lane.lean ====
section
/-! DEFINITION. The cross-lane instructions (R278). -/

namespace Sys2Proof.Machine

/-- An element widened to 64 bits: signed integers sign-extended, all else zero-extended (R278). -/
def widen (t x : Nat) : W64 := BitVec.ofInt 64 (if isInt t then intOf t x else (x : Nat))

/-- VSHUF: lane l takes the element of the lane that v[b][l] names modulo W. -/
def execVshuf (d a b : VReg) (s : State) : Host.Outcome State Fault Refusal :=
  let w := s.cw
  let t := wmET w.ctl.wmode
  commitW s false do
    w.has [d.val, a.val, b.val]
    w.typed (isMov t) t [d.val, a.val]
    .ok (w.mapLanes d.val t fun l => w.get a.val ((w.rdV b.val l).toNat % w.id.width) t).advance

/-- VBCAST: every active lane takes the element of lane s[b]; s[b] at or above W raises SUB 5. -/
def execVbcast (d a : VReg) (b : SReg) (s : State) : Host.Outcome State Fault Refusal :=
  let w := s.cw
  let t := wmET w.ctl.wmode
  let k := (w.rdS b.val).toNat
  commitW s false do
    w.has [d.val, a.val]
    w.typed (isMov t) t [d.val, a.val]
    need (decide (k < w.id.width)) ILLEGAL 5
    .ok (w.mapLanes d.val t fun _ => w.get a.val k t).advance

/-- MOVVS: s[d] takes the element of lane s[b], widened; s[b] at or above W raises SUB 5. -/
def execMovvs (d : SReg) (a : VReg) (b : SReg) (s : State) : Host.Outcome State Fault Refusal :=
  let w := s.cw
  let t := wmET w.ctl.wmode
  let k := (w.rdS b.val).toNat
  commitW s true do
    w.has [a.val]
    w.typed (isMov t) t [a.val]
    need (decide (k < w.id.width)) ILLEGAL 5
    .ok (w.wrS d.val (widen t (w.get a.val k t))).advance

/-! ## Reductions -/

/-- A partial result of a reduction: the lowest lane in it, its bits, whether it is one element alone, and
the exceptions raised on the way, by lane. -/
structure Part where
  lane : Nat := 0
  bits : Nat := 0
  single : Bool := true
  exc : List (Nat × Exc) := []
  deriving DecidableEq, Repr

/-- combine(): ABSENT gives the other operand (R278). -/
def combine (f : Nat → Nat → LaneRes) : Option Part → Option Part → Option Part
  | none, y => y
  | x, none => x
  | some x, some y =>
    let r := f x.bits y.bits
    some { lane := x.lane, bits := r.1, single := false, exc := x.exc ++ y.exc ++ [(x.lane, r.2)] }

/-- One level of the fixed tree: neighbours are combined. -/
def pairUp (f : Nat → Nat → LaneRes) : List (Option Part) → List (Option Part)
  | x :: y :: xs => combine f x y :: pairUp f xs
  | xs => xs

/-- The tree over a list of at most 2^n lanes. -/
def treeUp (f : Nat → Nat → LaneRes) : Nat → List (Option Part) → List (Option Part)
  | 0, xs => xs
  | n + 1, xs => treeUp f n (pairUp f xs)

/-- The three reduction operators on elements of type T (R278). -/
inductive RedOp where
  | add | min | max
  deriving DecidableEq, Repr

/-- op on two elements: fit() or fres() for add; FMIN and FMAX for FLT. -/
def redFun (mode : W64) (op : RedOp) (t : Nat) (x y : Nat) : LaneRes :=
  let ftz := wmFTZ mode
  if isInt t then
    match op with
    | .add => (addOf t (wmSAT mode) x y, 0)
    | .min => (minOf t false x y, 0)
    | .max => (maxOf t false x y, 0)
  else
    let a := finNum ftz t x
    let b := finNum ftz t y
    match op with
    | .add => let r := addNum (wmRM mode) a b; fresNum mode t r.1 false r.2
    | .min => pickBits t (minNum a b)
    | .max => pickBits t (maxNum a b)

/-- A result formed from one element alone (R278). -/
def redOne (mode : W64) (op : RedOp) (t x : Nat) : LaneRes :=
  if isInt t then (x, 0)
  else
    let a := finNum (wmFTZ mode) t x
    match op with
    | .add => fresNum mode t a false 0
    | _ => pickBits t (a, nanExc a)

/-- identity(op, T) (R278). -/
def redIdentity (op : RedOp) (t : Nat) : Nat :=
  match op with
  | .add => 0
  | .min => if isInt t then wrapInt t (intMax t) else infBits t false
  | .max => if isInt t then wrapInt t (intMin t) else infBits t true

/-- reduce(op) over the active lanes (R278). -/
def Warp.reduce (w : Warp) (op : RedOp) (t a : Nat) : Nat × List (Nat × Exc) :=
  let act := w.active
  let xs := (List.range w.id.width).map fun l =>
    if act.getLsbD l then some { lane := l, bits := w.get a l t } else none
  match (treeUp (redFun w.ctl.wmode op t) 6 xs).headD none with
  | none => (redIdentity op t, [])
  | some p =>
    if p.single then
      let r := redOne w.ctl.wmode op t p.bits
      (r.1, [(p.lane, r.2)])
    else (p.bits, p.exc)

/-- The shape of VREDADD, VREDMIN and VREDMAX. -/
def redOp (op : RedOp) (d : SReg) (a : VReg) (s : State) : Host.Outcome State Fault Refusal :=
  let w := s.cw
  let t := wmET w.ctl.wmode
  commitW s false do
    w.has [a.val]
    w.typed (isInt t || isFlt t) t [a.val]
    let r := w.reduce op t a.val
    let w' ← w.finish r.2
    .ok (w'.wrS d.val (widen t r.1)).advance

def execVredadd (d : SReg) (a : VReg) (s : State) := redOp .add d a s
def execVredmin (d : SReg) (a : VReg) (s : State) := redOp .min d a s
def execVredmax (d : SReg) (a : VReg) (s : State) := redOp .max d a s

/-- The running sums of VSCAN, in ascending lane order. -/
def scanLoop (mode : W64) (t : Nat) : Option Nat → List (Nat × Nat) → List (Nat × LaneRes)
  | _, [] => []
  | none, (l, x) :: xs =>
    let r := redOne mode .add t x
    (l, r) :: scanLoop mode t (some r.1) xs
  | some acc, (l, x) :: xs =>
    let r := redFun mode .add t acc x
    (l, r) :: scanLoop mode t (some r.1) xs

def execVscan (d a : VReg) (s : State) : Host.Outcome State Fault Refusal :=
  let w := s.cw
  let t := wmET w.ctl.wmode
  commitW s false do
    w.has [d.val, a.val]
    w.typed (isInt t || isFlt t) t [d.val, a.val]
    let w' ← w.floatOut d.val t (scanLoop w.ctl.wmode t none (w.lanes.map fun l => (l, w.get a.val l t)))
    .ok w'.advance

/-- VBALLOT: the active lanes whose element has any bit set. -/
def execVballot (d : SReg) (a : VReg) (s : State) : Host.Outcome State Fault Refusal :=
  let w := s.cw
  let t := wmET w.ctl.wmode
  commitW s false do
    w.has [a.val]
    w.typed (isMov t) t [a.val]
    .ok (w.wrS d.val (maskOf (w.lanes.filter fun l => w.get a.val l t != 0))).advance

/-- VCOMPACT: the selected active elements go to lanes 0 upward, active or not; s[b] takes their count. -/
def execVcompact (d a : VReg) (b : SReg) (s : State) : Host.Outcome State Fault Refusal :=
  let w := s.cw
  let t := wmET w.ctl.wmode
  commitW s false do
    w.has [d.val, a.val]
    w.typed (isMov t) t [d.val, a.val]
    let xs := (w.lanes.filter fun l => w.selP.getLsbD l).map fun l => w.get a.val l t
    .ok ((w.setLanes d.val t (xs.zipIdx.map fun p => (p.2, p.1))).wrS b.val
      (BitVec.ofNat 64 xs.length)).advance

/-- VLANE: s[a] + l, modulo 2^32, in each active lane; no element type. -/
def execVlane (d : VReg) (a : SReg) (s : State) : Host.Outcome State Fault Refusal :=
  let w := s.cw
  commitW s false do
    w.has [d.val]
    .ok (w.mapLanes d.val 1 fun l => ((w.rdS a.val).toNat + l) % 2 ^ 32).advance

/-- MOVSV: a scalar's low bits(T) bits in each active lane. -/
def execMovsv (d : VReg) (a : SReg) (s : State) : Host.Outcome State Fault Refusal :=
  let w := s.cw
  let t := wmET w.ctl.wmode
  commitW s false do
    w.has [d.val]
    w.typed (isMov t) t [d.val]
    .ok (w.mapLanes d.val t fun _ => (w.rdS a.val).toNat % 2 ^ typeBits t).advance

end Sys2Proof.Machine
end

