-- ==== Sys2Proof/Machine/Mode.lean ====
section
/-! DEFINITION. The WMODE and predicate instructions (R263, R264). -/

namespace Sys2Proof.Machine

/-- Writes WMODE after the check of R237, or raises SUB 2 and changes nothing (R263). -/
def Warp.tryMode (w : Warp) (t : W64) : Res Warp := do
  need (wmodeOk t) ILLEGAL 2
  .ok (w.setMode t)

/-- cr.exec := x AND path (R39). -/
def Warp.setExec (w : Warp) (x : W64) : Warp :=
  { w with ctl := { w.ctl with exec := x &&& laneMask w.id.width &&& w.ctl.path } }

def execMode (d a : SReg) (s : State) : Host.Outcome State Fault Refusal :=
  let w := s.cw
  commitW s true do
    let w' ← w.tryMode (w.rdS a.val)
    .ok (w'.wrS d.val w.ctl.wmode).advance

def execModex (d a b : SReg) (s : State) : Host.Outcome State Fault Refusal :=
  let w := s.cw
  commitW s true do
    let w' ← w.tryMode ((w.ctl.wmode &&& ~~~ (w.rdS b.val)) ||| (w.rdS a.val &&& w.rdS b.val))
    .ok (w'.wrS d.val w.ctl.wmode).advance

/-- EXRD: d names an even scalar (SUB 4). -/
def execExrd (d : SReg) (s : State) : Host.Outcome State Fault Refusal :=
  let w := s.cw
  commitW s true do
    aligned 2 [d.val]
    .ok ((w.wrS d.val w.ctl.exec).wrS (d.val + 1) w.ctl.wmode).advance

/-- EXWR: a names an even scalar (SUB 4). -/
def execExwr (a : SReg) (s : State) : Host.Outcome State Fault Refusal :=
  let w := s.cw
  commitW s true do
    aligned 2 [a.val]
    let w' ← w.tryMode (w.rdS (a.val + 1))
    .ok (w'.setExec (w.rdS a.val)).advance

/-- The shape of the predicate instructions: p[d][l] := bit l of f in each active lane (R264). -/
def predOp (d : PReg) (f : Warp → W64) (s : State) : Host.Outcome State Fault Refusal :=
  commitW s false (.ok (s.cw.wrP d.val s.cw.active (f s.cw)).advance)

def execPand (d a b : PReg) (s : State) := predOp d (fun w => w.regs.rdP a.val &&& w.regs.rdP b.val) s
def execPor (d a b : PReg) (s : State) := predOp d (fun w => w.regs.rdP a.val ||| w.regs.rdP b.val) s
def execPxor (d a b : PReg) (s : State) := predOp d (fun w => w.regs.rdP a.val ^^^ w.regs.rdP b.val) s
def execPnot (d a : PReg) (s : State) := predOp d (fun w => ~~~ (w.regs.rdP a.val)) s
def execPmov (d a : PReg) (s : State) := predOp d (fun w => w.regs.rdP a.val) s
def execStop (d : PReg) (a : SReg) (s : State) := predOp d (fun w => w.rdS a.val) s

/-- PTOS gathers p[a] of the active lanes into s[d] (R264). -/
def execPtos (d : SReg) (a : PReg) (s : State) : Host.Outcome State Fault Refusal :=
  let w := s.cw
  commitW s false (.ok (w.wrS d.val (w.regs.rdP a.val &&& w.active)).advance)

end Sys2Proof.Machine
end

