-- ==== Sys2Proof/Machine/Scalar.lean ====
section
/-! DEFINITION. SALU, SMISC and SCMP (R260 to R262). -/

namespace Sys2Proof.Machine

/-- A warp-uniform instruction that writes one scalar register and advances the pc. -/
def scalarOp (d : SReg) (f : Warp → W64) (s : State) : Host.Outcome State Fault Refusal :=
  commitW s true (.ok (s.cw.wrS d.val (f s.cw)).advance)

/-- The shape of SALU and SMISC: s[d] := f s[a] s[b] (R260). -/
def scalar2 (f : W64 → W64 → W64) (d a b : SReg) (s : State) : Host.Outcome State Fault Refusal :=
  scalarOp d (fun w => f (w.rdS a.val) (w.rdS b.val)) s

/-- The shape with one source. -/
def scalar1 (f : W64 → W64) (d a : SReg) (s : State) : Host.Outcome State Fault Refusal :=
  scalarOp d (fun w => f (w.rdS a.val)) s

/-- The signed minimum and maximum of two scalars. -/
def sminOf (x y : W64) : W64 := if x.slt y then x else y
def smaxOf (x y : W64) : W64 := if x.slt y then y else x
def uminOf (x y : W64) : W64 := if x.ult y then x else y
def umaxOf (x y : W64) : W64 := if x.ult y then y else x

/-- The high half of the signed 128-bit product (R260). -/
def mulhOf (x y : W64) : W64 := BitVec.ofInt 64 (floorShift (x.toInt * y.toInt) 64)

def execSadd (d a b : SReg) (s : State) := scalar2 (fun x y => x + y) d a b s
def execSsub (d a b : SReg) (s : State) := scalar2 (fun x y => x - y) d a b s
def execSmul (d a b : SReg) (s : State) := scalar2 (fun x y => x * y) d a b s
def execSmulh (d a b : SReg) (s : State) := scalar2 mulhOf d a b s
def execSand (d a b : SReg) (s : State) := scalar2 (fun x y => x &&& y) d a b s
def execSor (d a b : SReg) (s : State) := scalar2 (fun x y => x ||| y) d a b s
def execSxor (d a b : SReg) (s : State) := scalar2 (fun x y => x ^^^ y) d a b s
def execSshl (d a b : SReg) (s : State) := scalar2 (fun x y => x <<< (y.toNat % 64)) d a b s
def execSshr (d a b : SReg) (s : State) := scalar2 (fun x y => x >>> (y.toNat % 64)) d a b s
def execSsra (d a b : SReg) (s : State) := scalar2 (fun x y => x.sshiftRight (y.toNat % 64)) d a b s
def execSmin (d a b : SReg) (s : State) := scalar2 sminOf d a b s
def execSmax (d a b : SReg) (s : State) := scalar2 smaxOf d a b s
def execSminu (d a b : SReg) (s : State) := scalar2 uminOf d a b s
def execSmaxu (d a b : SReg) (s : State) := scalar2 umaxOf d a b s
def execSmov (d a : SReg) (s : State) := scalar1 (fun x => x) d a s
def execSnot (d a : SReg) (s : State) := scalar1 (fun x => ~~~x) d a s

/-! SMISC (R261): division truncates toward zero and never traps. -/

def sdivOf (x y : W64) : W64 := if y = 0 then BitVec.allOnes 64 else x.sdiv y
def sremOf (x y : W64) : W64 := if y = 0 then x else x.srem y
def sdivuOf (x y : W64) : W64 := if y = 0 then BitVec.allOnes 64 else x / y
def sremuOf (x y : W64) : W64 := if y = 0 then x else x % y

def execSclz (d a : SReg) (s : State) := scalar1 (fun x => BitVec.ofNat 64 (clzBits 64 x.toNat)) d a s
def execSpopc (d a : SReg) (s : State) := scalar1 (fun x => BitVec.ofNat 64 (popBits 64 x.toNat)) d a s
def execSdiv (d a b : SReg) (s : State) := scalar2 sdivOf d a b s
def execSrem (d a b : SReg) (s : State) := scalar2 sremOf d a b s
def execSdivu (d a b : SReg) (s : State) := scalar2 sdivuOf d a b s
def execSremu (d a b : SReg) (s : State) := scalar2 sremuOf d a b s

/-- SSEL reads the select predicate in the first lane (R258, R261). -/
def execSsel (d a b : SReg) (s : State) :=
  scalarOp d (fun w => if w.selP.getLsbD w.firstLane then w.rdS a.val else w.rdS b.val) s

/-- SCMP writes its condition to p[d] in every lane of the warp (R262). -/
def scalarCmp (f : W64 → W64 → Bool) (d : PReg) (a b : SReg) (s : State) : Host.Outcome State Fault Refusal :=
  let w := s.cw
  let c := if f (w.rdS a.val) (w.rdS b.val) then BitVec.allOnes 64 else 0
  commitW s true (.ok (w.wrP d.val (laneMask w.id.width) c).advance)

def execScmpEq (d : PReg) (a b : SReg) (s : State) := scalarCmp (fun x y => x == y) d a b s
def execScmpNe (d : PReg) (a b : SReg) (s : State) := scalarCmp (fun x y => x != y) d a b s
def execScmpLt (d : PReg) (a b : SReg) (s : State) := scalarCmp (fun x y => x.slt y) d a b s
def execScmpLe (d : PReg) (a b : SReg) (s : State) := scalarCmp (fun x y => x.sle y) d a b s
def execScmpGt (d : PReg) (a b : SReg) (s : State) := scalarCmp (fun x y => y.slt x) d a b s
def execScmpGe (d : PReg) (a b : SReg) (s : State) := scalarCmp (fun x y => y.sle x) d a b s
def execScmpLtu (d : PReg) (a b : SReg) (s : State) := scalarCmp (fun x y => x.ult y) d a b s
def execScmpLeu (d : PReg) (a b : SReg) (s : State) := scalarCmp (fun x y => x.ule y) d a b s
def execScmpGtu (d : PReg) (a b : SReg) (s : State) := scalarCmp (fun x y => y.ult x) d a b s
def execScmpGeu (d : PReg) (a b : SReg) (s : State) := scalarCmp (fun x y => y.ule x) d a b s

end Sys2Proof.Machine
end

