-- ==== Sys2Proof/Machine/Transcend.lean ====
section
/-! DEFINITION. The approximate transcendental functions FTRN (R275), by exact integer series. Values are
carried as multiples of 2^-400; a result is inexact unless its argument is one of those whose value is a
dyadic number, and its error is far below any tie that an argument of at most 24 bits meets (log 9). -/

namespace Sys2Proof.Machine

/-- Fraction bits of the fixed-point values. -/
def fxBits : Nat := 400

/-- floor(pi * 2^400) and floor(ln 2 * 2^400). -/
def piFx : Nat :=
  8112377246730971238862271351300894519161151600179265203591191037615230905373990498745523360926816815427566779727327576236
def ln2Fx : Nat :=
  1789879222497203190815761498240779176894896805856420935579692301363062920687047601279850318367644315849030039181347319086

/-- m * 2^e in units of 2^-400, rounded down. -/
def toFx (m : Nat) (e : Int) : Nat := m * 2 ^ (e + fxBits).toNat / 2 ^ (-(e + fxBits)).toNat

/-- A product of two fixed-point values. -/
def mulFx (x y : Nat) : Nat := x * y / 2 ^ fxBits

/-- The exponential series of z from term k on: fuel, k, the term, z. -/
def expSeries : Nat → Nat → Nat → Nat → Nat
  | 0, _, _, _ => 0
  | n + 1, k, term, z => term + expSeries n (k + 1) (mulFx term z / (k + 1)) z

/-- e^z for z below 1. -/
def expFx (z : Nat) : Nat := expSeries 110 0 (2 ^ fxBits) z

/-- 2^y as a fraction part's value and an integer exponent. -/
def exp2Fx (neg : Bool) (y : Nat) : Nat × Int :=
  let n : Int := if neg then -((y + 2 ^ fxBits - 1) / 2 ^ fxBits : Nat) else (y / 2 ^ fxBits : Nat)
  let f := if neg then (2 ^ fxBits - y % 2 ^ fxBits) % 2 ^ fxBits else y % 2 ^ fxBits
  (expFx (mulFx f ln2Fx), n)

/-- The alternating series of sine and cosine: fuel, k, the term, r squared. -/
def trigSeries : Nat → Nat → Nat → Nat → Int
  | 0, _, _, _ => 0
  | n + 1, k, term, r2 => (term : Int) - trigSeries n (k + 2) (mulFx term r2 / ((k + 1) * (k + 2))) r2

def sinFx (r : Nat) : Int := trigSeries 70 1 r (mulFx r r)
def cosFx (r : Nat) : Int := trigSeries 70 0 (2 ^ fxBits) (mulFx r r)

/-- The sine or cosine of x, in units of 2^-400: x is taken modulo pi / 2. -/
def trigFx (cos : Bool) (x : Nat) : Int :=
  let k := 2 * x / piFx
  let r := (2 * x - k * piFx) / 2
  match (k + if cos then 1 else 0) % 4 with
  | 0 => sinFx r
  | 1 => cosFx r
  | 2 => -sinFx r
  | _ => -cosFx r

/-- The series of the inverse hyperbolic tangent: fuel, 2i + 1, t^(2i+1), t squared. -/
def atanhSeries : Nat → Nat → Nat → Nat → Nat
  | 0, _, _, _ => 0
  | n + 1, k, p, t2 => p / k + atanhSeries n (k + 2) (mulFx p t2) t2

/-- The natural logarithm of u / 2^n, which lies in [1, 2). -/
def lnFx (u n : Nat) : Nat :=
  let t := (u - 2 ^ n) * 2 ^ fxBits / (u + 2 ^ n)
  2 * atanhSeries 140 1 t (mulFx t t)

/-- A value rounded RNE to p significant bits in T's exponent range, with subnormals (R275). -/
def roundP (t p : Nat) (neg : Bool) (m0 : Nat) (e0 : Int) (sticky : Bool) : LaneRes :=
  if m0 = 0 then (signBits t neg, 0)
  else
    let (m, e) := tameExp m0 e0
    let qu := leadExp m e - (p - 1 : Nat)
    let q := max qu (qminOf t)
    let (n, inex) := roundAt 0 neg 0 m e sticky q
    let (nu, _) := roundAt 0 neg 0 m e sticky qu
    let tiny := decide (qu < qminOf t + fracBits t) &&
      decide (nu < 2 ^ (qminOf t + fracBits t - qu).toNat)
    let (b, x) := roundFin t 0 false 0 neg n q false
    (b, x ||| (if inex then NX else 0) ||| (if inex && tiny then UF else 0))

/-- p of R275: for FRCPA and FRSQA, and for the other functions. -/
def trnBits (recip : Bool) (t : Nat) : Nat :=
  match t with
  | 4 => if recip then 12 else 22
  | 6 => 11
  | _ => 8

/-- A result slightly nearer zero than m * 2^e. -/
def justBelow (t p : Nat) (neg : Bool) (m : Nat) (e : Int) : LaneRes :=
  roundP t p neg (m * 2 ^ 60 - 1) (e - 60) true

/-- A canonical NaN with invalid. -/
def badTrn (t : Nat) : LaneRes := (canonNan t, NV)

def rcpaOf (t : Nat) (x : FpNum) : LaneRes :=
  match x with
  | .nan s => (canonNan t, nanExc (.nan s))
  | .inf a => (signBits t a, 0)
  | .fin a m e =>
    if m = 0 then (infBits t a, DZ)
    else
      let (r, k, st) := quotBits 1 m
      roundP t (trnBits true t) a r (k - e) st

def rsqaOf (t : Nat) (x : FpNum) : LaneRes :=
  match x with
  | .nan s => (canonNan t, nanExc (.nan s))
  | .inf a => if a then badTrn t else (0, 0)
  | .fin a m e =>
    if m = 0 then (infBits t a, DZ)
    else if a then badTrn t
    else
      let (r, k, st) := rsqrtBits m e
      roundP t (trnBits true t) false r k st

def exp2Of (t : Nat) (x : FpNum) : LaneRes :=
  match x with
  | .nan s => (canonNan t, nanExc (.nan s))
  | .inf a => (if a then 0 else infBits t false, 0)
  | .fin a m e =>
    let y := toFx m e
    let (v, n) := exp2Fx a y
    if y % 2 ^ fxBits = 0 then roundP t (trnBits false t) false 1 n false
    else roundP t (trnBits false t) false v (n - fxBits) true

def log2Of (t : Nat) (x : FpNum) : LaneRes :=
  match x with
  | .nan s => (canonNan t, nanExc (.nan s))
  | .inf a => if a then badTrn t else (infBits t false, 0)
  | .fin a m e =>
    if m = 0 then (infBits t true, DZ)
    else if a then badTrn t
    else
      let n := Nat.log2 m
      let k := e + n
      let frac := lnFx m n * 2 ^ fxBits / ln2Fx
      let v : Int := k * (2 ^ fxBits : Nat) + frac
      roundP t (trnBits false t) (decide (v < 0)) v.natAbs (-(fxBits : Int)) (m != 2 ^ n)

/-- Is |x| at least 2^20 (R275 FSIN, FCOS)? -/
def trigTooBig (m : Nat) (e : Int) : Bool := m != 0 && decide (20 ≤ leadExp m e)

def sinOf (t : Nat) (x : FpNum) : LaneRes :=
  match x with
  | .nan s => (canonNan t, nanExc (.nan s))
  | .inf _ => badTrn t
  | .fin a m e =>
    if m = 0 then (signBits t a, 0)
    else if trigTooBig m e then badTrn t
    else if leadExp m e < -90 then justBelow t (trnBits false t) a m e
    else
      let v := trigFx false (toFx m e)
      roundP t (trnBits false t) (a != decide (v < 0)) v.natAbs (-(fxBits : Int)) true

def cosOf (t : Nat) (x : FpNum) : LaneRes :=
  match x with
  | .nan s => (canonNan t, nanExc (.nan s))
  | .inf _ => badTrn t
  | .fin _ m e =>
    if m = 0 then roundP t (trnBits false t) false 1 0 false
    else if trigTooBig m e then badTrn t
    else
      let v := trigFx true (toFx m e)
      roundP t (trnBits false t) (decide (v < 0)) v.natAbs (-(fxBits : Int)) true

def tanhOf (t : Nat) (x : FpNum) : LaneRes :=
  match x with
  | .nan s => (canonNan t, nanExc (.nan s))
  | .inf a => roundP t (trnBits false t) a 1 0 false
  | .fin a m e =>
    if m = 0 then (signBits t a, 0)
    else if leadExp m e < -90 then justBelow t (trnBits false t) a m e
    else if 6 ≤ leadExp m e then justBelow t (trnBits false t) a 1 0
    else
      let y := 2 * toFx m e * 2 ^ fxBits / ln2Fx
      let (f, n) := exp2Fx false y
      let ex := f * 2 ^ n.toNat
      let v := (ex - 2 ^ fxBits) * 2 ^ fxBits / (ex + 2 ^ fxBits)
      roundP t (trnBits false t) a v (-(fxBits : Int)) true

/-- The shape of FTRN: a subnormal result is flushed under FTZ (R275, R193). -/
def trnOp (f : Nat → FpNum → LaneRes) (d a : VReg) (s : State) : Host.Outcome State Fault Refusal :=
  floatOp (fun t => t ∈ [4, 6, 7]) [d.val, a.val] [d.val, a.val] d
    (fun w t l =>
      let (b, x) := f t (w.num a.val l t)
      if wmFTZ w.ctl.wmode && isSubnormal t b then (flushBits t b, x ||| UF ||| NX) else (b, x)) s

def execFrcpa (d a : VReg) (s : State) := trnOp rcpaOf d a s
def execFrsqa (d a : VReg) (s : State) := trnOp rsqaOf d a s
def execFexp2 (d a : VReg) (s : State) := trnOp exp2Of d a s
def execFlog2 (d a : VReg) (s : State) := trnOp log2Of d a s
def execFsin (d a : VReg) (s : State) := trnOp sinOf d a s
def execFcos (d a : VReg) (s : State) := trnOp cosOf d a s
def execFtanh (d a : VReg) (s : State) := trnOp tanhOf d a s

end Sys2Proof.Machine
end

