-- ==== Sys2Proof/Machine/Dispatch.lean ====
section
/-! DEFINITION. One arm for each instruction and event: its meaning. -/

namespace Sys2Proof.Machine

def exec (i : Instr) (s : State) : Host.Outcome State Fault Refusal :=
  match i with
  | .sadd d a b => Sys2Proof.Machine.execSadd d a b s
  | .ssub d a b => Sys2Proof.Machine.execSsub d a b s
  | .smul d a b => Sys2Proof.Machine.execSmul d a b s
  | .smulh d a b => Sys2Proof.Machine.execSmulh d a b s
  | .sand d a b => Sys2Proof.Machine.execSand d a b s
  | .sor d a b => Sys2Proof.Machine.execSor d a b s
  | .sxor d a b => Sys2Proof.Machine.execSxor d a b s
  | .sshl d a b => Sys2Proof.Machine.execSshl d a b s
  | .sshr d a b => Sys2Proof.Machine.execSshr d a b s
  | .ssra d a b => Sys2Proof.Machine.execSsra d a b s
  | .smin d a b => Sys2Proof.Machine.execSmin d a b s
  | .smax d a b => Sys2Proof.Machine.execSmax d a b s
  | .sminu d a b => Sys2Proof.Machine.execSminu d a b s
  | .smaxu d a b => Sys2Proof.Machine.execSmaxu d a b s
  | .smov d a => Sys2Proof.Machine.execSmov d a s
  | .snot d a => Sys2Proof.Machine.execSnot d a s
  | .sclz d a => Sys2Proof.Machine.execSclz d a s
  | .spopc d a => Sys2Proof.Machine.execSpopc d a s
  | .sdiv d a b => Sys2Proof.Machine.execSdiv d a b s
  | .srem d a b => Sys2Proof.Machine.execSrem d a b s
  | .sdivu d a b => Sys2Proof.Machine.execSdivu d a b s
  | .sremu d a b => Sys2Proof.Machine.execSremu d a b s
  | .ssel d a b => Sys2Proof.Machine.execSsel d a b s
  | .scmpEq d a b => Sys2Proof.Machine.execScmpEq d a b s
  | .scmpNe d a b => Sys2Proof.Machine.execScmpNe d a b s
  | .scmpLt d a b => Sys2Proof.Machine.execScmpLt d a b s
  | .scmpLe d a b => Sys2Proof.Machine.execScmpLe d a b s
  | .scmpGt d a b => Sys2Proof.Machine.execScmpGt d a b s
  | .scmpGe d a b => Sys2Proof.Machine.execScmpGe d a b s
  | .scmpLtu d a b => Sys2Proof.Machine.execScmpLtu d a b s
  | .scmpLeu d a b => Sys2Proof.Machine.execScmpLeu d a b s
  | .scmpGtu d a b => Sys2Proof.Machine.execScmpGtu d a b s
  | .scmpGeu d a b => Sys2Proof.Machine.execScmpGeu d a b s
  | .mode d a => Sys2Proof.Machine.execMode d a s
  | .modex d a b => Sys2Proof.Machine.execModex d a b s
  | .exrd d => Sys2Proof.Machine.execExrd d s
  | .exwr a => Sys2Proof.Machine.execExwr a s
  | .pand d a b => Sys2Proof.Machine.execPand d a b s
  | .por d a b => Sys2Proof.Machine.execPor d a b s
  | .pxor d a b => Sys2Proof.Machine.execPxor d a b s
  | .pnot d a => Sys2Proof.Machine.execPnot d a s
  | .pmov d a => Sys2Proof.Machine.execPmov d a s
  | .ptos d a => Sys2Proof.Machine.execPtos d a s
  | .stop d a => Sys2Proof.Machine.execStop d a s
  | .ldl d xi => Sys2Proof.Machine.execLdl d xi s
  | .ldlq d xi => Sys2Proof.Machine.execLdlq d xi s
  | .ldlv d xi => Sys2Proof.Machine.execLdlv d xi s
  | .crd d n => Sys2Proof.Machine.execCrd d n s
  | .cwr a n => Sys2Proof.Machine.execCwr a n s
  | .vadd d a b => Sys2Proof.Machine.execVadd d a b s
  | .vsub d a b => Sys2Proof.Machine.execVsub d a b s
  | .vmul d a b => Sys2Proof.Machine.execVmul d a b s
  | .vmulh d a b => Sys2Proof.Machine.execVmulh d a b s
  | .vand d a b => Sys2Proof.Machine.execVand d a b s
  | .vor d a b => Sys2Proof.Machine.execVor d a b s
  | .vxor d a b => Sys2Proof.Machine.execVxor d a b s
  | .vshl d a b => Sys2Proof.Machine.execVshl d a b s
  | .vshr d a b => Sys2Proof.Machine.execVshr d a b s
  | .vsra d a b => Sys2Proof.Machine.execVsra d a b s
  | .vmin d a b => Sys2Proof.Machine.execVmin d a b s
  | .vmax d a b => Sys2Proof.Machine.execVmax d a b s
  | .vabs d a => Sys2Proof.Machine.execVabs d a s
  | .vneg d a => Sys2Proof.Machine.execVneg d a s
  | .vnot d a => Sys2Proof.Machine.execVnot d a s
  | .vmov d a => Sys2Proof.Machine.execVmov d a s
  | .vmad d a b => Sys2Proof.Machine.execVmad d a b s
  | .vmsb d a b => Sys2Proof.Machine.execVmsb d a b s
  | .vclz d a => Sys2Proof.Machine.execVclz d a s
  | .vpopc d a => Sys2Proof.Machine.execVpopc d a s
  | .vbrev d a => Sys2Proof.Machine.execVbrev d a s
  | .vbfx d a b => Sys2Proof.Machine.execVbfx d a b s
  | .vbfi d a b => Sys2Proof.Machine.execVbfi d a b s
  | .vsel d a b => Sys2Proof.Machine.execVsel d a b s
  | .vcmpEq d a b => Sys2Proof.Machine.execVcmpEq d a b s
  | .vcmpNe d a b => Sys2Proof.Machine.execVcmpNe d a b s
  | .vcmpLt d a b => Sys2Proof.Machine.execVcmpLt d a b s
  | .vcmpLe d a b => Sys2Proof.Machine.execVcmpLe d a b s
  | .vcmpGt d a b => Sys2Proof.Machine.execVcmpGt d a b s
  | .vcmpGe d a b => Sys2Proof.Machine.execVcmpGe d a b s
  | .vcmpLtu d a b => Sys2Proof.Machine.execVcmpLtu d a b s
  | .vcmpLeu d a b => Sys2Proof.Machine.execVcmpLeu d a b s
  | .vcmpGtu d a b => Sys2Proof.Machine.execVcmpGtu d a b s
  | .vcmpGeu d a b => Sys2Proof.Machine.execVcmpGeu d a b s
  | .vcmpUnord d a b => Sys2Proof.Machine.execVcmpUnord d a b s
  | .vcmpOrd d a b => Sys2Proof.Machine.execVcmpOrd d a b s
  | .fadd d a b => Sys2Proof.Machine.execFadd d a b s
  | .fsub d a b => Sys2Proof.Machine.execFsub d a b s
  | .fmul d a b => Sys2Proof.Machine.execFmul d a b s
  | .fmin d a b => Sys2Proof.Machine.execFmin d a b s
  | .fmax d a b => Sys2Proof.Machine.execFmax d a b s
  | .fabs d a => Sys2Proof.Machine.execFabs d a s
  | .fneg d a => Sys2Proof.Machine.execFneg d a s
  | .fclass d a => Sys2Proof.Machine.execFclass d a s
  | .fscale d a b => Sys2Proof.Machine.execFscale d a b s
  | .frnd d a => Sys2Proof.Machine.execFrnd d a s
  | .fcsgn d a b => Sys2Proof.Machine.execFcsgn d a b s
  | .ffma d a b => Sys2Proof.Machine.execFfma d a b s
  | .ffms d a b => Sys2Proof.Machine.execFfms d a b s
  | .fnma d a b => Sys2Proof.Machine.execFnma d a b s
  | .fcvt d a => Sys2Proof.Machine.execFcvt d a s
  | .fcvts d a b => Sys2Proof.Machine.execFcvts d a b s
  | .vpack d a b => Sys2Proof.Machine.execVpack d a b s
  | .vunpk d a k => Sys2Proof.Machine.execVunpk d a k s
  | .frcpa d a => Sys2Proof.Machine.execFrcpa d a s
  | .frsqa d a => Sys2Proof.Machine.execFrsqa d a s
  | .fexp2 d a => Sys2Proof.Machine.execFexp2 d a s
  | .flog2 d a => Sys2Proof.Machine.execFlog2 d a s
  | .fsin d a => Sys2Proof.Machine.execFsin d a s
  | .fcos d a => Sys2Proof.Machine.execFcos d a s
  | .ftanh d a => Sys2Proof.Machine.execFtanh d a s
  | .fdiv d a b => Sys2Proof.Machine.execFdiv d a b s
  | .fsqrt d a => Sys2Proof.Machine.execFsqrt d a s
  | .frsq d a => Sys2Proof.Machine.execFrsq d a s
  | .fdsqResult c slot => Sys2Proof.Machine.execFdsqResult c slot s
  | .vshuf d a b => Sys2Proof.Machine.execVshuf d a b s
  | .vbcast d a b => Sys2Proof.Machine.execVbcast d a b s
  | .vredadd d a => Sys2Proof.Machine.execVredadd d a s
  | .vredmin d a => Sys2Proof.Machine.execVredmin d a s
  | .vredmax d a => Sys2Proof.Machine.execVredmax d a s
  | .vscan d a => Sys2Proof.Machine.execVscan d a s
  | .vballot d a => Sys2Proof.Machine.execVballot d a s
  | .vcompact d a b => Sys2Proof.Machine.execVcompact d a b s
  | .vlane d a => Sys2Proof.Machine.execVlane d a s
  | .movsv d a => Sys2Proof.Machine.execMovsv d a s
  | .movvs d a b => Sys2Proof.Machine.execMovvs d a b s
  | .bra xi => Sys2Proof.Machine.execBra xi s
  | .bdiv xi => Sys2Proof.Machine.execBdiv xi s
  | .rcv xi => Sys2Proof.Machine.execRcv xi s
  | .bsr xi => Sys2Proof.Machine.execBsr xi s
  | .pool xi => Sys2Proof.Machine.execPool xi s
  | .jmp d a => Sys2Proof.Machine.execJmp d a s
  | .rets a => Sys2Proof.Machine.execRets a s
  | .sels a => Sys2Proof.Machine.execSels a s
  | .exit => Sys2Proof.Machine.execExit s
  | .nop => Sys2Proof.Machine.execNop s
  | .trap c => Sys2Proof.Machine.execTrap c s
  | .tres a => Sys2Proof.Machine.execTres a s
  | .trec d a b => Sys2Proof.Machine.execTrec d a b s
  | .tick d => Sys2Proof.Machine.execTick d s
  | .tai d => Sys2Proof.Machine.execTai d s
  | .waitt a => Sys2Proof.Machine.execWaitt a s
  | .waittDeadline c slot => Sys2Proof.Machine.execWaittDeadline c slot s
  | .ldU8 d x b l => Sys2Proof.Machine.execLdU8 d x b l s
  | .ldI8 d x b l => Sys2Proof.Machine.execLdI8 d x b l s
  | .ldU16 d x b l => Sys2Proof.Machine.execLdU16 d x b l s
  | .ldI16 d x b l => Sys2Proof.Machine.execLdI16 d x b l s
  | .ld32 d x b l => Sys2Proof.Machine.execLd32 d x b l s
  | .ld64 d x b l => Sys2Proof.Machine.execLd64 d x b l s
  | .ld128 d x b l => Sys2Proof.Machine.execLd128 d x b l s
  | .st8 d x b l => Sys2Proof.Machine.execSt8 d x b l s
  | .st16 d x b l => Sys2Proof.Machine.execSt16 d x b l s
  | .st32 d x b l => Sys2Proof.Machine.execSt32 d x b l s
  | .st64 d x b l => Sys2Proof.Machine.execSt64 d x b l s
  | .st128 d x b l => Sys2Proof.Machine.execSt128 d x b l s
  | .ldaTeam d x b l => Sys2Proof.Machine.execLdaTeam d x b l s
  | .ldaCluster d x b l => Sys2Proof.Machine.execLdaCluster d x b l s
  | .ldaDie d x b l => Sys2Proof.Machine.execLdaDie d x b l s
  | .ldaPackage d x b l => Sys2Proof.Machine.execLdaPackage d x b l s
  | .ldaGroup d x b l => Sys2Proof.Machine.execLdaGroup d x b l s
  | .ldaSystem d x b l => Sys2Proof.Machine.execLdaSystem d x b l s
  | .stlTeam d x b l => Sys2Proof.Machine.execStlTeam d x b l s
  | .stlCluster d x b l => Sys2Proof.Machine.execStlCluster d x b l s
  | .stlDie d x b l => Sys2Proof.Machine.execStlDie d x b l s
  | .stlPackage d x b l => Sys2Proof.Machine.execStlPackage d x b l s
  | .stlGroup d x b l => Sys2Proof.Machine.execStlGroup d x b l s
  | .stlSystem d x b l => Sys2Proof.Machine.execStlSystem d x b l s
  | .ldfe d x b => Sys2Proof.Machine.execLdfe d x b s
  | .ldff d x b => Sys2Proof.Machine.execLdff d x b s
  | .stfe d x b => Sys2Proof.Machine.execStfe d x b s
  | .stff d x b => Sys2Proof.Machine.execStff d x b s
  | .tagrd d x b l => Sys2Proof.Machine.execTagrd d x b l s
  | .tagwr d x b l => Sys2Proof.Machine.execTagwr d x b l s
  | .ldc d x b => Sys2Proof.Machine.execLdc d x b s
  | .stp d x b => Sys2Proof.Machine.execStp d x b s
  | .lnrd d x b l => Sys2Proof.Machine.execLnrd d x b l s
  | .lnwr d x b l => Sys2Proof.Machine.execLnwr d x b l s
  | .pref x b l => Sys2Proof.Machine.execPref x b l s
  | .cwb x b l => Sys2Proof.Machine.execCwb x b l s
  | .cinv x b l => Sys2Proof.Machine.execCinv x b l s
  | .iinv x b l => Sys2Proof.Machine.execIinv x b l s
  | .ldb d x l => Sys2Proof.Machine.execLdb d x l s
  | .mkb d x b l => Sys2Proof.Machine.execMkb d x b l s
  | .brd d b l => Sys2Proof.Machine.execBrd d b l s
  | .vqntSb3 d x b l => Sys2Proof.Machine.execVqntSb3 d x b l s
  | .vqntSb5 d x b l => Sys2Proof.Machine.execVqntSb5 d x b l s
  | .vqntSb8 d x b l => Sys2Proof.Machine.execVqntSb8 d x b l s
  | .vqntE4m3 d x b l => Sys2Proof.Machine.execVqntE4m3 d x b l s
  | .vqntE5m2 d x b l => Sys2Proof.Machine.execVqntE5m2 d x b l s
  | .vdqSb3 d x b l => Sys2Proof.Machine.execVdqSb3 d x b l s
  | .vdqSb5 d x b l => Sys2Proof.Machine.execVdqSb5 d x b l s
  | .vdqSb8 d x b l => Sys2Proof.Machine.execVdqSb8 d x b l s
  | .vdqE4m3 d x b l => Sys2Proof.Machine.execVdqE4m3 d x b l s
  | .vdqE5m2 d x b l => Sys2Proof.Machine.execVdqE5m2 d x b l s
  | .fence k xs => Sys2Proof.Machine.execFence k xs s
  | .fbar => Sys2Proof.Machine.execFbar s
  | .atomAdd d x b l => Sys2Proof.Machine.execAtomAdd d x b l s
  | .atomMin d x b l => Sys2Proof.Machine.execAtomMin d x b l s
  | .atomMax d x b l => Sys2Proof.Machine.execAtomMax d x b l s
  | .atomAnd d x b l => Sys2Proof.Machine.execAtomAnd d x b l s
  | .atomOr d x b l => Sys2Proof.Machine.execAtomOr d x b l s
  | .atomXor d x b l => Sys2Proof.Machine.execAtomXor d x b l s
  | .atomXchg d x b l => Sys2Proof.Machine.execAtomXchg d x b l s
  | .atomFadd d x b l => Sys2Proof.Machine.execAtomFadd d x b l s
  | .atomaAdd d x b l => Sys2Proof.Machine.execAtomaAdd d x b l s
  | .atomaMin d x b l => Sys2Proof.Machine.execAtomaMin d x b l s
  | .atomaMax d x b l => Sys2Proof.Machine.execAtomaMax d x b l s
  | .atomaAnd d x b l => Sys2Proof.Machine.execAtomaAnd d x b l s
  | .atomaOr d x b l => Sys2Proof.Machine.execAtomaOr d x b l s
  | .atomaXor d x b l => Sys2Proof.Machine.execAtomaXor d x b l s
  | .atomaXchg d x b l => Sys2Proof.Machine.execAtomaXchg d x b l s
  | .atomaFadd d x b l => Sys2Proof.Machine.execAtomaFadd d x b l s
  | .atomlAdd d x b l => Sys2Proof.Machine.execAtomlAdd d x b l s
  | .atomlMin d x b l => Sys2Proof.Machine.execAtomlMin d x b l s
  | .atomlMax d x b l => Sys2Proof.Machine.execAtomlMax d x b l s
  | .atomlAnd d x b l => Sys2Proof.Machine.execAtomlAnd d x b l s
  | .atomlOr d x b l => Sys2Proof.Machine.execAtomlOr d x b l s
  | .atomlXor d x b l => Sys2Proof.Machine.execAtomlXor d x b l s
  | .atomlXchg d x b l => Sys2Proof.Machine.execAtomlXchg d x b l s
  | .atomlFadd d x b l => Sys2Proof.Machine.execAtomlFadd d x b l s
  | .acas d x b l => Sys2Proof.Machine.execAcas d x b l s
  | .aredAdd d x b l => Sys2Proof.Machine.execAredAdd d x b l s
  | .aredMin d x b l => Sys2Proof.Machine.execAredMin d x b l s
  | .aredMax d x b l => Sys2Proof.Machine.execAredMax d x b l s
  | .aredAnd d x b l => Sys2Proof.Machine.execAredAnd d x b l s
  | .aredOr d x b l => Sys2Proof.Machine.execAredOr d x b l s
  | .aredXor d x b l => Sys2Proof.Machine.execAredXor d x b l s
  | .aredXchg d x b l => Sys2Proof.Machine.execAredXchg d x b l s
  | .aredFadd d x b l => Sys2Proof.Machine.execAredFadd d x b l s
  | .bar l k => Sys2Proof.Machine.execBar l k s
  | .bara l k => Sys2Proof.Machine.execBara l k s
  | .barw l k => Sys2Proof.Machine.execBarw l k s
  | .barx a l k => Sys2Proof.Machine.execBarx a l k s
  | .barinit a l k => Sys2Proof.Machine.execBarinit a l k s
  | .baralloc d a => Sys2Proof.Machine.execBaralloc d a s
  | .barfree d k => Sys2Proof.Machine.execBarfree d k s
  | .barmAw a => Sys2Proof.Machine.execBarmAw a s
  | .barmArrive a => Sys2Proof.Machine.execBarmArrive a s
  | .barmWait a => Sys2Proof.Machine.execBarmWait a s
  | .barmBytes a => Sys2Proof.Machine.execBarmBytes a s
  | .barmInit a => Sys2Proof.Machine.execBarmInit a s
  | .wsync a => Sys2Proof.Machine.execWsync a s
  | .monTeam x b l => Sys2Proof.Machine.execMonTeam x b l s
  | .monCluster x b l => Sys2Proof.Machine.execMonCluster x b l s
  | .monDie x b l => Sys2Proof.Machine.execMonDie x b l s
  | .monPackage x b l => Sys2Proof.Machine.execMonPackage x b l s
  | .monGroup x b l => Sys2Proof.Machine.execMonGroup x b l s
  | .monSystem x b l => Sys2Proof.Machine.execMonSystem x b l s
  | .mwait d a => Sys2Proof.Machine.execMwait d a s
  | .mwaitDeadline c slot => Sys2Proof.Machine.execMwaitDeadline c slot s
  | .spawn d a c l => Sys2Proof.Machine.execSpawn d a c l s
  | .join d a c => Sys2Proof.Machine.execJoin d a c s
  | .ftest d a c l => Sys2Proof.Machine.execFtest d a c l s
  | .ffill d a c l => Sys2Proof.Machine.execFfill d a c l s
  | .tret a => Sys2Proof.Machine.execTret a s
  | .center d a b => Sys2Proof.Machine.execCenter d a b s
  | .calu d a o c => Sys2Proof.Machine.execCalu d a o c s
  | .cmovCs d a => Sys2Proof.Machine.execCmovCs d a s
  | .cmovSc d a => Sys2Proof.Machine.execCmovSc d a s
  | .cmovCc d a => Sys2Proof.Machine.execCmovCc d a s
  | .cmovCi d xi j => Sys2Proof.Machine.execCmovCi d xi j s
  | .cld d a w => Sys2Proof.Machine.execCld d a w s
  | .cst a w v => Sys2Proof.Machine.execCst a w v s
  | .cbr xi => Sys2Proof.Machine.execCbr xi s
  | .cstep => Sys2Proof.Machine.execCstep s
  | .cend => Sys2Proof.Machine.execCend s
  | .cabort => Sys2Proof.Machine.execCabort s
  | .capsuleAcquire c slot rec save => Sys2Proof.Machine.execCapsuleAcquire c slot rec save s
  | .capsuleProbe c slot => Sys2Proof.Machine.execCapsuleProbe c slot s
  | .capsuleProbeReply c slot => Sys2Proof.Machine.execCapsuleProbeReply c slot s
  | .capsuleAdopt c slot => Sys2Proof.Machine.execCapsuleAdopt c slot s
  | .capsuleAdoptionComplete c slot => Sys2Proof.Machine.execCapsuleAdoptionComplete c slot s
  | .capsuleCommit c slot => Sys2Proof.Machine.execCapsuleCommit c slot s
  | .capsuleEnd c slot => Sys2Proof.Machine.execCapsuleEnd c slot s
  | .capsuleAbortRequest c slot => Sys2Proof.Machine.execCapsuleAbortRequest c slot s
  | .capsuleDepartureNotice line => Sys2Proof.Machine.execCapsuleDepartureNotice line s
  | .capsuleKillNotice part rec ident => Sys2Proof.Machine.execCapsuleKillNotice part rec ident s
  | .capsuleRebind c slot => Sys2Proof.Machine.execCapsuleRebind c slot s
  | .shcopy d a c l => Sys2Proof.Machine.execShcopy d a c l s
  | .shgath d a c l => Sys2Proof.Machine.execShgath d a c l s
  | .shscat d a c l => Sys2Proof.Machine.execShscat d a c l s
  | .shmcast d a c l => Sys2Proof.Machine.execShmcast d a c l s
  | .shcan d a l => Sys2Proof.Machine.execShcan d a l s
  | .shqry d a l => Sys2Proof.Machine.execShqry d a l s
  | .shput d a c l => Sys2Proof.Machine.execShput d a c l s
  | .shget d a c l => Sys2Proof.Machine.execShget d a c l s
  | .mma a f p z l => Sys2Proof.Machine.execMma a f p z l s
  | .mmaPass k => Sys2Proof.Machine.execMmaPass k s
  | .mmaComplete k => Sys2Proof.Machine.execMmaComplete k s
  | .nmv d a c l => Sys2Proof.Machine.execNmv d a c l s
  | .engineChunk c e => Sys2Proof.Machine.execEngineChunk c e s
  | .remoteChunk req => Sys2Proof.Machine.execRemoteChunk req s
  | .promiseExpiry c e => Sys2Proof.Machine.execPromiseExpiry c e s
  | .longLatencyComplete c n => Sys2Proof.Machine.execLongLatencyComplete c n s
  | .warpPromotion c slot => Sys2Proof.Machine.execWarpPromotion c slot s
  | .clockBalance part => Sys2Proof.Machine.execClockBalance part s
  | .clusterClockChange k => Sys2Proof.Machine.execClusterClockChange k s
  | .distributorStartTeam d j => Sys2Proof.Machine.execDistributorStartTeam d j s
  | .teamRequest d j => Sys2Proof.Machine.execTeamRequest d j s
  | .readinessMonitorRead c line => Sys2Proof.Machine.execReadinessMonitorRead c line s
  | .taskAdmission c n => Sys2Proof.Machine.execTaskAdmission c n s
  | .snapshotDrain c n => Sys2Proof.Machine.execSnapshotDrain c n s
  | .stagingAllocate c n => Sys2Proof.Machine.execStagingAllocate c n s
  | .stagingChunk c n => Sys2Proof.Machine.execStagingChunk c n s
  | .stagingCancelComplete c => Sys2Proof.Machine.execStagingCancelComplete c s
  | .writebackChunk c slot => Sys2Proof.Machine.execWritebackChunk c slot s
  | .bobbinRefill c => Sys2Proof.Machine.execBobbinRefill c s
  | .taskDispatch c => Sys2Proof.Machine.execTaskDispatch c s
  | .stealProbe c => Sys2Proof.Machine.execStealProbe c s
  | .stealRequest c => Sys2Proof.Machine.execStealRequest c s
  | .stealReply c => Sys2Proof.Machine.execStealReply c s
  | .stealSweepWaitExpiry c => Sys2Proof.Machine.execStealSweepWaitExpiry c s
  | .jobEnd j => Sys2Proof.Machine.execJobEnd j s
  | .jobEndRecord j => Sys2Proof.Machine.execJobEndRecord j s
  | .l1Eviction c line => Sys2Proof.Machine.execL1Eviction c line s
  | .l2Eviction d line => Sys2Proof.Machine.execL2Eviction d line s
  | .writebackAck d line => Sys2Proof.Machine.execWritebackAck d line s
  | .heddleSnoop d line => Sys2Proof.Machine.execHeddleSnoop d line s
  | .directoryRequest q line write => Sys2Proof.Machine.execDirectoryRequest q line write s
  | .recallComplete h => Sys2Proof.Machine.execRecallComplete h s
  | .recallTimeout h => Sys2Proof.Machine.execRecallTimeout h s
  | .overflowSweep => Sys2Proof.Machine.execOverflowSweep s
  | .heddleDieLoss h => Sys2Proof.Machine.execHeddleDieLoss h s
  | .requestResend d => Sys2Proof.Machine.execRequestResend d s
  | .directoryRebuildComplete => Sys2Proof.Machine.execDirectoryRebuildComplete s
  | .scaskaxonPortDown port => Sys2Proof.Machine.execScaskaxonPortDown port s
  | .memberUnreachable pos => Sys2Proof.Machine.execMemberUnreachable pos s
  | .scrubPass corrected bad => Sys2Proof.Machine.execScrubPass corrected bad s
  | .pageWalk part host va kind c => Sys2Proof.Machine.execPageWalk part host va kind c s
  | .faultRecordSend part k => Sys2Proof.Machine.execFaultRecordSend part k s
  | .faultReplyResolved part num => Sys2Proof.Machine.execFaultReplyResolved part num s
  | .faultReplyUnresolvable part num => Sys2Proof.Machine.execFaultReplyUnresolvable part num s
  | .originAgeExpiry c => Sys2Proof.Machine.execOriginAgeExpiry c s
  | .watchdogExpiry j => Sys2Proof.Machine.execWatchdogExpiry j s
  | .preemptionComplete j => Sys2Proof.Machine.execPreemptionComplete j s
  | .restorePlace part q => Sys2Proof.Machine.execRestorePlace part q s
  | .restoreResume part q => Sys2Proof.Machine.execRestoreResume part q s
  | .queueEnable part q v => Sys2Proof.Machine.execQueueEnable part q v s
  | .queueDisable part q => Sys2Proof.Machine.execQueueDisable part q s
  | .feQwidxWrite part q n => Sys2Proof.Machine.execFeQwidxWrite part q n s
  | .feQridxWrite part q n => Sys2Proof.Machine.execFeQridxWrite part q n s
  | .jobPreempt part job => Sys2Proof.Machine.execJobPreempt part job s
  | .jobPreemptDie part job d => Sys2Proof.Machine.execJobPreemptDie part job d s
  | .jobKill part job => Sys2Proof.Machine.execJobKill part job s
  | .launch part q => Sys2Proof.Machine.execLaunch part q s
  | .resume part q => Sys2Proof.Machine.execResume part q s
  | .waitw part q => Sys2Proof.Machine.execWaitw part q s
  | .waitwTimeout part q => Sys2Proof.Machine.execWaitwTimeout part q s
  | .signal part q => Sys2Proof.Machine.execSignal part q s
  | .copy part q => Sys2Proof.Machine.execCopy part q s
  | .copyComplete part q => Sys2Proof.Machine.execCopyComplete part q s
  | .timed part q => Sys2Proof.Machine.execTimed part q s
  | .timedPrepare part q => Sys2Proof.Machine.execTimedPrepare part q s
  | .timedRelease part q => Sys2Proof.Machine.execTimedRelease part q s
  | .timedFirstIssue part q => Sys2Proof.Machine.execTimedFirstIssue part q s
  | .fencePacket part q => Sys2Proof.Machine.execFencePacket part q s
  | .mark part q => Sys2Proof.Machine.execMark part q s
  | .lookaheadParse part q => Sys2Proof.Machine.execLookaheadParse part q s
  | .queueSlotAdmit part q => Sys2Proof.Machine.execQueueSlotAdmit part q s
  | .taiSet ns => Sys2Proof.Machine.execTaiSet ns s
  | .ptmRequest => Sys2Proof.Machine.execPtmRequest s
  | .ptmSample off => Sys2Proof.Machine.execPtmSample off s
  | .ppsEdge => Sys2Proof.Machine.execPpsEdge s
  | .taiSampleTimeout => Sys2Proof.Machine.execTaiSampleTimeout s
  | .tlbInvalidate part v => Sys2Proof.Machine.execTlbInvalidate part v s
  | .invalidationComplete part => Sys2Proof.Machine.execInvalidationComplete part s
  | .pageTagInit part v => Sys2Proof.Machine.execPageTagInit part v s
  | .pageTagInitComplete part => Sys2Proof.Machine.execPageTagInitComplete part s
  | .partitionEnable part => Sys2Proof.Machine.execPartitionEnable part s
  | .partitionDisable part => Sys2Proof.Machine.execPartitionDisable part s
  | .partitionReset part => Sys2Proof.Machine.execPartitionReset part s
  | .partitionResetComplete part => Sys2Proof.Machine.execPartitionResetComplete part s
  | .bucketRefill d => Sys2Proof.Machine.execBucketRefill d s
  | .hdGroupWrite reg v => Sys2Proof.Machine.execHdGroupWrite reg v s
  | .bar2Read fn off n => Sys2Proof.Machine.execBar2Read fn off n s
  | .bar2Write fn off bytes => Sys2Proof.Machine.execBar2Write fn off bytes s
  | .functionLevelReset fn => Sys2Proof.Machine.execFunctionLevelReset fn s
  | .pcieLinkDown => Sys2Proof.Machine.execPcieLinkDown s
  | .pcieLinkUp => Sys2Proof.Machine.execPcieLinkUp s
  | .hostCompletion c => Sys2Proof.Machine.execHostCompletion c s
  | .bundleUpdate => Sys2Proof.Machine.execBundleUpdate s
  | .updateComplete => Sys2Proof.Machine.execUpdateComplete s
  | .measure => Sys2Proof.Machine.execMeasure s
  | .measurementReport => Sys2Proof.Machine.execMeasurementReport s
  | .commitSvn key => Sys2Proof.Machine.execCommitSvn key s
  | .packageReset key => Sys2Proof.Machine.execPackageReset key s
  | .recoveryBundle => Sys2Proof.Machine.execRecoveryBundle s
  | .powerOn => Sys2Proof.Machine.execPowerOn s
  | .coldReset => Sys2Proof.Machine.execColdReset s
  | .bootVerify => Sys2Proof.Machine.execBootVerify s
  | .bootLoad ok => Sys2Proof.Machine.execBootLoad ok s
  | .bootClear => Sys2Proof.Machine.execBootClear s
  | .bootReady => Sys2Proof.Machine.execBootReady s
  | .i3cStatus => Sys2Proof.Machine.execI3cStatus s
  | .i3cImageBlock num bytes => Sys2Proof.Machine.execI3cImageBlock num bytes s
  | .i3cImageEnd len => Sys2Proof.Machine.execI3cImageEnd len s
  | .i3cMeasure nonce => Sys2Proof.Machine.execI3cMeasure nonce s
  | .i3cPackageReset key => Sys2Proof.Machine.execI3cPackageReset key s
  | .eolRecompute trend => Sys2Proof.Machine.execEolRecompute trend s
  | .powerSample vin pin tj => Sys2Proof.Machine.execPowerSample vin pin tj s
  | .throttleStep => Sys2Proof.Machine.execThrottleStep s
  | .inputUndervoltage => Sys2Proof.Machine.execInputUndervoltage s
  | .inputOutOfRange => Sys2Proof.Machine.execInputOutOfRange s
  | .thermalThrottle d => Sys2Proof.Machine.execThermalThrottle d s
  | .thermalShutdown => Sys2Proof.Machine.execThermalShutdown s
  | .feHeartbeat => Sys2Proof.Machine.execFeHeartbeat s
  | .heartbeatTimeout => Sys2Proof.Machine.execHeartbeatTimeout s
  | .autoReset => Sys2Proof.Machine.execAutoReset s
  | .registerWrite fn off v => Sys2Proof.Machine.execRegisterWrite fn off v s
  | .scaskaxonPortUp port => Sys2Proof.Machine.execScaskaxonPortUp port s
  | .linkLevelReplay port ok => Sys2Proof.Machine.execLinkLevelReplay port ok s
  | .inputVoltageHeld => Sys2Proof.Machine.execInputVoltageHeld s
  | .timedPreparationComplete part q => Sys2Proof.Machine.execTimedPreparationComplete part q s

end Sys2Proof.Machine
end

