-- ==== Sys2Proof/Machine/Issue.lean ====
section
/-! DEFINITION. How a warp issues: readiness and choice (R35 to R37), reconvergence and fetch (R40, R220, R231), the decode
trap (R236), the capsule's gate (R174); and how a step ends. -/

namespace Sys2Proof.Machine

/-! ## Readiness (R35) -/

/-- May the job's warps on a core issue: it runs, no pre-emption holds them, its release has come? -/
def State.jobIssues (s : State) (j c : Nat) : Bool :=
  match s.jobs.look j with
  | none => false
  | some jb => jb.phase == .running && jb.stop.isNone && jb.dieStop != some (dieOf c) && jb.gate == .open

/-- Is a warp ready as far as its next word does not matter: ACTIVE, with no answer of a slice on its way, every window admits
it, nothing of it waits for a page? -/
def State.warpReady (s : State) (c k : Nat) : Bool :=
  let w := s.warp c k
  w.st == .active && w.wait == .none && w.fetch.isEmpty && (w.log.all fun e => decide (e.used < e.la)) &&
  (match w.cap with | some cp => cp.rebind.isNone && cp.pages.isEmpty | none => true) && s.jobIssues w.id.job c

/-- Does an incomplete instruction keep the next one from issuing: a register in the scoreboard, or an acquire before a
data access (R35, R137, R241)? -/
def Warp.blocks (w : Warp) (word : Nat) (i : Instr) : Bool :=
  ((Instr.keys w i).any fun r => decide (r ∈ w.held)) ||
  ((w.log.any LogEntry.isAcquire) && dataOpcode word)

/-! ## The issue of one warp -/

/-- An opcode that runs inside a capsule (R174). -/
def capsuleOpcode (word : Nat) : Bool := decide (0x61 ≤ word / 2 ^ 25) && decide (word / 2 ^ 25 ≤ 0x67)

/-- A word that is no instruction traps with the SUB of its check (R236); in a capsule, in the capsule's lane. -/
def State.illegalWord (s : State) (r : Reject) : State :=
  let mask := s.cw.cap.map fun (cp : Capsule) => laneBit cp.lane
  s.stopNow true (.trap { cause := ILLEGAL, sub := r.sub.toNat, mask := mask })

/-- The current warp has this word as its next one. -/
def State.withWord (s : State) (word : Nat) : State :=
  { s with curWord := BitVec.ofNat 32 word }.setCw { s.cw with word := BitVec.ofNat 32 word }

/-- Is a trap the decode check of R236 on the registers that a word names? MMA's accumulator range is checked when it executes, by
its format word (R344). -/
def Instr.decodeTrap (i : Instr) (w : Warp) (t : Trapped) : Bool :=
  t.cause.toNat == ILLEGAL && (t.sub == 4 || t.sub == 6 || t.sub == 3 &&
    match i with
    | .mma a f _ _ _ => decide (w.vregs ≤ a.val) || decide (w.vregs ≤ f.val)
    | _ => true)

/-- The SUB of the decode check (R236) that fails for an instruction of the current warp, among those that read its allotment and
WMODE; none where they hold. They come before everything that the instruction reads. -/
def State.decodeSub (s : State) (i : Instr) : Option Nat :=
  let w := s.cw
  let id := { w.id with handler := false, allot := if w.id.handler then 0 else w.id.allot }
  match exec i (s.setCw { w with id := id, log := [], fdsq := [], bad := [], cap := none }) with
  | .next t => if t.cw.st == .held && Instr.decodeTrap i w t.cw.trap then some t.cw.trap.sub.toNat else none
  | _ => none

/-- An instruction executes. One whose decode checks hold and that reads an uncorrectable register element stops the context (R124,
R236), at a place that no memory has; one that has executed leaves the elements that it wrote sound (R445). -/
noncomputable def State.execWith (s : State) (i : Instr) : Host.Outcome State Fault Refusal :=
  let w := s.cw
  if w.bad.isEmpty || (s.decodeSub i).isSome then exec i s
  else
    match (Instr.elemsRead w i).find? w.bad.has with
    | some key => .next (s.poisonNow (2 ^ 61 + key))
    | none =>
      match exec i s with
      | .next t =>
        let u := t.warp s.cur.1 s.cur.2
        let done := u.st == .active && u.wait == .none && u.log.length ≤ w.log.length && u.fdsq.length ≤ w.fdsq.length &&
          u.ctl.pc != w.ctl.pc
        .next (if done then t.setWarp s.cur.1 s.cur.2 (u.mend (Instr.elemsWritten w i)) else t)
      | x => x

/-- A fetched word issues; none while something incomplete keeps it back. In a capsule the decode checks come before its limits
(R174, R236). -/
noncomputable def State.issueWord (s : State) (word : Nat) : Option (Host.Outcome State Fault Refusal) :=
  let s := s.withWord word
  let w := s.cw
  match decodeWord word with
  | .bad r => some (.next (s.illegalWord r))
  | .ok i =>
    match w.cap with
    | some cp =>
      match s.decodeSub i with
      | some n => some (.next (s.stopNow true (.trap { cause := ILLEGAL, sub := n, mask := some (laneBit cp.lane) })))
      | none => if capsuleOpcode word && !cp.full then some (s.execWith i) else some (.next (s.limitNow cp))
    | none => if w.blocks word i then none else some (s.execWith i)

/-- The current warp's next word is fetched and issues. -/
noncomputable def State.fetchIssue (s : State) : Option (Host.Outcome State Fault Refusal) :=
  match s.fetchBytes s.cw.ctl.pc.toNat 4 with
  | .ok (word, t) => t.issueWord word
  | .error (.fault ps) => some (.next (s.fetchFault ps))
  | .error e => some (.next (s.stopNow true e))

/-- A page of the warp's code that was declared unresolvable stops its context (R265): under which reason of R230, and with what
beside it, the spec leaves open (log 16). -/
def State.fetchStop (s : State) : State :=
  let j := s.cw.id.job
  let (r, s) := (s.setCw { s.cw with fetchDead := none }).takeNat
  let (info, s) := s.takeWord
  s.stopJob j { reason := r % 4 + 1, info := info }

/-- The current warp issues. Reconvergence comes first (R40). -/
noncomputable def State.issueCur (s : State) : Option (Host.Outcome State Fault Refusal) :=
  let s := s.setCw s.cw.reconverge
  let w := s.cw
  match w.fetchDead with
  | some _ => some (.next s.fetchStop)
  | none =>
    match w.cap with
    | some cp =>
      if cp.lost then some (.next (s.displaced s.cur.1 s.cur.2 cp))
      else if cp.outside w.ctl.pc.toNat then some (.next (s.limitNow cp))
      else s.fetchIssue
    | none => s.fetchIssue

/-- Slot k of core c issues; none when it is not ready, its bucket's shortage included. -/
noncomputable def State.issueSlot (s : State) (c k : Nat) : Option (Host.Outcome State Fault Refusal) :=
  if s.warpReady c k then
    match { s with cur := (c, k) }.issueCur with
    | some (.next t) => if t.short then none else some (.next t)
    | x => x
  else none

/-! ## Choice (R36, R37) -/

/-- An issue changed its warp, rather than leave it to wait. -/
def State.moved (s t : State) (c k : Nat) : Bool :=
  let a := s.warp c k
  let b := t.warp c k
  a.ctl.pc != b.ctl.pc || a.st != b.st || a.log.length != b.log.length || !b.fetch.isEmpty || a.ctl.done != b.ctl.done ||
  a.cap != b.cap || a.wait != b.wait || t.jobs.look a.id.job != s.jobs.look a.id.job

/-- Is a warp ready: does its next instruction go on in this state (R35)? -/
noncomputable def State.ready (s : State) (c k : Nat) : Bool :=
  match s.issueSlot c k with
  | some (.next t) => s.moved t c k
  | some _ => true
  | none => false

/-- Does one warp go before another: the higher effective priority, then the larger wait count, then the lower slot? Of warps
of two cores, the lower core goes first (R345). -/
def goesBefore (a b : Nat × Warp) : Bool :=
  if a.2.effPrio ≠ b.2.effPrio then decide (b.2.effPrio < a.2.effPrio)
  else if a.2.ctl.wait ≠ b.2.ctl.wait then decide (b.2.ctl.wait < a.2.ctl.wait)
  else decide (a.1 < b.1)

/-- Ready warps that satisfy a test and go before the one in slot k of core c. -/
noncomputable def State.ahead (s : State) (c k : Nat) (f : Nat → Bool) : Nat :=
  (s.slots.filter fun p => f p.1 && goesBefore p (slotKey c k, s.warp c k) && s.ready (p.1 / 128) (p.1 % 128)).length

/-- The warp that a core's arithmetic cycle has chosen beside the one that has issued in it, while it is ready (R37). -/
noncomputable def State.second (s : State) (c : Nat) : Option Nat := (s.cycle.look c).filter (s.ready c)

/-- Is a ready warp among the two that its core chooses (R37)? In a cycle in which one of the two has issued, only the other is
left: each issues once before the core chooses again. -/
noncomputable def State.chosen (s : State) (c k : Nat) : Bool :=
  match s.second c with
  | some k2 => k2 == k
  | none => decide (s.ahead c k (fun key => key / 128 == c) < 2)

/-- The opcode of a warp's next word. -/
def State.nextOp (s : State) (c k : Nat) : Option Nat :=
  let s := { s with cur := (c, k) }
  let s := s.setCw s.cw.reconverge
  match s.fetchBytes s.cw.ctl.pc.toNat 4 with
  | .ok (word, _) => some (word / 2 ^ 25)
  | .error _ => none

/-- Opcodes of the engine commands (R334). -/
def isCommandOpcode (op : Nat) : Bool := [0x68, 0x69, 0x6A, 0x6B, 0x6E, 0x6F, 0x71].contains op

/-- Is the warp's next instruction granted an entry of its unit: an MMA by the cluster's reservation table among those chosen for one
(R345), a command by the core's shuttle in the order of R37 (R334)? -/
noncomputable def State.granted (s : State) (c k : Nat) : Bool :=
  let rivals := fun (near : Nat → Bool) (f : Nat → Bool) => s.ahead c k fun key =>
    near key && (s.nextOp (key / 128) (key % 128)).any f && s.chosen (key / 128) (key % 128)
  match s.nextOp c k with
  | some op =>
    if op = 0x70 then
      decide ((s.mmaTable (c / 4)).length + rivals (fun key => key / 512 == c / 4) (· == 0x70) < 16)
    else if isCommandOpcode op then
      decide (s.stagingDemand c + rivals (fun key => key / 128 == c) isCommandOpcode < (s.freeEntries c).length)
    else true
  | none => true

/-- Does a warp lack only an entry of its unit: it is turned away, or it is chosen and not granted one (R334, R345)? -/
noncomputable def State.lacks (s : State) (c k : Nat) : Bool :=
  (match s.issueSlot c k with
    | some (.next t) => (t.warp c k).ctl.wait == (s.warp c k).ctl.wait + 1
    | _ => false) ||
  s.ready c k && s.chosen c k && !s.granted c k

/-- The warp that a core's new cycle chooses beside one that issues in it (R37). -/
noncomputable def State.partner (s : State) (c k : Nat) : Option Nat :=
  (s.slots.keys.find? fun key => key / 128 == c && key % 128 != k && s.ready c (key % 128) && s.chosen c (key % 128) &&
    s.granted c (key % 128)).map (· % 128)

/-- A warp waits once more (R36). -/
def Warp.waits (w : Warp) : Warp := { w with ctl := { w.ctl with wait := w.ctl.wait + 1 } }

/-- What the issue of slot k, which makes t of s, means for the others of its core: as the first of a cycle, the other chosen warp
is still to issue, and the ready ones that are not chosen, or that lack an entry, wait once more (R36, R37). -/
noncomputable def State.othersWait (s t : State) (c k : Nat) : State :=
  if !s.moved t c k then t
  else if (s.second c).isSome then { t with cycle := t.cycle.del c }
  else
    let q := s.partner c k
    { t with
      cycle := match q with | some k2 => t.cycle.ins c k2 | none => t.cycle.del c
      slots := t.slots.mapV fun key (w : Warp) =>
        if key / 128 = c ∧ key % 128 ≠ k ∧ q ≠ some (key % 128) ∧ (s.ready c (key % 128) || s.lacks c (key % 128)) then w.waits
        else w }

/-- A warp that lacks an entry of its unit waits once more (R334, R345). -/
noncomputable def State.notGranted (s : State) (c k : Nat) : State :=
  if s.lacks c k then s.setWarp c k (s.warp c k).waits else s

/-- The warps of the other cores that lack an entry wait once more: a cycle of theirs passes in which they do not issue. -/
noncomputable def State.lackingWait (s t : State) (c : Nat) : State :=
  { t with slots := t.slots.mapV fun key (w : Warp) =>
      if key / 128 ≠ c ∧ s.lacks (key / 128) (key % 128) then w.waits else w }

/-- May the warp issue before the others of its core and of its cluster? -/
noncomputable def State.mayIssue (s : State) (c k : Nat) : Bool := s.chosen c k && s.granted c k

/-- Puts a warp into its place among others. -/
def insertWarp (x : Nat × Warp) : List (Nat × Warp) → List (Nat × Warp)
  | [] => [x]
  | y :: ys => if goesBefore x y then x :: y :: ys else y :: insertWarp x ys

/-- The cores that hold warps, from the one after the latest on. -/
def State.coreOrder (s : State) : List Nat :=
  let cs := (s.slots.keys.map fun key => key / 128).foldl addNew []
  (cs.filter fun c => decide (s.cur.1 < c)) ++ cs.filter fun c => decide (c ≤ s.cur.1)

/-- The ready slots, as a step without an agenda tries them. -/
def State.candidates (s : State) : List (Nat × Nat) :=
  s.coreOrder.flatMap fun c =>
    let ws := s.slots.keep fun key _ => key / 128 == c && s.warpReady c (key % 128)
    (ws.foldl (fun l x => insertWarp x l) []).map fun p => (c, p.1 % 128)

/-- The first ready warp that issues. -/
noncomputable def State.issueFirst (s : State) : List (Nat × Nat) → Option (Host.Outcome State Fault Refusal)
  | [] => none
  | (c, k) :: cs =>
    match if s.mayIssue c k then s.issueSlot c k else none with
    | some (.next t) =>
      if s.moved t c k then some (.next (s.lackingWait (s.othersWait t c k) c)) else s.issueFirst cs
    | some x => some x
    | none => s.issueFirst cs

/-! ## A step -/

/-- What every step ends with. -/
def State.finishStep (s : State) : State := s.settle.passTime

/-- An outcome with the end of the step. -/
def finish : Host.Outcome State Fault Refusal → Host.Outcome State Fault Refusal
  | .next t => .next t.finishStep
  | x => x

/-- Is it an event, and well formed? -/
def Instr.isEvent (i : Instr) : Bool := (encode i).isNone && Instr.wf i

/-- What the recovery core and the power controller still do while the core rails or the first stage are off (R437). -/
def Instr.whileOff (i : Instr) : Bool :=
  match i with
  | .powerOn => true
  | .coldReset => true
  | .i3cStatus => true
  | _ => false

/-- An event of the agenda: refused where its occasion is not at hand, or its bucket is short. -/
def State.takeEvent (s : State) (i : Instr) : Host.Outcome State Fault Refusal :=
  match exec i s with
  | .next t => if t.short then .refused (.notEnabled "a bucket is short") else finish (.next t)
  | x => x

/-- The copy engine's next chunk. -/
def State.takeCopy (s : State) (p : PartId) (q : QueueNo) : Host.Outcome State Fault Refusal :=
  match s.copyOf p.val q.val with
  | some x =>
    match if x.pos + 4096 < x.len then s.copyChunk x else none with
    | some t => if t.short then .refused (.notEnabled "a bucket is short") else finish (.next t)
    | none => .refused (.notEnabled "a chunk of COPY")
  | none => .refused (.notEnabled "a chunk of COPY")

/-- The bank performs the n-th far store of a core (R148). -/
def State.takeFar (s : State) (c n : Nat) : Host.Outcome State Fault Refusal :=
  let x := s.core c
  match x.far[n]? with
  | some q => finish (.next ((s.setCore c { x with far := x.far.eraseIdx n }).write q.place q.bytes))
  | none => .refused (.notEnabled "a far store")

/-- A level of storage meets an error (R123). -/
def State.takeUpset (s : State) (u : Upset) : Host.Outcome State Fault Refusal :=
  match s.upset u with
  | some t => finish (.next t)
  | none => .refused (.notEnabled "an error of storage")

/-- One turn of the agenda. A warp that is not ready, or not chosen, does not issue, and time passes (R35, R37). -/
noncomputable def State.takeTurn (s : State) : Turn → Host.Outcome State Fault Refusal
  | .event i => if Instr.isEvent i then s.takeEvent i else .refused (.notEnabled "an instruction word is no event")
  | .issue c k =>
    if s.chosen c.val k.val then
      if s.granted c.val k.val then
        match s.issueSlot c.val k.val with
        | some (.next t) => finish (.next (s.othersWait t c.val k.val))
        | some x => x
        | none => finish (.next s)
      else finish (.next (s.notGranted c.val k.val))
    else finish (.next s)
  | .copy p q => s.takeCopy p q
  | .far c n => s.takeFar c.val n
  | .upset u => s.takeUpset u

/-- An empty agenda: warps and events in turn, the first that can go on; else time passes. -/
noncomputable def State.takeFree (s : State) : Host.Outcome State Fault Refusal :=
  let t := { s with eventTurn := !s.eventTurn }
  let act := fun (_ : Unit) => (firstAct t t.acts).map Host.Outcome.next
  let issue := fun (_ : Unit) => t.issueFirst t.candidates
  let one := if s.eventTurn then (act ()).orElse fun _ => issue () else (issue ()).orElse fun _ => act ()
  match one with
  | some x => finish x
  | none => finish (.next (t.lackingWait t 512))

/-- A step while power is off: no time passes for the part. -/
def State.stepOff (s : State) : Host.Outcome State Fault Refusal :=
  match s.turns with
  | .event i :: ts => if Instr.whileOff i then exec i { s with turns := ts } else .refused (.notEnabled "power is off")
  | _ :: ts => .next { s with turns := ts }
  | [] => .next s

/-- A step while power is on. -/
noncomputable def State.stepOn (s : State) : Host.Outcome State Fault Refusal :=
  match s.turns with
  | t :: ts => { s with turns := ts }.takeTurn t
  | [] => s.takeFree

/-! ## An instruction placed where the next step fetches (`withFetchWord`) -/

/-- The physical page that holds the placed word. -/
def placedPage : Nat := 0x100000

/-- A leaf with R, W and X for a device page (R405). -/
def placedLeaf : W64 := BitVec.ofNat 64 (placedPage + 0x1F)

/-- A running warp of 16 lanes with 128 vector registers in slot 0 of core 0. -/
def placedWarp : Warp :=
  { st := .active, id := { part := 0, job := 0, width := 16, role := 1, allot := 3 }
    ctl := { pc := 0x10000, exec := 0xFFFF, live := 0xFFFF, path := 0xFFFF } }

/-- The warp in slot 0 of core 0, or a new one, free to issue. -/
def State.hostWarp (s : State) : Warp :=
  let w := s.warp 0 0
  if w.st = .free then { placedWarp with gen := w.gen }
  else
    { w with st := .active, wait := .none, fetch := [], fetchDead := none, log := [], fdsq := [], cap := none, stale := 0
             fbuf := [], bad := [] }

/-- Stores a word at the pc of slot 0 of core 0, runs its job, and gives it the next turn. -/
def State.placeWord (s : State) (word : Nat) : State :=
  let w := s.hostWarp
  let va := w.ctl.pc.toNat
  let p := s.part w.id.part
  let jb := s.job w.id.job
  let x := s.core 0
  let bucket := 8 * dieOf 0 + w.id.part
  { s with
    hm := { s.hm with power := .on }
    bt := { s.bt with stage := 4 }
    feReady := true
    parts := s.parts.ins w.id.part { p with en := true }
    jobs := s.jobs.ins w.id.job
      { jb with part := w.id.part, phase := .running, gate := .open, stop := none, dieStop := none }
    mem := writeN s.mem (placedPage + va % 4096) (bytesOfWord word)
    cores := s.cores.ins 0 { x with tlb := x.tlb.ins (tlbKey w.id.part false va) placedLeaf, occ := some w.id.job, l1 := { x.l1 with icache := [] } }
    slots := s.slots.ins 0 w
    buckets := s.buckets.ins bucket 32000
    cycle := s.cycle.del 0
    turns := .issue 0 0 :: s.turns }

end Sys2Proof.Machine
end

