-- ==== Sys2Proof/Machine/Step.lean ====
section
/-! DEFINITION. One step of the machine: one turn of one agent. -/

namespace Sys2Proof.Machine

/-- One step: while power is on, the agenda's next turn, or the next agent that can go on (log 2). -/
noncomputable def step (s : State) : Host.Outcome State Fault Refusal :=
  if s.hm.power = .on then s.stepOn else s.stepOff

/-- The state with an instruction's words where the next step fetches: programs are placed from outside, by a LAUNCH
(log 20). -/
def State.withFetchWord (s : State) (_nbits w : Nat) : State := s.placeWord (w % 2 ^ 32)

end Sys2Proof.Machine
end

