-- ==== Sys2Proof/Machine/Reads.lean ====
section
/-! DEFINITION. What a read of a device register in BAR0 returns: every field of the FE, queue, MM, error-log, PT, HD, BT
and HM blocks at its bits (R385, R386, R409, R411, R420, R421, R432, R434, R435), and the MSI-X table. No read changes the
machine. -/

namespace Sys2Proof.Machine

/-- Places of fields: each value at its lowest bit. -/
def packFields : List (Nat × Nat) → W64
  | [] => 0
  | (lo, v) :: fs => BitVec.ofNat 64 (2 ^ lo * v) ||| packFields fs

def bitNat (b : Bool) : Nat := if b then 1 else 0

/-- FE_QSTAT.STATE: 0 disabled, 1 idle, 2 running, 3 blocked, 4 parked, 5 stopped (R385, log 27). -/
def State.queueState (s : State) (part q : Nat) : Nat :=
  let x := s.queue part q
  if x.stopped then 5
  else if !x.en then 0
  else if x.parked then 4
  else if s.headBlocked part q then 3
  else if x.started.isEmpty ∧ x.ridx = x.widx then 1
  else 2

/-- A queue's block (R385). -/
def State.readQueue (s : State) (part q off : Nat) : W64 :=
  let x := s.queue part q
  match off with
  | 0x00 => x.base
  | 0x08 => packFields [(0, x.log2.toNat), (8, bitNat x.en), (16, x.vec.toNat)]
  | 0x10 => x.widx.zeroExtend 64
  | 0x14 => x.ridx.zeroExtend 64
  | 0x18 => packFields [(0, s.queueState part q), (8, x.err.toNat), (16, bitNat x.kerr), (32, x.eidx.toNat)]
  | 0x20 => x.rptr
  | _ => 0

/-- The front end's global block (R386). -/
def State.readFe (s : State) (part off : Nat) : W64 :=
  let x := s.part part
  let d := s.taiD
  match off with
  | 0x00 => packFields [(0, bitNat s.feReady), (1, bitNat s.feLost)]
  | 0x10 => packFields [(0, x.jcmd.toNat), (63, bitNat x.jbusy)]
  | 0x18 => x.jres.zeroExtend 64
  | 0x20 => x.rqbase
  | 0x28 => packFields [(0, x.rqlog2.toNat), (8, x.rqvec.toNat)]
  | 0x30 => x.rqwidx.zeroExtend 64
  | 0x34 => x.rqridx.zeroExtend 64
  | 0x38 => x.rqlost.zeroExtend 64
  | 0x40 => packFields [(0, x.taiSrc.toNat), (8, x.ptmper.toNat), (16, bitNat s.taiLock)]
  | 0x48 => d.set
  | 0x50 => d.ppssec
  | 0x58 => d.toff
  | 0x60 => x.tlead.zeroExtend 64
  | 0x68 => BitVec.ofNat 64 (min 300 (Config.tdelay part))
  | _ => 0

/-- The MM block (R409). OUTST counts the faults sent and not answered. -/
def State.readMm (s : State) (part off : Nat) : W64 :=
  let x := s.part part
  let outst := (s.faults.filter fun f => f.part == part && f.num.isSome).length
  match off with
  | 0x00 => x.ptbase
  | 0x08 => x.hptbase
  | 0x10 => x.inval
  | 0x18 => packFields [(0, bitNat x.invBusy), (1, bitNat x.pgBusy)]
  | 0x20 => x.fqbase
  | 0x28 => packFields [(0, x.fqlog2.toNat), (8, x.fqvec.toNat)]
  | 0x30 => x.fqwidx.zeroExtend 64
  | 0x34 => x.fqridx.zeroExtend 64
  | 0x38 => x.freply
  | 0x40 => packFields [(0, x.dupl.toNat), (16, x.b2err.toNat), (32, outst)]
  | 0x48 => x.pginit
  | 0x50 => x.b2base
  | _ => 0

/-- A partition's error-log registers (R435). -/
def State.readEl (s : State) (part off : Nat) : W64 :=
  let x := s.part part
  match off with
  | 0x00 => x.elbase
  | 0x08 => packFields [(0, x.ellog2.toNat), (8, x.elvec.toNat)]
  | 0x10 => x.elwidx.zeroExtend 64
  | 0x14 => x.elridx.zeroExtend 64
  | 0x18 => x.ellost.zeroExtend 64
  | _ => 0

/-- A partition's PT block (R411); PT_CTL.RESET reads 0. -/
def State.readPt (s : State) (part off : Nat) : W64 :=
  let x := s.part part
  match off with
  | 0x00 => packFields [(0, bitNat x.en)]
  | 0x08 => packFields [(0, bitNat x.rstBusy), (4, x.err.toNat)]
  | 0x10 => x.clus.extractLsb' 0 64
  | 0x18 => x.clus.extractLsb' 64 64
  | 0x20 => x.chan
  | 0x28 => x.l2w
  | 0x30 => x.dsp.zeroExtend 64
  | 0x38 => x.bkt.zeroExtend 64
  | 0x40 => x.fn.zeroExtend 64
  | 0x48 => x.pwr.zeroExtend 64
  | 0x50 => packFields [(0, bitNat x.pin), (8, x.step.toNat)]
  | 0x58 => BitVec.ofNat 64 (rangeShare x)
  | 0x60 => x.ikey.extractLsb' 0 64
  | 0x68 => x.ikey.extractLsb' 64 64
  | 0x70 => x.ikey.extractLsb' 128 64
  | 0x78 => x.ikey.extractLsb' 192 64
  | _ => 0

/-- The HD block (R420). -/
def State.readHd (s : State) (off : Nat) : W64 :=
  let h := s.hd
  match off with
  | 0x00 => packFields [(0, h.up.toNat), (2, bitNat h.degraded), (3, bitNat h.rebuild), (4, h.bcast.length),
                        (17, h.unreach.toNat)]
  | 0x08 => h.ports.zeroExtend 64
  | 0x10 => packFields [(0, h.nRecall.toNat), (32, h.recfail.toNat)]
  | 0x18 => s.group
  | 0x20 => h.gmem.extractLsb' 0 64
  | 0x28 => h.gmem.extractLsb' 64 64
  | 0x30 => h.b2sel.zeroExtend 64
  | _ => 0

/-- The BT block (R432). -/
def State.readBt (s : State) (off : Nat) : W64 :=
  let b := s.bt
  if 0x80 ≤ off ∧ off < 0xC0 then BitVec.ofNat 64 (natOf (((ecdsaPublic b.idKey).drop (off / 8 * 8 - 0x80)).take 8))
  else
    match off with
    | 0x00 => s.btStat
    | 0x08 => b.updaddr
    | 0x10 => b.updlen.zeroExtend 64
    | 0x18 => packFields [(0, b.op.toNat), (16, b.key.toNat)]
    | 0x20 => b.res.zeroExtend 64
    | 0x28 => b.nonce.extractLsb' 0 64
    | 0x30 => b.nonce.extractLsb' 64 64
    | 0x38 => b.nonce.extractLsb' 128 64
    | 0x40 => b.nonce.extractLsb' 192 64
    | 0x48 => b.maddr
    | _ => 0

/-- The HM block (R434). HM_CAGE shows the cluster that HM_CSEL names. -/
def State.readHm (s : State) (off : Nat) : W64 :=
  let h := s.hm
  match off with
  | 0x00 => packFields [(0, bitNat Config.air)]
  | 0x08 => packFields [(0, bitNat s.hd.degraded), (1, bitNat h.underv), (2, bitNat h.throt), (3, bitNat h.pinlow),
                        (4, bitNat h.fehb)]
  | 0x10 => packFields [(0, bitNat h.autorst), (8, h.vec.toNat)]
  | 0x18 => h.cap.zeroExtend 64
  | 0x20 => packFields [(0, h.vin.toNat), (16, h.pin.toNat), (32, h.tj.toNat)]
  | 0x28 => packFields [(0, h.hours.toNat), (32, h.low.toNat)]
  | 0x30 => packFields [(0, h.high.toNat), (32, h.limiter.toNat), (40, h.limid.toNat)]
  | 0x38 => h.csel.zeroExtend 64
  | 0x40 => BitVec.ofNat 64 (h.cage.getD h.csel.toNat 0)
  | 0x80 => h.cerr
  | 0x88 => h.parr
  | 0x90 => h.pois
  | 0x98 => h.wdog
  | 0xA0 => h.hdeg
  | 0xA8 => h.miss
  | _ => 0

/-- FE, queue, MM and error-log registers at an offset in a partition's part of BAR0. -/
def State.readPart (s : State) (p off : Nat) : W64 :=
  if off < 0x10000 then s.readFe p off
  else if off < 0x11000 then s.readQueue p ((off - 0x10000) / 64) (off % 64)
  else if 0x20000 ≤ off ∧ off < 0x21000 then s.readMm p (off - 0x20000)
  else if 0x30000 ≤ off ∧ off < 0x30040 then s.readEl p (off - 0x30000)
  else 0

/-- What only the physical function's BAR0 holds. -/
def State.readPf (s : State) (off : Nat) : W64 :=
  if 0x40000 ≤ off ∧ off < 0x48000 then s.readPt ((off - 0x40000) / 0x1000) (off % 0x1000)
  else if 0x60000 ≤ off ∧ off < 0x61000 then s.readHd (off - 0x60000)
  else if 0xC0000 ≤ off ∧ off < 0xC1000 then s.readHm (off - 0xC0000)
  else if 0xC1000 ≤ off ∧ off < 0xC1200 then s.readEl ((off - 0xC1000) / 64) (off % 64)
  else if 0x100000 ≤ off ∧ off < 0x900000 then
    let o := off % 0x100000
    if o < 0x30000 then s.readPart ((off - 0x100000) / 0x100000) o else 0
  else 0

/-- A read at an offset of a function's BAR0. A function without a partition reads zero (R421). Before the ready stage
only the BT block, the MSI-X table and its pending bits respond (R427); the rest is said to read zero here (log 27). -/
def State.readReg (s : State) (fn off : Nat) : W64 :=
  if fn = 0 ∧ 0xA0000 ≤ off ∧ off < 0xA1000 then s.readBt (off - 0xA0000)
  else if 0x80000 ≤ off ∧ off < 0x80400 then
    BitVec.ofNat 64 (natOf ((List.range 8).map fun i => s.msixTab.getD (2048 * fn + (off - 0x80000) / 8 * 8 + i) 0))
  else if 0x81000 ≤ off ∧ off < 0x81008 then
    BitVec.ofNat 64 ((List.range 64).foldl (fun n k => if s.msixPba.getD (64 * fn + k) false then n + 2 ^ k else n) 0)
  else if !s.barOpen then 0
  else if off < 0x40000 then
    match s.partOf fn with
    | some p => s.readPart p off
    | none => 0
  else if fn = 0 then s.readPf off
  else 0

end Sys2Proof.Machine
end

