-- ==== Sys2Proof/Safety.lean ====
section
/-! DEFINITION. What counts as a safe run. -/

namespace Sys2Proof.Machine

/-- An outcome that does not stop the machine with a fault. A refusal describes an event that does not happen. -/
def safeOutcome : Host.Outcome State Fault Refusal → Prop
  | .fault _ => False
  | _ => True

/-- The memory maps keep their canonical form: keys strictly rising, no pair at the value of an unlisted key. -/
def State.memoryOk (s : State) : Bool :=
  s.mem.wf 0 && s.tags.wf false && s.lineFull.wf false && s.poison.wf false

/-- A run of n steps from a state that no fault stops. -/
noncomputable def safeRun (n : Nat) (s : State) : Prop := safeOutcome (Sys2Proof.core.run n s)

end Sys2Proof.Machine
end

