-- ==== Sys2Proof/Certificates/Slice0/Obligations.lean ====
section
/-! DEFINITION. The statements about this machine, and the words they are said in. -/

namespace Sys2Proof.Slice0

open Sys2Proof.Machine

/-! ## Words for outcomes -/

/-- The instruction completes: its warp retires as `w` (R36, R218, R229, R240), and nothing else changes. -/
def Becomes (s : State) (i : Instr) (w : Warp) : Prop := exec i s = .next (s.retire w)

/-- The instruction raises a trap in every active lane (R203, R205): it does not complete. -/
def Raises (s : State) (i : Instr) (uniform : Bool) (cause sub : Nat) : Prop :=
  exec i s = .next (s.trapNow { cause := cause, sub := sub } uniform (s.cw.ctl.pc + 4))

/-- The warp's machine beside one warp slot, the cores and the watchdog pulses is as it was: every byte, tag, line bit and
poisoned unit of memory, every die, partition, queue and register block, the counters and the agenda. -/
def SameButWarps (s t : State) : Prop :=
  t = { s with slots := t.slots, jobs := t.jobs, cores := t.cores }

/-! ## Scalar results, as R260 to R262 give them -/

/-- R260's table on unsigned x, y and their signed readings. -/
def saluTable : List ((SReg → SReg → SReg → Instr) × (W64 → W64 → W64)) :=
  [(.sadd, fun x y => BitVec.ofNat 64 (x.toNat + y.toNat)),
   (.ssub, fun x y => BitVec.ofInt 64 (x.toNat - y.toNat : Int)),
   (.smul, fun x y => BitVec.ofNat 64 (x.toNat * y.toNat)),
   (.smulh, fun x y => BitVec.ofInt 64 (x.toInt * y.toInt / 2 ^ 64)),
   (.sand, fun x y => x &&& y),
   (.sor, fun x y => x ||| y),
   (.sxor, fun x y => x ^^^ y),
   (.sshl, fun x y => BitVec.ofNat 64 (x.toNat * 2 ^ (y.toNat % 64))),
   (.sshr, fun x y => BitVec.ofNat 64 (x.toNat / 2 ^ (y.toNat % 64))),
   (.ssra, fun x y => BitVec.ofInt 64 (x.toInt / 2 ^ (y.toNat % 64))),
   (.smin, fun x y => BitVec.ofInt 64 (min x.toInt y.toInt)),
   (.smax, fun x y => BitVec.ofInt 64 (max x.toInt y.toInt)),
   (.sminu, fun x y => BitVec.ofNat 64 (min x.toNat y.toNat)),
   (.smaxu, fun x y => BitVec.ofNat 64 (max x.toNat y.toNat))]

/-- R261's table: division truncates toward zero. -/
def smiscTable : List ((SReg → SReg → SReg → Instr) × (W64 → W64 → W64)) :=
  [(.sdiv, fun x y => if y = 0 then BitVec.allOnes 64 else BitVec.ofInt 64 (x.toInt.tdiv y.toInt)),
   (.srem, fun x y => if y = 0 then x else BitVec.ofInt 64 (x.toInt - y.toInt * x.toInt.tdiv y.toInt)),
   (.sdivu, fun x y => if y = 0 then BitVec.allOnes 64 else BitVec.ofNat 64 (x.toNat / y.toNat)),
   (.sremu, fun x y => if y = 0 then x else BitVec.ofNat 64 (x.toNat - y.toNat * (x.toNat / y.toNat)))]

/-- Leading zero bits of a word, 0 to 64. -/
def leadingZeros (x : W64) : Nat := if x = 0 then 64 else 63 - Nat.log2 x.toNat

/-- Set bits of a word. -/
def setBits (x : W64) : Nat := ((List.range 64).filter fun i => x.getLsbD i).length

/-- R262's table. -/
def scmpTable : List ((PReg → SReg → SReg → Instr) × (W64 → W64 → Bool)) :=
  [(.scmpEq, fun x y => decide (x = y)),
   (.scmpNe, fun x y => decide (x ≠ y)),
   (.scmpLt, fun x y => decide (x.toInt < y.toInt)),
   (.scmpLe, fun x y => decide (x.toInt ≤ y.toInt)),
   (.scmpGt, fun x y => decide (y.toInt < x.toInt)),
   (.scmpGe, fun x y => decide (y.toInt ≤ x.toInt)),
   (.scmpLtu, fun x y => decide (x.toNat < y.toNat)),
   (.scmpLeu, fun x y => decide (x.toNat ≤ y.toNat)),
   (.scmpGtu, fun x y => decide (y.toNat < x.toNat)),
   (.scmpGeu, fun x y => decide (y.toNat ≤ x.toNat))]

/-- The two-source predicate instructions of R264, on one lane's values. -/
def predTable : List ((PReg → PReg → PReg → Instr) × (Bool → Bool → Bool)) :=
  [(.pand, fun x y => x && y), (.por, fun x y => x || y), (.pxor, fun x y => x != y)]

/-- Lane l of predicate k. -/
def laneP (w : Warp) (k l : Nat) : Bool := (w.regs.rdP k).getLsbD l

/-- A warp whose lanes of predicate d are f l in the active lanes and as before elsewhere, p0 unchanged (R256, R264), and
whose other registers are those of w. -/
def PredWritten (w w' : Warp) (d : Nat) (f : Nat → Bool) : Prop :=
  w' = { w with regs := { w.regs with p := w'.regs.p } } ∧
  (∀ k, k ≠ d → w'.regs.rdP k = w.regs.rdP k) ∧
  (∀ l, l < 64 → laneP w' d l = if d ≠ 0 ∧ w.active.getLsbD l then f l else laneP w d l)

end Sys2Proof.Slice0

open Sys2Proof Sys2Proof.Machine Sys2Proof.Slice0

/-! ## Scalar instructions -/

/-- R260: SALU writes s[d] := r mod 2^64, whatever WMODE holds, and never traps. -/
def Obligations.ScalarAluWritesItsResult : Prop :=
  ∀ (s : State) (d a b : SReg),
    (∀ p ∈ saluTable,
      Becomes s (p.1 d a b) (s.cw.wrS d.val (p.2 (s.cw.rdS a.val) (s.cw.rdS b.val))).advance) ∧
    Becomes s (.smov d a) (s.cw.wrS d.val (s.cw.rdS a.val)).advance ∧
    Becomes s (.snot d a) (s.cw.wrS d.val (~~~(s.cw.rdS a.val))).advance

/-- R261: SMISC counts, divides, takes remainders and selects; nothing traps. -/
def Obligations.ScalarMiscWritesItsResult : Prop :=
  ∀ (s : State) (d a b : SReg),
    (∀ p ∈ smiscTable,
      Becomes s (p.1 d a b) (s.cw.wrS d.val (p.2 (s.cw.rdS a.val) (s.cw.rdS b.val))).advance) ∧
    Becomes s (.sclz d a) (s.cw.wrS d.val (BitVec.ofNat 64 (leadingZeros (s.cw.rdS a.val)))).advance ∧
    Becomes s (.spopc d a) (s.cw.wrS d.val (BitVec.ofNat 64 (setBits (s.cw.rdS a.val)))).advance ∧
    Becomes s (.ssel d a b)
      (s.cw.wrS d.val (if s.cw.selP.getLsbD s.cw.firstLane then s.cw.rdS a.val else s.cw.rdS b.val)).advance

/-- R262: SCMP writes its one condition to p[d] in every lane below W, active or not; p0 and the other predicates stay. -/
def Obligations.ScalarCompareWritesEveryLane : Prop :=
  ∀ (s : State) (d : PReg) (a b : SReg), ∀ p ∈ scmpTable, ∃ w : Warp,
    Becomes s (p.1 d a b) w.advance ∧
    w = { s.cw with regs := { s.cw.regs with p := w.regs.p } } ∧
    (∀ k, k ≠ d.val → w.regs.rdP k = s.cw.regs.rdP k) ∧
    (∀ l, l < 64 → s.cw.id.width ≤ 64 → laneP w d.val l =
      if d.val ≠ 0 ∧ l < s.cw.id.width then p.2 (s.cw.rdS a.val) (s.cw.rdS b.val) else laneP s.cw d.val l)

/-- R263: MODE and MODEX exchange WMODE; EXRD reads the execution mask and WMODE into an even pair; EXWR writes both, the
mask within the path. -/
def Sys2Proof.Slice0.ModeInstructionsExchangeWmode : Prop :=
  ∀ (s : State) (d a b : SReg),
    (wmodeOk (s.cw.rdS a.val) = true →
      Becomes s (.mode d a) ((s.cw.setMode (s.cw.rdS a.val)).wrS d.val s.cw.ctl.wmode).advance) ∧
    (let t := (s.cw.ctl.wmode &&& ~~~(s.cw.rdS b.val)) ||| (s.cw.rdS a.val &&& s.cw.rdS b.val)
     wmodeOk t = true → Becomes s (.modex d a b) ((s.cw.setMode t).wrS d.val s.cw.ctl.wmode).advance) ∧
    (d.val % 2 = 0 →
      Becomes s (.exrd d) ((s.cw.wrS d.val s.cw.ctl.exec).wrS (d.val + 1) s.cw.ctl.wmode).advance) ∧
    (a.val % 2 = 0 → wmodeOk (s.cw.rdS (a.val + 1)) = true →
      Becomes s (.exwr a)
        { s.cw with ctl := { s.cw.ctl with
            wmode := s.cw.rdS (a.val + 1)
            exec := s.cw.rdS a.val &&& laneMask s.cw.id.width &&& s.cw.ctl.path
            pc := s.cw.ctl.pc + 4 } })

/-- R263, R237: a value that WMODE may not hold raises ILLEGAL_INSTRUCTION with SUB 2, and an odd register of EXRD or EXWR
SUB 4 (R236), before anything changes. -/
def Sys2Proof.Slice0.RefusedModeTraps : Prop :=
  ∀ (s : State) (d a b : SReg),
    (wmodeOk (s.cw.rdS a.val) = false → Raises s (.mode d a) true ILLEGAL 2) ∧
    (wmodeOk ((s.cw.ctl.wmode &&& ~~~(s.cw.rdS b.val)) ||| (s.cw.rdS a.val &&& s.cw.rdS b.val)) = false →
      Raises s (.modex d a b) true ILLEGAL 2) ∧
    (d.val % 2 = 1 → Raises s (.exrd d) true ILLEGAL 4) ∧
    (a.val % 2 = 1 → Raises s (.exwr a) true ILLEGAL 4) ∧
    (a.val % 2 = 0 → wmodeOk (s.cw.rdS (a.val + 1)) = false → Raises s (.exwr a) true ILLEGAL 2)

/-- R236, R237, R263: MODE, MODEX, EXRD and EXWR read and write WMODE and the execution mask; a value that WMODE may not hold, or an
odd register of a pair, raises ILLEGAL_INSTRUCTION before anything changes. -/
def Obligations.ModeIsExchangedOrRefused : Prop :=
  ModeInstructionsExchangeWmode ∧ RefusedModeTraps

/-- R264: the predicate instructions write p[d] in the active lanes and leave every other predicate and lane; PTOS gathers
the active lanes' bits into a scalar. -/
def Obligations.PredicateInstructionsActPerLane : Prop :=
  ∀ (s : State) (d a b : PReg) (x : SReg),
    (∀ p ∈ predTable, ∃ w, Becomes s (p.1 d a b) w.advance ∧
      PredWritten s.cw w d.val fun l => p.2 (laneP s.cw a.val l) (laneP s.cw b.val l)) ∧
    (∃ w, Becomes s (.pnot d a) w.advance ∧ PredWritten s.cw w d.val fun l => !laneP s.cw a.val l) ∧
    (∃ w, Becomes s (.pmov d a) w.advance ∧ PredWritten s.cw w d.val fun l => laneP s.cw a.val l) ∧
    (∃ w, Becomes s (.stop d x) w.advance ∧ PredWritten s.cw w d.val fun l => (s.cw.rdS x.val).getLsbD l) ∧
    Becomes s (.ptos x a) (s.cw.wrS x.val (s.cw.regs.rdP a.val &&& s.cw.active)).advance

/-! ## Vector instructions -/

namespace Sys2Proof.Slice0

open Sys2Proof.Machine

/-- A vector instruction meets no check of R236 or R257: the named registers lie in the allotment, the element type is in
its set, and a 64-bit type names even registers. -/
def VecReady (w : Warp) (ok : Nat → Bool) (named elems : List VReg) : Prop :=
  (∀ v ∈ named, v.val < w.vregs) ∧ ok (wmET w.ctl.wmode) = true ∧
  (typeBits (wmET w.ctl.wmode) = 64 → ∀ v ∈ elems, v.val % 2 = 0)

/-- wrap(x, T) as bits (R256). -/
def wrapBits (t : Nat) (x : Int) : Nat := (x % 2 ^ typeBits t).toNat

/-- fit(x, T) as bits (R256): clamped under SAT, wrapped otherwise. -/
def fitBits (sat : Bool) (t : Nat) (x : Int) : Nat :=
  let lo : Int := if typeSigned t then -2 ^ (typeBits t - 1) else 0
  let hi : Int := if typeSigned t then 2 ^ (typeBits t - 1) - 1 else 2 ^ typeBits t - 1
  wrapBits t (if sat then (if x < lo then lo else if hi < x then hi else x) else x)

/-- R268's two-source rows: constructor, accepted set, result of SAT, T and the elements' bits. -/
def valuTable : List ((VReg → VReg → VReg → Instr) × (Nat → Bool) × (Bool → Nat → Nat → Nat → Nat)) :=
  [(.vadd, isInt, fun c t x y => fitBits c t (intOf t x + intOf t y)),
   (.vsub, isInt, fun c t x y => fitBits c t (intOf t x - intOf t y)),
   (.vmul, isInt, fun c t x y => fitBits c t (intOf t x * intOf t y)),
   (.vmulh, isInt, fun _ t x y => wrapBits t (intOf t x * intOf t y / 2 ^ typeBits t)),
   (.vand, isMov, fun _ _ x y => x &&& y),
   (.vor, isMov, fun _ _ x y => x ||| y),
   (.vxor, isMov, fun _ _ x y => x ^^^ y),
   (.vshl, isInt, fun _ t x y => wrapBits t (x * 2 ^ (y % typeBits t) : Nat)),
   (.vshr, isInt, fun _ t x y => x / 2 ^ (y % typeBits t)),
   (.vsra, isInt, fun _ t x y => wrapBits t (intOf t x / 2 ^ (y % typeBits t))),
   (.vmin, isInt, fun _ t x y => wrapBits t (min (intOf t x) (intOf t y))),
   (.vmax, isInt, fun _ t x y => wrapBits t (max (intOf t x) (intOf t y)))]

/-- One-source rows of R268 and R270. -/
def valu1Table : List ((VReg → VReg → Instr) × (Nat → Bool) × (Bool → Nat → Nat → Nat)) :=
  [(.vabs, isInt, fun c t x => fitBits c t (intOf t x).natAbs),
   (.vneg, isInt, fun c t x => fitBits c t (-intOf t x)),
   (.vnot, isMov, fun _ t x => 2 ^ typeBits t - 1 - x),
   (.vmov, isMov, fun _ _ x => x),
   (.vclz, isInt, fun _ t x => if x = 0 then typeBits t else typeBits t - 1 - Nat.log2 x),
   (.vpopc, isInt, fun _ t x => ((List.range (typeBits t)).filter fun i => x.testBit i).length),
   (.vbrev, isInt, fun _ t x => ((List.range (typeBits t)).map fun i =>
      if x.testBit i then 2 ^ (typeBits t - 1 - i) else 0).sum)]

/-- R269: z is the destination's old element. -/
def vmadTable : List ((VReg → VReg → VReg → Instr) × (Bool → Nat → Nat → Nat → Nat → Nat)) :=
  [(.vmad, fun c t z x y => fitBits c t (intOf t x * intOf t y + intOf t z)),
   (.vmsb, fun c t z x y => fitBits c t (intOf t z - intOf t x * intOf t y))]

/-- The field that VBFX extracts, and VBFI's replacement (R270), with pos, len from the 32 bits y. -/
def fieldTable : List ((VReg → VReg → VReg → Instr) × (Nat → Nat → Nat → Nat → Nat)) :=
  [(.vbfx, fun t _ x y =>
      let pos := y % 256
      let n := min (y / 256 % 256) (typeBits t - pos)
      let f := x / 2 ^ pos % 2 ^ n
      if n = 0 then 0 else if typeSigned t ∧ 2 ^ n ≤ 2 * f then wrapBits t ((f : Int) - 2 ^ n) else f),
   (.vbfi, fun t z x y =>
      let pos := y % 256
      let n := min (y / 256 % 256) (typeBits t - pos)
      if n = 0 then z
      else z % 2 ^ pos + 2 ^ pos * (x % 2 ^ n) + 2 ^ (pos + n) * (z / 2 ^ (pos + n)))]

/-- The checks of R236 and R257 that a vector instruction makes of the registers it names, of its types, and of the registers that
name pairs: a register beyond the allotment raises SUB 3 (R23), the second one of a pair too, a refused type SUB 5, and an odd pair
SUB 4. A refused type is found before an odd pair: the spec gives these two checks no order (log 26). -/
def PairChecksTrap (s : State) (i : Instr) (uniform : Bool) (ok : Prop) (named pairs : List VReg) : Prop :=
  let here := ∀ v ∈ named, v.val < s.cw.vregs
  (¬ here → Raises s i uniform ILLEGAL 3) ∧
  (here → ¬ ok → Raises s i uniform ILLEGAL 5) ∧
  (here → ok → (∃ v ∈ pairs, s.cw.vregs ≤ v.val + 1) → Raises s i uniform ILLEGAL 3) ∧
  (here → ok → (∀ v ∈ pairs, v.val + 1 < s.cw.vregs) → (∃ v ∈ pairs, v.val % 2 = 1) → Raises s i uniform ILLEGAL 4)

/-- The same for an instruction of one element type: the registers that hold elements name pairs under a 64-bit type (R183, R257). -/
def ChecksTrap (s : State) (i : Instr) (uniform : Bool) (ok : Nat → Bool) (named elems : List VReg) : Prop :=
  let t := wmET s.cw.ctl.wmode
  PairChecksTrap s i uniform (ok t = true) named (if typeBits t = 64 then elems else [])

/-- The element of type T that lane l of v holds in the warp of w's mode. -/
def elem (w : Warp) (v : VReg) (l : Nat) : Nat := w.get v.val l (wmET w.ctl.wmode)

end Sys2Proof.Slice0

/-- R268, R270: VALU and the counts write, in every active lane, the table's result of the lane's own elements. -/
def Sys2Proof.Slice0.VectorAluWritesItsResults : Prop :=
  ∀ (s : State) (d a b : VReg),
    (∀ p ∈ valuTable, VecReady s.cw p.2.1 [d, a, b] [d, a, b] →
      Becomes s (p.1 d a b)
        (s.cw.mapLanes d.val (wmET s.cw.ctl.wmode) fun l =>
          p.2.2 (wmSAT s.cw.ctl.wmode) (wmET s.cw.ctl.wmode) (elem s.cw a l) (elem s.cw b l)).advance) ∧
    (∀ p ∈ valu1Table, VecReady s.cw p.2.1 [d, a] [d, a] →
      Becomes s (p.1 d a)
        (s.cw.mapLanes d.val (wmET s.cw.ctl.wmode) fun l =>
          p.2.2 (wmSAT s.cw.ctl.wmode) (wmET s.cw.ctl.wmode) (elem s.cw a l)).advance)

/-- R269, R270: VMAD and VMSB from the exact product and sum; VBFX and VBFI by the field that the 32 bits of lane l of vB
name (log 31); VSEL by the select predicate. -/
def Sys2Proof.Slice0.VectorMadAndFieldsWriteTheirResults : Prop :=
  ∀ (s : State) (d a b : VReg),
    (∀ p ∈ vmadTable, VecReady s.cw isInt [d, a, b] [d, a, b] →
      Becomes s (p.1 d a b)
        (s.cw.mapLanes d.val (wmET s.cw.ctl.wmode) fun l =>
          p.2 (wmSAT s.cw.ctl.wmode) (wmET s.cw.ctl.wmode) (elem s.cw d l) (elem s.cw a l) (elem s.cw b l)).advance) ∧
    (∀ p ∈ fieldTable, VecReady s.cw isInt [d, a, b] [d, a, b] →
      Becomes s (p.1 d a b)
        (s.cw.mapLanes d.val (wmET s.cw.ctl.wmode) fun l =>
          p.2 (wmET s.cw.ctl.wmode) (elem s.cw d l) (elem s.cw a l) (s.cw.rdV b.val l).toNat).advance) ∧
    (VecReady s.cw isMov [d, a, b] [d, a, b] →
      Becomes s (.vsel d a b)
        (s.cw.mapLanes d.val (wmET s.cw.ctl.wmode) fun l =>
          if s.cw.selP.getLsbD l then elem s.cw a l else elem s.cw b l).advance)

/-- R183, R256: elements written in the active lanes read back, narrow ones with zeros above them; every other lane and
register, and all else of the warp, stays. -/
def Obligations.LaneWritesReadBack : Prop :=
  ∀ (w : Warp) (d t : Nat) (f : Nat → Nat), isMov t = true → w.id.width ≤ 64 →
    let w' := w.mapLanes d t f
    w' = { w with regs := { w.regs with v := w'.regs.v } } ∧
    (∀ l ∈ w.lanes, w'.get d l t = f l % 2 ^ typeBits t ∧ (typeBits t < 32 → (w'.rdV d l).toNat < 2 ^ typeBits t)) ∧
    (∀ v l, l < 64 → (l ∉ w.lanes ∨ v ∉ pairOf t d) → w'.rdV v l = w.rdV v l)

/-- R257, R236: the checks of every vector ALU, multiply-add and field instruction. Where both checks of R257 fail the type's comes
first, which is the model's choice (log 26). -/
def Sys2Proof.Slice0.VectorTypeChecksTrap : Prop :=
  ∀ (s : State) (d a b : VReg),
    (∀ p ∈ valuTable.map (fun p => (p.1, p.2.1)) ++ vmadTable.map (fun p => (p.1, isInt)) ++
        fieldTable.map (fun p => (p.1, isInt)) ++ [(Instr.vsel, isMov)],
      ChecksTrap s (p.1 d a b) false p.2 [d, a, b] [d, a, b]) ∧
    (∀ p ∈ valu1Table, ChecksTrap s (p.1 d a) false p.2.1 [d, a] [d, a])

/-- R268 to R270: the integer vector instructions write their results in the active lanes, and trap where a type, a pair or a register
is not allowed; that a wrong type is found before an odd pair is the model's choice (log 26). -/
def Obligations.VectorIntegerInstructions : Prop :=
  VectorAluWritesItsResults ∧ VectorMadAndFieldsWriteTheirResults ∧ VectorTypeChecksTrap

/-! ## Floating point -/

namespace Sys2Proof.Slice0

open Sys2Proof.Machine

/-- The exceptions of some lanes' results, ORed. -/
def orFlags (rs : List (Nat × Nat × Exc)) : Exc := rs.foldl (fun f p => f ||| p.2.2) 0

/-- The mask of some lanes. -/
def lanesMask (ls : List Nat) : W64 := ls.foldl (fun m l => m ||| BitVec.ofNat 64 (2 ^ l)) 0

/-- The arithmetic trap (R195, R256): where some lane has an enabled exception, the trap names those lanes and their enabled
exceptions, and the instruction writes no destination, no cr.fstat and no cr.qstat. -/
def ArithmeticTrap (s : State) (i : Instr) (es : List (Nat × Exc)) : Prop :=
  let en := wmIEN s.cw.ctl.wmode
  let bad := es.filter fun p => p.2 &&& en != 0
  bad ≠ [] → exec i s = .next (s.trapNow
    { cause := ARITHMETIC, sub := ((bad.foldl (fun (f : Exc) p => f ||| p.2) 0) &&& en).toNat
      mask := some (lanesMask (bad.map Prod.fst)) } false (s.cw.ctl.pc + 4))

/-- finish() of R256 on the lanes' results (lane, element's bits, exceptions): with no enabled exception the flags are ORed
into cr.fstat (R194) and the elements of type t are written; otherwise the arithmetic trap names the lanes that have one,
and no destination is written (R195). -/
def FloatDone (s : State) (i : Instr) (d : VReg) (t : Nat) (rs : List (Nat × Nat × Exc)) : Prop :=
  let en := wmIEN s.cw.ctl.wmode
  let bad := rs.filter fun p => p.2.2 &&& en != 0
  (bad = [] →
    Becomes s i
      (({ s.cw with stat := { s.cw.stat with
            fstat := s.cw.stat.fstat ||| orFlags rs } }).setLanes d.val t
        (rs.map fun (p : Nat × Nat × Exc) => (p.1, p.2.1))).advance) ∧
  (bad ≠ [] →
    exec i s = .next (s.trapNow
      { cause := ARITHMETIC, sub := (orFlags bad &&& en).toNat
        mask := some (lanesMask (bad.map Prod.fst)) }
      false (s.cw.ctl.pc + 4)))

/-- The value of a floating-point element, a subnormal one read as zero under FTZ (R193). -/
def val (w : Warp) (v : VReg) (l : Nat) : FpNum := finNum (wmFTZ w.ctl.wmode) (wmET w.ctl.wmode) (elem w v l)

/-- fres (R256): an exact value with its exceptions, rounded to the element type. -/
def fres (w : Warp) (r : FpNum × Exc) : Nat × Exc := fresNum w.ctl.wmode (wmET w.ctl.wmode) r.1 false r.2

/-- An operand as it is written: a NaN as the canonical one (R185). -/
def asIs (w : Warp) (r : FpNum × Exc) : Nat × Exc := ((roundTo (wmET w.ctl.wmode) 0 false 0 r.1).1, r.2)

/-- The sign bit's place in an encoding of the element type. -/
def signPlace (w : Warp) : Nat := signAt (wmET w.ctl.wmode)

/-- R272's two-source rows. -/
def faluTable : List ((VReg → VReg → VReg → Instr) × (Warp → FpNum → FpNum → Nat × Exc)) :=
  [(.fadd, fun w x y => fres w (addNum (wmRM w.ctl.wmode) x y)),
   (.fsub, fun w x y => fres w (addNum (wmRM w.ctl.wmode) x (negNum y))),
   (.fmul, fun w x y => fres w (mulNum x y)),
   (.fmin, fun w x y => asIs w (minNum x y)),
   (.fmax, fun w x y => asIs w (maxNum x y))]

/-- R273's rows: z is the destination's old element. -/
def ffmaTable : List ((VReg → VReg → VReg → Instr) × (Nat → FpNum → FpNum → FpNum → FpNum × Exc)) :=
  [(.ffma, fun rm x y z => fmaNum rm x y z),
   (.ffms, fun rm x y z => fmaNum rm x y (negNum z)),
   (.fnma, fun rm x y z => fmaNum rm (negNum x) y z)]

/-- R275's rows. -/
def ftrnTable : List ((VReg → VReg → Instr) × (Nat → FpNum → Nat × Exc)) :=
  [(.frcpa, rcpaOf), (.frsqa, rsqaOf), (.fexp2, exp2Of), (.flog2, log2Of), (.fsin, sinOf), (.fcos, cosOf),
   (.ftanh, tanhOf)]

/-- A subnormal result flushed under FTZ, which raises underflow and inexact (R193). -/
def flushed (w : Warp) (r : Nat × Exc) : Nat × Exc :=
  if wmFTZ w.ctl.wmode && isSubnormal (wmET w.ctl.wmode) r.1 then
    (flushBits (wmET w.ctl.wmode) r.1, r.2 ||| UF ||| NX)
  else r

/-- The lanes' results of an instruction. -/
def perLaneOf (w : Warp) (f : Nat → Nat × Exc) : List (Nat × Nat × Exc) := w.lanes.map fun l => (l, f l)

/-- R276: what the divide unit computes from the lanes' operands. -/
def fdsqTable : List ((VReg → VReg → Instr) × (FpNum → FpNum × Bool × Exc)) := [(.fsqrt, sqrtNum), (.frsq, rsqrtNum)]

/-- FDIV, FSQRT and FRSQ hand the lanes' results, rounded, to the divide unit at issue, and no register changes yet; where a lane
has an enabled exception, finish() traps instead (R195, R256, R276, R277). -/
def FdsqDone (s : State) (i : Instr) (d : VReg) (f : Nat → Nat × Exc) : Prop :=
  let t := wmET s.cw.ctl.wmode
  let en := wmIEN s.cw.ctl.wmode
  let rs := perLaneOf s.cw f
  let bad := rs.filter fun p => p.2.2 &&& en != 0
  (bad = [] →
    ∃ r : FdsqResult, Becomes s i { s.cw.advance with fdsq := s.cw.fdsq ++ [r] } ∧
      r.dests = pairOf t d.val ∧ r.exc = orFlags rs ∧
      (∀ k, k ∈ r.keys ↔ ∃ l ∈ s.cw.lanes, ∃ v ∈ r.dests, k = 64 * v + l) ∧
      ∀ l ∈ s.cw.lanes, ({ v := r.vals } : Regs).get d.val l t = (f l).1 % 2 ^ typeBits t ∧
        (typeBits t < 32 → (({ v := r.vals } : Regs).rdV d.val l).toNat < 2 ^ typeBits t)) ∧
  (bad ≠ [] →
    exec i s = .next (s.trapNow
      { cause := ARITHMETIC, sub := (orFlags bad &&& en).toNat, mask := some (lanesMask (bad.map Prod.fst)) }
      false (s.cw.ctl.pc + 4)))

/-- R271's comparisons of integers: fn, and the condition on readings and on bits. -/
def vcmpInt : List ((PReg → VReg → VReg → Instr) × (Nat → Nat → Nat → Bool)) :=
  [(.vcmpEq, fun _ x y => decide (x = y)), (.vcmpNe, fun _ x y => decide (x ≠ y)),
   (.vcmpLt, fun t x y => decide (intOf t x < intOf t y)), (.vcmpLe, fun t x y => decide (intOf t x ≤ intOf t y)),
   (.vcmpGt, fun t x y => decide (intOf t x > intOf t y)), (.vcmpGe, fun t x y => decide (intOf t x ≥ intOf t y)),
   (.vcmpLtu, fun _ x y => decide (x < y)), (.vcmpLeu, fun _ x y => decide (x ≤ y)),
   (.vcmpGtu, fun _ x y => decide (x > y)), (.vcmpGeu, fun _ x y => decide (x ≥ y))]

/-- R271's comparisons of floating-point values: the condition, unordered pairs included, and whether a quiet NaN is
invalid too. -/
def vcmpFlt : List ((PReg → VReg → VReg → Instr) × (FpNum → FpNum → Bool) × Bool) :=
  let u := fun (x y : FpNum) => isNan x || isNan y
  [(.vcmpEq, fun x y => eqNum x y, false), (.vcmpNe, fun x y => u x y || !eqNum x y, false),
   (.vcmpLt, fun x y => ltNum x y, true), (.vcmpLe, fun x y => ltNum x y || eqNum x y, true),
   (.vcmpGt, fun x y => ltNum y x, true), (.vcmpGe, fun x y => ltNum y x || eqNum x y, true),
   (.vcmpLtu, fun x y => u x y || ltNum x y, false), (.vcmpLeu, fun x y => u x y || ltNum x y || eqNum x y, false),
   (.vcmpGtu, fun x y => u x y || ltNum y x, false), (.vcmpGeu, fun x y => u x y || ltNum y x || eqNum x y, false),
   (.vcmpUnord, fun x y => u x y, false), (.vcmpOrd, fun x y => !u x y, false)]

/-- The invalid flag of a comparison. -/
def cmpExc (strict : Bool) (x y : FpNum) : Exc :=
  if strict then (if isNan x || isNan y then NV else 0) else nanExc x ||| nanExc y

end Sys2Proof.Slice0

/-- R272: FALU writes in every active lane the rounded result of the exact operation, sets cr.fstat, or traps. FMIN, FMAX,
FABS, FNEG and FCSGN write an operand; FRND rounds to an integral value. -/
def Sys2Proof.Slice0.FloatAluWritesItsResults : Prop :=
  ∀ (s : State) (d a b : VReg), let t := wmET s.cw.ctl.wmode
    (∀ p ∈ faluTable, VecReady s.cw isFlt [d, a, b] [d, a, b] →
      FloatDone s (p.1 d a b) d t (perLaneOf s.cw fun l => p.2 s.cw (val s.cw a l) (val s.cw b l))) ∧
    (VecReady s.cw isFlt [d, a] [d, a] →
      FloatDone s (.fabs d a) d t (perLaneOf s.cw fun l => (elem s.cw a l % 2 ^ signPlace s.cw, 0)) ∧
      FloatDone s (.fneg d a) d t (perLaneOf s.cw fun l =>
        (if (elem s.cw a l).testBit (signPlace s.cw) then elem s.cw a l - 2 ^ signPlace s.cw
         else elem s.cw a l + 2 ^ signPlace s.cw, 0)) ∧
      FloatDone s (.frnd d a) d t (perLaneOf s.cw fun l =>
        asIs s.cw (rndNum (arithRm (wmRM s.cw.ctl.wmode)) (val s.cw a l)))) ∧
    (VecReady s.cw isFlt [d, a, b] [d, a, b] →
      FloatDone s (.fcsgn d a b) d t (perLaneOf s.cw fun l =>
        (elem s.cw a l % 2 ^ signPlace s.cw +
          (if (elem s.cw b l).testBit (signPlace s.cw) then 2 ^ signPlace s.cw else 0), 0))) ∧
    (VecReady s.cw isFlt [d, a, b] [d, a] →
      FloatDone s (.fscale d a b) d t (perLaneOf s.cw fun l =>
        fres s.cw (if isNan (val s.cw a l) then .nan false else scaleNum (val s.cw a l) (s.cw.rdV b.val l).toInt,
          nanExc (val s.cw a l)))) ∧
    (VecReady s.cw isFlt [d, a] [a] →
      Becomes s (.fclass d a) (s.cw.mapLanes d.val 1 fun l => classMask t (elem s.cw a l)).advance)

/-- R273, R275: fused multiply-adds round once; the transcendental functions of F32, F16 and BF16. -/
def Sys2Proof.Slice0.FusedAndTranscendentalWriteTheirResults : Prop :=
  ∀ (s : State) (d a b : VReg), let t := wmET s.cw.ctl.wmode
    (∀ p ∈ ffmaTable, VecReady s.cw isFlt [d, a, b] [d, a, b] →
      FloatDone s (p.1 d a b) d t (perLaneOf s.cw fun l =>
        fres s.cw (p.2 (wmRM s.cw.ctl.wmode) (val s.cw a l) (val s.cw b l) (val s.cw d l)))) ∧
    (∀ p ∈ ftrnTable, VecReady s.cw (fun t => decide (t = 4 ∨ t = 6 ∨ t = 7)) [d, a] [d, a] →
      FloatDone s (p.1 d a) d t (perLaneOf s.cw fun l => flushed s.cw (p.2 t (val s.cw a l))))

/-- R236, R257: the checks of the floating-point and transcendental instructions; their order is log 26's. -/
def Sys2Proof.Slice0.FloatTypeChecksTrap : Prop :=
  ∀ (s : State) (d a b : VReg),
    (∀ i ∈ faluTable.map (fun p => p.1 d a b) ++ ffmaTable.map (fun p => p.1 d a b) ++ [.fcsgn d a b],
      ChecksTrap s i false isFlt [d, a, b] [d, a, b]) ∧
    (∀ i ∈ [Instr.fabs d a, .fneg d a, .frnd d a], ChecksTrap s i false isFlt [d, a] [d, a]) ∧
    ChecksTrap s (.fscale d a b) false isFlt [d, a, b] [d, a] ∧
    ChecksTrap s (.fclass d a) false isFlt [d, a] [a] ∧
    (∀ p ∈ ftrnTable, ChecksTrap s (p.1 d a) false (fun t => decide (t = 4 ∨ t = 6 ∨ t = 7)) [d, a] [d, a])

/-- R272, R273, R275: the floating-point and transcendental instructions write their rounded results and raise their exceptions, and
trap where a type, a pair or a register is not allowed, in the order of log 26. -/
def Obligations.FloatInstructionsWriteTheirResults : Prop :=
  FloatAluWritesItsResults ∧ FusedAndTranscendentalWriteTheirResults ∧ FloatTypeChecksTrap

/-- R236, R256, R257, R276, R277, R445: FDIV, FSQRT and FRSQ issue to the divide unit with their rounded results, or trap, by an
enabled exception or by a check (in the order of log 26); FDSQ_RESULT writes the warp's oldest result to its registers and its flags to
cr.fstat, and leaves every other register lane; what it writes is sound. -/
def Obligations.DivideUnitWritesLater : Prop :=
  (∀ (s : State) (d a b : VReg),
    (VecReady s.cw isFlt [d, a, b] [d, a, b] →
      FdsqDone s (.fdiv d a b) d fun l =>
        let r := divNum (val s.cw a l) (val s.cw b l)
        fresNum s.cw.ctl.wmode (wmET s.cw.ctl.wmode) r.1 r.2.1 r.2.2) ∧
    (∀ p ∈ fdsqTable, VecReady s.cw isFlt [d, a] [d, a] →
      FdsqDone s (p.1 d a) d fun l =>
        let r := p.2 (val s.cw a l)
        fresNum s.cw.ctl.wmode (wmET s.cw.ctl.wmode) r.1 r.2.1 r.2.2) ∧
    ChecksTrap s (.fdiv d a b) false isFlt [d, a, b] [d, a, b] ∧
    (∀ p ∈ fdsqTable, ChecksTrap s (p.1 d a) false isFlt [d, a] [d, a])) ∧
  (∀ (s : State) (c : CoreId) (k : SlotNo) (r : FdsqResult) (rs : List FdsqResult),
    (s.warp c.val k.val).fdsq = r :: rs →
      ∃ w : Warp, exec (.fdsqResult c k) s = .next (s.setWarp c.val k.val w) ∧
        w = { s.warp c.val k.val with
              regs := { (s.warp c.val k.val).regs with v := w.regs.v }
              bad := w.bad
              fdsq := rs
              stat := { (s.warp c.val k.val).stat with fstat := (s.warp c.val k.val).stat.fstat ||| r.exc } } ∧
        (∀ key, w.bad.look key = if key ∈ r.keys then none else (s.warp c.val k.val).bad.look key) ∧
        (∀ key, w.regs.v.getD key 0 = if key ∈ r.keys then r.vals.getD key 0 else (s.warp c.val k.val).regs.v.getD key 0))

/-- R195, R236, R257, R271: VCMP writes its condition to p[d] in the active lanes; integer types allow fn 0 to 9 only; a
floating-point comparison may raise invalid, and where invalid is enabled it traps and writes nothing; the checks of its registers and
type, in the order of log 26. -/
def Obligations.VectorCompareWritesPredicates : Prop :=
  ∀ (s : State) (d : PReg) (a b : VReg), let t := wmET s.cw.ctl.wmode
    (∀ p ∈ vcmpInt, VecReady s.cw isInt [a, b] [a, b] →
      ∃ w, Becomes s (p.1 d a b) w.advance ∧
        PredWritten s.cw w d.val fun l => decide (l < s.cw.id.width) && p.2 t (elem s.cw a l) (elem s.cw b l)) ∧
    (∀ p ∈ vcmpFlt, VecReady s.cw isFlt [a, b] [a, b] →
      (∀ l ∈ s.cw.lanes, cmpExc p.2.2 (decodeNum t (elem s.cw a l)) (decodeNum t (elem s.cw b l)) &&&
        wmIEN s.cw.ctl.wmode = 0) →
      ∃ w, Becomes s (p.1 d a b) w.advance ∧
        PredWritten { s.cw with stat := w.stat } w d.val (fun l => decide (l < s.cw.id.width) &&
          p.2.1 (decodeNum t (elem s.cw a l)) (decodeNum t (elem s.cw b l))) ∧
        w.stat = { s.cw.stat with fstat := s.cw.stat.fstat ||| (s.cw.lanes.map fun l =>
          cmpExc p.2.2 (decodeNum t (elem s.cw a l)) (decodeNum t (elem s.cw b l))).foldl (fun e x => e ||| x) 0 }) ∧
    (∀ p ∈ vcmpFlt, VecReady s.cw isFlt [a, b] [a, b] →
      ArithmeticTrap s (p.1 d a b) (s.cw.lanes.map fun l =>
        (l, cmpExc p.2.2 (decodeNum t (elem s.cw a l)) (decodeNum t (elem s.cw b l))))) ∧
    (∀ p ∈ vcmpFlt, ChecksTrap s (p.1 d a b) false (fun t => isFlt t || isInt t) [a, b] [a, b]) ∧
    (VecReady s.cw isInt [a, b] [a, b] →
      Raises s (.vcmpUnord d a b) false ILLEGAL 5 ∧ Raises s (.vcmpOrd d a b) false ILLEGAL 5)

/-- R191: rounding the exact value of a finite encoding to its own type gives the encoding back, whatever the rounding mode
that the conversion uses, with no exception. -/
def Obligations.RoundingKeepsRepresentableValues : Prop :=
  ∀ (t rm draw x : Nat) (sat : Bool), t = 4 ∨ t = 5 ∨ t = 6 ∨ t = 7 ∨ t = 8 ∨ t = 9 → x < 2 ^ typeBits t → draw < 2 ^ 24 →
    ∀ (neg : Bool) (m : Nat) (e : Int), decodeNum t x = .fin neg m e → roundTo t rm sat draw (.fin neg m e) = (x, 0)

/-! ## Conversions and cross-lane instructions -/

namespace Sys2Proof.Slice0

open Sys2Proof.Machine

/-- How a conversion of n elements a lane ends: with an enabled exception, in the arithmetic trap; else cr.fstat, under RSR the
generators of the active lanes n draws on (R189), cr.qstat (R197), then the destination elements of type t. That a generator also
advances where a narrowing conversion between integer types takes no number from it is the model's reading (log 24). -/
def CvtDone (s : State) (i : Instr) (d : VReg) (t n : Nat) (rs : List (Nat × List CvtRes)) (value : List CvtRes → Nat) :
    Prop :=
  ArithmeticTrap s i (rs.flatMap fun p => p.2.map fun r => (p.1, r.exc)) ∧
  ((∀ p ∈ rs, ∀ r ∈ p.2, r.exc &&& wmIEN s.cw.ctl.wmode = 0) →
    let all := rs.flatMap fun p => p.2
    let m := s.cw.ctl.wmode
    let w : Warp := { s.cw with stat := { s.cw.stat with
      fstat := s.cw.stat.fstat ||| all.foldl (fun (e : Exc) r => e ||| r.exc) 0 } }
    let w := if wmRM m = 5 ∧ typeBits (wmET m) < typeBits (wmST m) then w.drawn w.lanes n else w
    Becomes s i ((w.qflag (all.foldl (fun (q : BitVec 4) r => q ||| r.q) 0)).setLanes d.val t
      (rs.map fun p => (p.1, value p.2))).advance)

/-- A conversion's n-th element in lane l: from WMODE.ST to WMODE.ET, scaled by 2^k, rounded by WMODE.RM, RSR only where the
destination is narrower and RNE otherwise (R188, R191, R192). -/
def convert (w : Warp) (l n x : Nat) (k : Int) : CvtRes :=
  let m := w.ctl.wmode
  let rsr := wmRM m = 5 ∧ typeBits (wmET m) < typeBits (wmST m)
  cvtElem (wmST m) (wmET m) (if wmRM m = 5 ∧ ¬ rsr then 0 else wmRM m) (wmSAT m) (if rsr then w.drawAt l n else 0) x k

/-- The one value of a conversion. -/
def oneValue (rs : List CvtRes) : Nat := (rs.headD {}).bits

/-- Fields of n bits each, the first the lowest. -/
def fieldsValue (n : Nat) : List CvtRes → Nat
  | [] => 0
  | r :: rs => r.bits + 2 ^ n * fieldsValue n rs

/-- The registers of a conversion meet R236 and R257. -/
def CvtReady (w : Warp) (d a : VReg) : Prop :=
  d.val < w.vregs ∧ a.val < w.vregs ∧ isMov (wmST w.ctl.wmode) = true ∧ isMov (wmET w.ctl.wmode) = true ∧
  (typeBits (wmET w.ctl.wmode) = 64 → d.val % 2 = 0) ∧ (typeBits (wmST w.ctl.wmode) = 64 → a.val % 2 = 0)

end Sys2Proof.Slice0

/-- R236, R257, R274: the checks of the conversions, of both types, of the registers that hold a 64-bit element, of the pairs of a VPACK
of four fields and of the field that a VUNPK names; their order is log 26's. -/
def Sys2Proof.Slice0.ConversionChecksTrap : Prop :=
  ∀ (s : State) (d a b : VReg) (k : Fin 128), let src := wmST s.cw.ctl.wmode; let dst := wmET s.cw.ctl.wmode
    let pairs := (if typeBits dst = 64 then [d] else []) ++ (if typeBits src = 64 then [a] else [])
    let both := isMov src = true ∧ isMov dst = true
    PairChecksTrap s (.fcvt d a) false both [d, a] pairs ∧
    PairChecksTrap s (.fcvts d a b) false both [d, a, b] pairs ∧
    PairChecksTrap s (.vpack d a b) false (src ∈ [0, 1, 4, 6, 7, 8, 9, 13, 14] ∧ dst ∈ [6, 7, 8, 9, 13, 14]) [d, a, b]
      (if dst ∈ [8, 9, 13, 14] then [a, b] else []) ∧
    PairChecksTrap s (.vunpk d a k) false
      (k.val ≤ 3 ∧ src ∈ [6, 7, 8, 9, 13, 14] ∧ dst ∈ [0, 1, 4, 6, 7, 13, 14] ∧ typeBits src * (k.val + 1) ≤ 32) [d, a] []

/-- R274: FCVT and FCVTS convert one element a lane, FCVTS scaled by 2^k with k the lane's 32 bits of vB; VPACK fills one
register with two or four converted fields; VUNPK converts field k. -/
def Sys2Proof.Slice0.ConversionsWriteConverted : Prop :=
  ∀ (s : State) (d a b : VReg) (k : Fin 128), let w := s.cw; let src := wmST w.ctl.wmode; let dst := wmET w.ctl.wmode
    (CvtReady w d a →
      CvtDone s (.fcvt d a) d dst 1 (w.lanes.map fun l => (l, [convert w l 0 (w.get a.val l src) 0])) oneValue) ∧
    (CvtReady w d a → b.val < w.vregs →
      CvtDone s (.fcvts d a b) d dst 1
        (w.lanes.map fun l => (l, [convert w l 0 (w.get a.val l src) (w.rdV b.val l).toInt])) oneValue) ∧
    (d.val < w.vregs → a.val < w.vregs → b.val < w.vregs → src ∈ [0, 1, 4, 6, 7, 8, 9, 13, 14] →
      (dst = 6 ∨ dst = 7 →
        CvtDone s (.vpack d a b) d 1 2
          (w.lanes.map fun l => (l, [convert w l 0 (w.get a.val l src) 0, convert w l 1 (w.get b.val l src) 0]))
          (fieldsValue 16)) ∧
      (dst ∈ [8, 9, 13, 14] → a.val % 2 = 0 → b.val % 2 = 0 →
        CvtDone s (.vpack d a b) d 1 4
          (w.lanes.map fun l => (l, [convert w l 0 (w.get a.val l src) 0, convert w l 1 (w.get (a.val + 1) l src) 0,
            convert w l 2 (w.get b.val l src) 0, convert w l 3 (w.get (b.val + 1) l src) 0])) (fieldsValue 8))) ∧
    (d.val < w.vregs → a.val < w.vregs → k.val ≤ 3 → src ∈ [6, 7, 8, 9, 13, 14] → dst ∈ [0, 1, 4, 6, 7, 13, 14] →
      typeBits src * (k.val + 1) ≤ 32 →
        CvtDone s (.vunpk d a k) d dst 1
          (w.lanes.map fun l =>
            (l, [convert w l 0 ((w.rdV a.val l).toNat / 2 ^ (typeBits src * k.val) % 2 ^ typeBits src) 0])) oneValue)

/-- R189, R191, R192, R195, R236, R257, R274: the conversions write their converted elements, or trap, by an enabled exception or by a
check. The model's own readings are the order of the checks (log 26) and that a narrowing conversion between integer types advances the
generators under RSR although it takes no number from them (log 24). -/
def Obligations.ConversionsWriteTheirResults : Prop :=
  ConversionsWriteConverted ∧ ConversionChecksTrap

/-- R278: VSHUF, VBCAST, MOVVS, VBALLOT, VCOMPACT, VLANE and MOVSV move elements between lanes and scalars; VBCAST and MOVVS
of a lane at or above W raise SUB 5. -/
def Sys2Proof.Slice0.CrossLaneMovesWriteTheirResults : Prop :=
  ∀ (s : State) (d a b : VReg) (x y : SReg), let w := s.cw; let t := wmET w.ctl.wmode
    (VecReady w isMov [d, a, b] [d, a] →
      Becomes s (.vshuf d a b)
        (w.mapLanes d.val t fun l => w.get a.val ((w.rdV b.val l).toNat % w.id.width) t).advance) ∧
    (VecReady w isMov [d, a] [d, a] →
      ((w.rdS x.val).toNat < w.id.width →
        Becomes s (.vbcast d a x) (w.mapLanes d.val t fun _ => w.get a.val (w.rdS x.val).toNat t).advance) ∧
      (w.id.width ≤ (w.rdS x.val).toNat → Raises s (.vbcast d a x) false ILLEGAL 5)) ∧
    (VecReady w isMov [a] [a] →
      ((w.rdS x.val).toNat < w.id.width →
        Becomes s (.movvs y a x) (w.wrS y.val (BitVec.ofInt 64 (if isInt t then intOf t (w.get a.val (w.rdS x.val).toNat t)
          else (w.get a.val (w.rdS x.val).toNat t : Nat)))).advance) ∧
      (w.id.width ≤ (w.rdS x.val).toNat → Raises s (.movvs y a x) true ILLEGAL 5) ∧
      Becomes s (.vballot y a) (w.wrS y.val (lanesMask (w.lanes.filter fun l => decide (elem w a l ≠ 0)))).advance) ∧
    (VecReady w isMov [d, a] [d, a] →
      let xs := (w.lanes.filter fun l => w.selP.getLsbD l).map (elem w a)
      Becomes s (.vcompact d a x)
        ((w.setLanes d.val t (xs.zipIdx.map fun p => (p.2, p.1))).wrS x.val (BitVec.ofNat 64 xs.length)).advance) ∧
    (d.val < w.vregs →
      Becomes s (.vlane d x) (w.mapLanes d.val 1 fun l => ((w.rdS x.val).toNat + l) % 2 ^ 32).advance) ∧
    (VecReady w isMov [d] [d] →
      Becomes s (.movsv d x) (w.mapLanes d.val t fun _ => (w.rdS x.val).toNat % 2 ^ typeBits t).advance)

/-- R195, R256, R278: the reductions write the fixed tree's result to a scalar, widened, and VSCAN the running sums of the active lanes;
on an integer type neither raises an exception; a floating-point one with an enabled exception traps and writes nothing. -/
def Sys2Proof.Slice0.ReductionsWriteTheTreeResult : Prop :=
  ∀ (s : State) (d : VReg) (y : SReg) (a : VReg), let w := s.cw; let t := wmET w.ctl.wmode
    (∀ p ∈ [(Instr.vredadd, RedOp.add), (Instr.vredmin, RedOp.min), (Instr.vredmax, RedOp.max)],
      VecReady w (fun t => isInt t || isFlt t) [a] [a] →
      let r := w.reduce p.2 t a.val
      (∀ q ∈ r.2, q.2 &&& wmIEN w.ctl.wmode = 0) →
        Becomes s (p.1 y a)
          (({ w with stat := { w.stat with fstat := w.stat.fstat ||| (r.2.map Prod.snd).foldl (fun e x => e ||| x) 0 } }).wrS
            y.val (widen t r.1)).advance) ∧
    (∀ p ∈ [(Instr.vredadd, RedOp.add), (Instr.vredmin, RedOp.min), (Instr.vredmax, RedOp.max)],
      (VecReady w (fun t => isInt t || isFlt t) [a] [a] → ArithmeticTrap s (p.1 y a) (w.reduce p.2 t a.val).2) ∧
      (isInt t = true → ∀ q ∈ (w.reduce p.2 t a.val).2, q.2 = 0)) ∧
    (VecReady w (fun t => isInt t || isFlt t) [d, a] [d, a] →
      FloatDone s (.vscan d a) d t (scanLoop w.ctl.wmode t none (w.lanes.map fun l => (l, elem w a l)))) ∧
    (isInt t = true → ∀ acc xs, ∀ q ∈ scanLoop w.ctl.wmode t acc xs, q.2.2 = 0)

/-- R236, R257, R278: the checks of the cross-lane instructions, in the order of log 26; VLANE has no element type. -/
def Sys2Proof.Slice0.CrossLaneChecksTrap : Prop :=
  ∀ (s : State) (d a b : VReg) (x y : SReg), let arith := fun t => isInt t || isFlt t
    ChecksTrap s (.vshuf d a b) false isMov [d, a, b] [d, a] ∧
    ChecksTrap s (.vbcast d a x) false isMov [d, a] [d, a] ∧
    ChecksTrap s (.vcompact d a x) false isMov [d, a] [d, a] ∧
    ChecksTrap s (.movvs y a x) true isMov [a] [a] ∧
    ChecksTrap s (.vballot y a) false isMov [a] [a] ∧
    ChecksTrap s (.movsv d x) false isMov [d] [d] ∧
    (s.cw.vregs ≤ d.val → Raises s (.vlane d x) false ILLEGAL 3) ∧
    (∀ f ∈ [Instr.vredadd, .vredmin, .vredmax], ChecksTrap s (f y a) false arith [a] [a]) ∧
    ChecksTrap s (.vscan d a) false arith [d, a] [d, a]

/-- R195, R236, R256, R257, R278: moves across lanes, reductions and scans, and their traps; the order of their checks is log 26's. -/
def Obligations.CrossLaneInstructions : Prop :=
  CrossLaneMovesWriteTheirResults ∧ ReductionsWriteTheTreeResult ∧ CrossLaneChecksTrap

/-- R278: with SAT clear, an integer VREDADD yields the sum of the active elements modulo 2^bits(T); VREDMIN and VREDMAX of
active lanes yield the least and the greatest of them. -/
def Obligations.IntegerReductionIsTheSum : Prop :=
  ∀ (w : Warp) (t a : Nat), isInt t = true → w.id.width ≤ 64 →
    let xs := w.lanes.map fun l => intOf t (w.get a l t)
    (wmSAT w.ctl.wmode = false → (w.reduce .add t a).1 = wrapBits t xs.sum) ∧
    (xs ≠ [] →
      (∃ x ∈ xs, (w.reduce .min t a).1 = wrapBits t x ∧ ∀ y ∈ xs, x ≤ y) ∧
      (∃ x ∈ xs, (w.reduce .max t a).1 = wrapBits t x ∧ ∀ y ∈ xs, y ≤ x))

/-! ## Control flow, traps, control registers, literals -/

namespace Sys2Proof.Slice0

open Sys2Proof.Machine

/-- The lanes that a branch looks at: exec, or the path when exec is empty (R40). -/
def branchLanes (w : Warp) : W64 := if w.execLanes ≠ 0 then w.execLanes else w.ctl.path

/-- The lanes that the guard sends to a BDIV's target, and the others (R40). -/
def divTaken (w : Warp) : W64 := w.execLanes &&& w.guard
def divFall (w : Warp) : W64 := w.execLanes &&& ~~~(divTaken w)

/-- The registers that CRD reads as one word of the warp or the machine (R249), where that is a field as it stands. -/
def plainControl (s : State) : List (BitVec 11 × W64) :=
  [(0x000, s.cw.ctl.exec), (0x001, s.cw.ctl.wmode), (0x004, s.cw.id.team), (0x005, s.cw.id.grid),
   (0x010, BitVec.ofNat 64 s.tick), (0x011, BitVec.ofNat 64 (s.tai / 2 ^ 16)), (0x012, s.cw.stat.rseed.zeroExtend 64),
   (0x020, s.cw.stat.fstat.zeroExtend 64), (0x021, s.cw.stat.mstat), (0x022, s.cw.stat.qstat.zeroExtend 64),
   (0x040, s.cw.shstat)]

/-- No die has a release recorded, so that no access makes another core drain (R139, R140). -/
def NoReleases (s : State) : Prop := ∀ d line, (s.die d).recs.getD line [] = []

/-- The bytes of code at a place as a core's instruction cache holds them, or as the slice returns them. -/
def codeAt (s : State) (place n : Nat) : Nat :=
  natOf (((s.codeLine s.cur.1 (lineOf place)).drop (place - lineOf place)).take n)

/-- A fetch of n bytes at an address reads v: the page translates for execution, no older word of the line is still in the
fetch buffer, and the line is in the core's instruction cache, with nothing sound that another agent has written there since, or is
sound code of device memory for which the cache has room (R2, R220, R302, R304, R381). -/
def Fetches (s : State) (va n v : Nat) : Prop :=
  ∃ place tg bk, s.translate s.cur.1 s.cw.id.part false .fetch va = .ok place tg bk ∧
    s.cw.oldWords (lineOf place) (place - lineOf place) n = [] ∧
    (((s.core s.cur.1).l1.icache.has (lineOf place) = true ∧
      (s.poisoned place n = true ∨
        natOf (((s.l2Line (lineOf place)).drop (place - lineOf place)).take n) = codeAt s place n)) ∨
      ((s.core s.cur.1).l1.icache.has (lineOf place) = false ∧ s.poisoned place n = false ∧ isHostPlace place = false ∧
        (s.core s.cur.1).l1.icache.length < icacheLines ∧ NoReleases s)) ∧
    v = codeAt s place n

/-- What a fetch may change besides: the directory, which may grant the line and recall another for it, the tokens of the bucket
that it takes from, and whether it finds that bucket short (R142, R413, R414). -/
def SameButFetch (s t : State) : Prop :=
  t = { s with slots := t.slots, jobs := t.jobs, cores := t.cores, hd := t.hd, touched := t.touched, buckets := t.buckets
               short := t.short }

/-- A literal load completes: its warp retires as f of itself, the line stays in the core's instruction cache, and nothing
else changes but what a fetch may change. -/
def LiteralDone (s : State) (i : Instr) (f : Warp → Warp) : Prop :=
  ∃ t : State, exec i s = .next t ∧ t.cw = (f s.cw).advance.issued ∧ SameButFetch s t ∧
    (∀ key, key ≠ slotKey s.cur.1 s.cur.2 → t.slots.look key = s.slots.look key) ∧
    (∀ c, c ≠ s.cur.1 → t.core c = s.core c) ∧
    ∃ ic, t.core s.cur.1 = { s.core s.cur.1 with l1 := { (s.core s.cur.1).l1 with icache := ic } }

end Sys2Proof.Slice0

/-- R40, R279: BRA goes to its target when the guard holds in all the branch's lanes, on when it holds in none, and traps
otherwise; BSR links in s63; POOL goes over its words; JMP links and RETS jumps to an address that is a multiple of 4; NOP goes on
(R280). -/
def Sys2Proof.Slice0.BranchesMoveTheProgramCounter : Prop :=
  ∀ (s : State) (i : BitVec 25) (d a : SReg), let w := s.cw; let tgt := w.ctl.pc + (i.signExtend 64 <<< 2)
    (branchLanes w ≠ 0 → branchLanes w &&& w.guard = branchLanes w → Becomes s (.bra i) (w.setPc tgt)) ∧
    (branchLanes w &&& w.guard = 0 → Becomes s (.bra i) (w.setPc (w.ctl.pc + 4))) ∧
    (branchLanes w &&& w.guard ≠ 0 → branchLanes w &&& w.guard ≠ branchLanes w → Raises s (.bra i) true DIVERGENT_BRANCH 0) ∧
    Becomes s (.bsr i) ((w.wrS 63 (w.ctl.pc + 4)).setPc tgt) ∧
    (1 ≤ i.toInt → Becomes s (.pool i) (w.setPc tgt)) ∧
    (i.toInt < 1 → Raises s (.pool i) true ILLEGAL 5) ∧
    ((w.rdS a.val).toNat % 4 = 0 →
      Becomes s (.jmp d a) ((w.wrS d.val (w.ctl.pc + 4)).setPc (w.rdS a.val)) ∧
      Becomes s (.rets a) (w.setPc (w.rdS a.val))) ∧
    ((w.rdS a.val).toNat % 4 ≠ 0 → Raises s (.jmp d a) true ILLEGAL 5 ∧ Raises s (.rets a) true ILLEGAL 5) ∧
    Becomes s .nop (w.setPc (w.ctl.pc + 4))

/-- R40: RCV pushes a reconvergence entry, 32 at most; BDIV splits the warp, the lanes that do not branch first, or sends all of
them; a second pending target or a split without an entry traps. -/
def Sys2Proof.Slice0.DivergenceSplitsTheWarp : Prop :=
  ∀ (s : State) (i : BitVec 25), let w := s.cw; let tgt := w.ctl.pc + (i.signExtend 64 <<< 2)
    (w.ctl.stk.length < 32 →
      Becomes s (.rcv i) { w with ctl := { w.ctl with
        pc := w.ctl.pc + 4, stk := { rpc := tgt, saved := w.ctl.exec, psaved := w.ctl.path } :: w.ctl.stk } }) ∧
    (32 ≤ w.ctl.stk.length → Raises s (.rcv i) true RECONVERGENCE_OVERFLOW 0) ∧
    (divTaken w = 0 → Becomes s (.bdiv i) (w.setPc (w.ctl.pc + 4))) ∧
    (divTaken w ≠ 0 → divFall w = 0 → (∀ e ∈ w.ctl.stk.head?, e.pvalid = false) → Becomes s (.bdiv i) (w.setPc tgt)) ∧
    (∀ e rest, w.ctl.stk = e :: rest → divTaken w ≠ 0 →
      (divFall w = 0 → e.pvalid = true → e.ptgt = tgt →
        Becomes s (.bdiv i) { w with ctl := { w.ctl with
          exec := (divTaken w ||| e.pmask) &&& w.ctl.live, path := (divTaken w ||| e.pmask) &&& w.ctl.live, pc := tgt
          stk := { e with pvalid := false } :: rest } }) ∧
      (divFall w ≠ 0 → e.pvalid = false ∨ e.ptgt = tgt →
        Becomes s (.bdiv i) { w with ctl := { w.ctl with
          exec := divFall w, path := divFall w, pc := w.ctl.pc + 4
          stk := { e with
            pmask := (if e.pvalid then e.pmask else 0) ||| divTaken w, ptgt := tgt, pvalid := true } :: rest } }) ∧
      (e.pvalid = true → e.ptgt ≠ tgt → Raises s (.bdiv i) true RECONVERGENCE_OVERFLOW 0)) ∧
    (w.ctl.stk = [] → divTaken w ≠ 0 → divFall w ≠ 0 → Raises s (.bdiv i) true RECONVERGENCE_OVERFLOW 0)

/-- R40, R279, R280: uniform branches, calls and returns; divergence and its stack. -/
def Obligations.BranchesAndDivergence : Prop :=
  BranchesMoveTheProgramCounter ∧ DivergenceSplitsTheWarp

/-- R40: after reconvergence a warp stands at no open reconvergence point: its stack is empty, or its pc is not the top
entry's; and no lane joins that was not live. -/
def Obligations.ReconvergenceLeavesTheTopEntry : Prop :=
  ∀ w : Warp, let w' := w.reconverge
    (w'.ctl.stk = [] ∨ ∃ e rest, w'.ctl.stk = e :: rest ∧ w'.ctl.pc ≠ e.rpc) ∧
    (w' ≠ w → w'.ctl.exec &&& ~~~w.ctl.live = 0) ∧
    w' = { w with ctl := { w.ctl with pc := w'.ctl.pc, exec := w'.ctl.exec, path := w'.ctl.path, stk := w'.ctl.stk } }

/-- R36, R203 to R205, R209 to R212, R215, R217: a trap of a warp whose earlier long-latency instructions and divisions are complete makes
it HELD at its pc with the trap registers and a record for each trapped lane, its wait count at zero, and appends its lanes to the
core's pending origins; while one is incomplete, the trap waits. R204 says so of the earlier long-latency instructions; that the trap
also waits for the results that the divide unit owes the warp is the model's reading (log 30). A handler warp's trap stops its context
instead. -/
def Sys2Proof.Slice0.TakingATrapHoldsTheWarp : Prop :=
  ∀ (s : State) (cause sub : Nat) (uniform : Bool) (cont : W64),
    let w := s.cw
    let t := s.trapNow { cause := cause, sub := sub } uniform cont
    let mask := if w.active = 0 then BitVec.ofNat 64 (2 ^ ((lanesIn 64 w.ctl.live).headD 0)) else w.active
    (w.log ≠ [] ∨ w.fdsq ≠ [] → t = s) ∧
    (w.log = [] → w.fdsq = [] → w.id.handler = false →
      t.cw.st = .held ∧ t.cw.trap.mask = mask ∧ t.cw.trap.pc = w.ctl.pc ∧ t.cw.trap.cause = BitVec.ofNat 8 cause ∧
      t.cw.trap.sub = BitVec.ofNat 8 sub ∧ t.cw.trap.defer = false ∧ t.cw.trap.cont = cont ∧
      (∀ l ∈ lanesIn 64 mask, ∃ r, t.cw.trap.recs.look l = some r ∧
        r.cause = BitVec.ofNat 8 cause ∧ r.sub = BitVec.ofNat 8 sub ∧ r.lane = l ∧ r.word = s.curWord ∧ r.pc = w.ctl.pc ∧
        r.cont = cont ∧ r.mask = mask ∧ r.tick = BitVec.ofNat 64 s.tick) ∧
      t.cw = { w with st := .held, wait := .none, trap := t.cw.trap, ctl := { w.ctl with reexec := none, wait := 0, promo := false } } ∧
      (t.core s.cur.1).pend = (s.core s.cur.1).pend ++ (lanesIn 64 mask).map (fun l =>
        ({ cause := BitVec.ofNat 8 cause, origin := { lane := l, slot := s.cur.2, sgen := w.gen }, tick := s.tick } :
          PendingOrigin)) ∧
      SameButWarps s t) ∧
    (w.log = [] → w.fdsq = [] → w.id.handler = true → ∀ jb, s.jobs.look w.id.job = some jb → jb.stop = none →
      ∃ info, t = { s with jobs := s.jobs.ins w.id.job { jb with stop := some { reason := 4, info := info } } })

/-- R281: TRAP raises the software trap of its code in the active lanes, and with no active lane has no effect. -/
def Sys2Proof.Slice0.SoftwareTrapEntersTheTrap : Prop :=
  ∀ (s : State) (c : BitVec 8),
    (s.cw.active = 0 → Becomes s (.trap c) (s.cw.setPc (s.cw.ctl.pc + 4))) ∧
    (s.cw.active ≠ 0 → Raises s (.trap c) false 16 c.toNat ∧
      (s.cw.log = [] → s.cw.fdsq = [] → s.cw.id.handler = false →
        ∃ t, exec (.trap c) s = .next t ∧ t.cw.st = .held ∧ t.cw.trap.mask = s.cw.active ∧ t.cw.trap.cause = 16 ∧
          t.cw.trap.sub = c ∧ t.cw.trap.pc = s.cw.ctl.pc))

/-- R203 to R212, R281: TAKING A TRAP, by an instruction that fails a check and by TRAP. -/
def Obligations.TrapsAreTaken : Prop :=
  TakingATrapHoldsTheWarp ∧ SoftwareTrapEntersTheTrap

/-- R266, R249, R284: CRD reads a control register into a scalar, or a per-lane one into an even vector pair; TICK and TAI read
the clocks. -/
def Sys2Proof.Slice0.ControlRegistersRead : Prop :=
  ∀ (s : State) (d : Fin 128) (x : SReg) (n : BitVec 11), let w := s.cw
    (crReadable n = true → s.crWaits n.toNat = false → perLane w n.toNat = false → d.val < 64 →
      Becomes s (.crd d n) (w.wrS d.val (s.crValue w s.cur.1 s.cur.2 n.toNat)).advance) ∧
    (∀ p ∈ plainControl s, s.crValue w s.cur.1 s.cur.2 p.1.toNat = p.2 ∧ crReadable p.1 = true) ∧
    (crReadable n = true → s.crWaits n.toNat = false → perLane w n.toNat = true → d.val % 2 = 0 → d.val < w.vregs →
      Becomes s (.crd d n)
        (w.lanes.foldl (fun z l => z.set d.val l 3 (s.crLane w s.cur.1 n.toNat l).toNat) w).advance) ∧
    (∀ l, s.crLane w s.cur.1 2 l = BitVec.ofNat 64 l) ∧
    (crReadable n = true → s.crWaits n.toNat = true → exec (.crd d n) s = .next s) ∧
    (crReadable n = false → Raises s (.crd d n) true ILLEGAL 6) ∧
    Becomes s (.tick x) (w.wrS x.val (BitVec.ofNat 64 s.tick)).advance ∧
    (x.val % 2 = 0 → Becomes s (.tai x) ((w.wrS x.val (BitVec.ofNat 64 (s.tai / 2 ^ 16))).wrS (x.val + 1)
      (BitVec.ofNat 64 (s.tai % 2 ^ 16 + if s.taiLock then 2 ^ 16 else 0))).advance) ∧
    (x.val % 2 = 1 → Raises s (.tai x) true ILLEGAL 4)

/-- R266, R10, R190, R194, R197: CWR writes exec within the path, WMODE after its check, cr.rseed with every generator, and
clears the bits of cr.fstat and cr.qstat that its source has set; any other register raises SUB 6. -/
def Sys2Proof.Slice0.ControlRegistersWrite : Prop :=
  ∀ (s : State) (a : SReg), let w := s.cw; let x := w.rdS a.val
    Becomes s (.cwr a 0x000) { w with ctl := { w.ctl with exec := x &&& w.ctl.path, pc := w.ctl.pc + 4 } } ∧
    (wmodeOk x = true → Becomes s (.cwr a 0x001) { w with ctl := { w.ctl with wmode := x, pc := w.ctl.pc + 4 } }) ∧
    (wmodeOk x = false → Raises s (.cwr a 0x001) true ILLEGAL 2) ∧
    Becomes s (.cwr a 0x012) (w.reseed (x.truncate 32)).advance ∧
    (s.crWaits 0x020 = false → Becomes s (.cwr a 0x020)
      ({ w with stat := { w.stat with fstat := w.stat.fstat &&& ~~~(x.truncate 5) } }).advance) ∧
    (s.crWaits 0x021 = false → ∃ m : W64, Becomes s (.cwr a 0x021)
      ({ w with stat := { w.stat with mstat := m } }).advance ∧
      bits m 8 8 = bits x 8 8 ∧ (∀ i < 4, m.getLsbD i = (w.stat.mstat.getLsbD i && !x.getLsbD i))) ∧
    (s.crWaits 0x022 = false → Becomes s (.cwr a 0x022)
      ({ w with stat := { w.stat with qstat := w.stat.qstat &&& ~~~(x.truncate 4) } }).advance) ∧
    (∀ n : BitVec 11, n.toNat ∉ [0x000, 0x001, 0x012, 0x020, 0x021, 0x022] → s.crWaits n.toNat = false →
      Raises s (.cwr a n) true ILLEGAL 6)

/-- R249, R266: CRD and CWR. -/
def Obligations.ControlRegistersAreReadAndWritten : Prop :=
  ControlRegistersRead ∧ ControlRegistersWrite

/-- R265: LDL, LDLQ and LDLV load a word or a doubleword of the code space, LDL sign-extended, LDLV into every active lane; a
misaligned address raises the alignment trap. -/
def Sys2Proof.Slice0.LiteralLoadsReadTheCode : Prop :=
  ∀ (s : State) (d : SReg) (v : VReg) (i : BitVec 18) (x : Nat),
    let w := s.cw
    let q := w.ctl.pc + (i.signExtend 64 <<< 2)
    (q.toNat % 4 = 0 → Fetches s q.toNat 4 x →
      LiteralDone s (.ldl d i) (fun w => w.wrS d.val ((BitVec.ofNat 32 x).signExtend 64)) ∧
      (v.val < w.vregs → LiteralDone s (.ldlv v i) (fun w =>
        w.lanes.foldl (fun w l => w.wrV v.val l (BitVec.ofNat 32 x)) w))) ∧
    (q.toNat % 8 = 0 → Fetches s q.toNat 8 x → LiteralDone s (.ldlq d i) (fun w => w.wrS d.val (BitVec.ofNat 64 x))) ∧
    (q.toNat % 8 ≠ 0 → ∃ t : TrapInfo, t.cause = ALIGNMENT ∧ t.sub = 0 ∧
      exec (.ldlq d i) s = .next (s.trapNow t true (w.ctl.pc + 4)))

/-- R43, R279: SELS goes to the entry of the class with the smallest maximum that is at least the size in s[a], the first
of equals; with no such class it raises the schedule-range trap. -/
def Sys2Proof.Slice0.ScheduleSelectionPicksTheClass : Prop :=
  ∀ (s : State) (a : SReg), let w := s.cw; let jb := s.job w.id.job; let size := (w.rdS a.val).toNat
    (∀ pre c post, jb.sched = pre ++ c :: post → size ≤ c.1 → (∀ x ∈ pre, size ≤ x.1 → c.1 < x.1) →
      (∀ x ∈ post, size ≤ x.1 → c.1 ≤ x.1) →
      Becomes s (.sels a) (w.setPc (BitVec.ofNat 64 (jb.r.code + c.2)))) ∧
    ((∀ x ∈ jb.sched, x.1 < size) → Raises s (.sels a) true SCHEDULE_RANGE 0)

/-- R43, R265, R279: literal loads and SELS. -/
def Obligations.CodeReadsAndScheduleSelection : Prop :=
  LiteralLoadsReadTheCode ∧ ScheduleSelectionPicksTheClass

/-! ## Memory: loads, stores, fences -/

namespace Sys2Proof.Slice0

open Sys2Proof.Machine

/-- The warp is not asleep, and the operand log has room for the instruction (R28, R219). -/
def LogRoom (s : State) (op : LongOp) : Prop :=
  s.cw.st ≠ .asleep ∧ s.logUsed s.cur.1 + logCost op s.cw.ctl.wmode s.cw.active ≤ 64

/-- Each die's L2 has room for n more lines of host space in the ways of the partition that has a core (R2, R99, R410). -/
def L2Room (s : State) (c n : Nat) : Prop := ∀ d, (s.die d).hpart.length + n ≤ waysRoom (s.l2Ways (s.corePart c) d)

/-- The caches and banks hold nothing back and have room for some lines (R2, R99): no release is recorded (R139), the core has no far
store under way (R148), every set of its L1 has a way for each of the lines that it does not hold, and each die's L2 has room. -/
def Calm (s : State) (lines : List Nat) : Prop :=
  NoReleases s ∧ (s.core s.cur.1).far = [] ∧ (∀ b ∈ s.lags, b = false) ∧
  (∀ k, ((lines.foldl addNew (s.core s.cur.1).l1.lines).filter fun l => l1SetOf l == k).length ≤ l1Ways) ∧
  L2Room s s.cur.1 2048

/-- The instruction is performed when it issues: its window is empty, or the agenda has it performed at once (R137, log 4). -/
def AtOnce (s : State) (la : Nat) : Prop := la = 0 ∨ s.late.headD false = false

/-- Every active lane's address of n bytes through record b and index register x meets the checks of R108 (`as` holds the
addresses, none for a clamped lane), its bytes translate (`zs` holds the places), and no engine owns their lines (R122). -/
def Placed (s : State) (b : BReg) (x : VReg) (n : Nat) (kind : AccessKind) (wr : Bool)
    (as : List (Nat × Option Nat)) (zs : List (Nat × Located)) : Prop :=
  s.addresses s.ctx b.val x.val n n wr = .ok as ∧
  s.locateAll s.ctx (s.cw.regs.rdB b.val) kind n (okLanes as) = .ok zs ∧
  ∀ p ∈ zs, ∀ q ∈ p.2.segs, s.owned.has (lineOf q.1) = false

/-- No place of the lanes is poisoned (R124). -/
def Clean (s : State) (zs : List (Nat × Located)) : Prop := s.unpoisoned s.cur.1 zs = .ok ()

/-- The bytes of a segment as a plain load of core c sees them: its L1's view of a global or host line, the bank otherwise
(R130). -/
def segSeen (s : State) (c : Nat) (q : Nat × Nat) : List Byte :=
  if isCachedPlace q.1 then ((s.l1Line c (lineOf q.1)).drop (q.1 - lineOf q.1)).take q.2 else s.read q.1 q.2

/-- The value that lane l loads; a clamped lane loads zero (R108). -/
def loaded (s : State) (c : Nat) (zs : List (Nat × Located)) (l : Nat) : Nat :=
  match zs.find? fun p => p.1 == l with
  | some p => natOf (p.2.segs.flatMap (segSeen s c))
  | none => 0

/-- Lines of the job's argument block that the core holds in its constant cache are as they stand in memory (R396). -/
def ConstFresh (s : State) : Prop :=
  ∀ line old, (s.core s.cur.1).l1.const.look line = some old → old = s.l1Line s.cur.1 line

/-- One byte as a plain load of core c sees it: dirty, else of its clean copy, else of its home slice's copy or memory. -/
def byteSeen (s : State) (c a : Nat) : Byte :=
  let line := lineOf a
  let l1 := (s.core c).l1
  let x := s.die (homeDie line)
  if isCachedPlace a then
    l1.dirty.getD a
      (match l1.clean.look line with
      | some bs => bs.getD (a - line) 0
      | none =>
        if isHostPlace line then
          x.hdirty.getD a (((x.hclean.look line).getD (s.hostRead line 128)).getD (a - line) 0)
        else s.mem.getD a 0)
  else s.mem.getD a 0

/-- The places of a lane's bytes, in order. -/
def bytePlaces (z : Located) : List Nat := z.segs.flatMap fun q => (List.range q.2).map fun i => q.1 + i

/-- What a step of one warp's access leaves as it was: every byte of memory, every tag, line bit, poisoned unit and owner of a
line, every other warp, and the counters. -/
def MemoryKept (s t : State) : Prop :=
  t.mem = s.mem ∧ t.tags = s.tags ∧ t.lineFull = s.lineFull ∧ t.poison = s.poison ∧ t.owned = s.owned

def OthersKept (s t : State) : Prop :=
  (∀ key, key ≠ slotKey s.cur.1 s.cur.2 → t.slots.look key = s.slots.look key) ∧ t.cur = s.cur ∧ t.tick = s.tick ∧
  t.parts = s.parts ∧ t.queues = s.queues

/-- R290: forms of LD, with their bytes and the value that goes to the 32-bit registers of the destination. -/
def loadTable : List ((VReg → VReg → BReg → La → Instr) × Fin 7 × Nat × (Nat → List W32)) :=
  [(.ldU8, 0, 1, fun v => [BitVec.ofNat 32 v]), (.ldI8, 1, 1, fun v => [(BitVec.ofNat 8 v).signExtend 32]),
   (.ldU16, 2, 2, fun v => [BitVec.ofNat 32 v]), (.ldI16, 3, 2, fun v => [(BitVec.ofNat 16 v).signExtend 32]),
   (.ld32, 4, 4, fun v => [BitVec.ofNat 32 v]),
   (.ld64, 5, 8, fun v => [BitVec.ofNat 32 v, BitVec.ofNat 32 (v / 2 ^ 32)]),
   (.ld128, 6, 16, fun v => [BitVec.ofNat 32 v, BitVec.ofNat 32 (v / 2 ^ 32), BitVec.ofNat 32 (v / 2 ^ 64),
      BitVec.ofNat 32 (v / 2 ^ 96)])]

/-- Forms of ST, with their fn and bytes. -/
def storeTable : List ((VReg → VReg → BReg → La → Instr) × Fin 5 × Nat) :=
  [(.st8, 0, 1), (.st16, 1, 2), (.st32, 2, 4), (.st64, 3, 8), (.st128, 4, 16)]

/-- Registers of n bytes from d on lie in the allotment, and d is a multiple of their number (R236, R287). -/
def DataReady (w : Warp) (d x : VReg) (n : Nat) : Prop :=
  d.val + (n + 3) / 4 ≤ w.vregs ∧ d.val % ((n + 3) / 4) = 0 ∧ x.val < w.vregs

/-- Byte i of the data of a store in lane l: from the registers from d on, the lowest first. -/
def dataByte (w : Warp) (d l i : Nat) : Byte := BitVec.ofNat 8 ((w.rdV (d + i / 4) l).toNat / 2 ^ (8 * (i % 4)))

/-- The bytes that a store leaves: every byte that a lane stores holds that lane's data unless a later lane stores to it
too (R113), every other byte is as it was. -/
def StoreDone (s t : State) (zs : List (Nat × Located)) (byte : Nat → Nat → Byte) : Prop :=
  (∀ pre l z post, zs = pre ++ (l, z) :: post → ∀ i a, (bytePlaces z)[i]? = some a →
    (∀ j, i < j → (bytePlaces z)[j]? ≠ some a) → (∀ p ∈ post, a ∉ bytePlaces p.2) →
    byteSeen t s.cur.1 a = byte l i) ∧
  (∀ a, (∀ p ∈ zs, a ∉ bytePlaces p.2) → byteSeen t s.cur.1 a = byteSeen s s.cur.1 a)

def ldaTable : List ((VReg → VReg → BReg → La → Instr) × Fin 6) :=
  [(.ldaTeam, 0), (.ldaCluster, 1), (.ldaDie, 2), (.ldaPackage, 3), (.ldaGroup, 4), (.ldaSystem, 5)]

def stlTable : List ((VReg → VReg → BReg → La → Instr) × Fin 6) :=
  [(.stlTeam, 0), (.stlCluster, 1), (.stlDie, 2), (.stlPackage, 3), (.stlGroup, 4), (.stlSystem, 5)]

/-- The element type has a width and its registers are in place (R257, R287). -/
def ElemReady (w : Warp) (d x : VReg) : Prop :=
  d.val < w.vregs ∧ x.val < w.vregs ∧ typeBits (wmET w.ctl.wmode) ≠ 0 ∧
  (typeBits (wmET w.ctl.wmode) = 64 → d.val % 2 = 0)

/-- Is a space served by the caches (R97)? -/
def cachedSpace (r : BufRec) : Bool := recSpace r == 1 || recSpace r == 6

end Sys2Proof.Slice0

namespace Sys2Proof.Slice0

open Sys2Proof.Machine

/-- The offset and the address of lane l through record b and index register x (R108). -/
def laneOff (w : Warp) (b : BReg) (x : VReg) (l : Nat) : Nat := (w.rdV x.val l).toNat * recStride (w.regs.rdB b.val)
def laneAt (w : Warp) (b : BReg) (x : VReg) (l : Nat) : Nat := recBase (w.regs.rdB b.val) + laneOff w b x l

/-- The cause and SUB that lane l of an access of n bytes meets, by R108 in its order (R98, R207, R214); none for a lane that is OK or
CLAMPED. -/
def laneMeets (s : State) (b : BReg) (x : VReg) (n : Nat) (wr : Bool) (l : Nat) : Option (Nat × Nat) :=
  let r := s.cw.regs.rdB b.val
  if recSpace r = 0 then some (ACCESS, 1)
  else if recSpace r = SP_LANE ∧ s.cw.id.handler = true then some (ACCESS, 5)
  else if wr = true ∧ recRdonly r = true then some (ACCESS, 2)
  else if recExtent r < laneOff s.cw b x l + n then (if recClamp r then none else some (BOUNDS, 0))
  else if laneAt s.cw b x l % n ≠ 0 then some (ALIGNMENT, 0)
  else if s.unbacked s.ctx (recSpace r) (laneAt s.cw b x l) n = true then some (ACCESS, 5)
  else none

/-- The lanes that meet a cause. -/
def lanesMeeting (s : State) (b : BReg) (x : VReg) (n : Nat) (wr : Bool) (cause : Nat) : List Nat :=
  s.cw.lanes.filter fun l => (laneMeets s b x n wr l).map Prod.fst == some cause

/-- R108, R109, R205, R209: where active lanes meet a cause of R108, the instruction raises the first of ACCESS, BOUNDS and ALIGNMENT that
some lane meets, in the lanes that meet it, with each lane's address, and for BOUNDS the record's EXTENT and the lane's offset. -/
def AddressesTrap (s : State) (i : Instr) (b : BReg) (x : VReg) (n : Nat) (wr : Bool) : Prop :=
  let at_ := lanesMeeting s b x n wr
  ∀ cause, at_ cause ≠ [] → (cause = ACCESS ∨ at_ ACCESS = [] ∧ (cause = BOUNDS ∨ cause = ALIGNMENT ∧ at_ BOUNDS = [])) →
    ∃ info : TrapInfo, exec i s = .next (s.trapNow info false (s.cw.ctl.pc + 4)) ∧
      info.cause = cause ∧ info.mask = some (lanesMask (at_ cause)) ∧
      (∀ l ∈ at_ cause, laneMeets s b x n wr l = some (cause, info.sub) ∧
        info.det.getD l (0, 0, 0) = (BitVec.ofNat 64 (laneAt s.cw b x l),
          if cause = BOUNDS then BitVec.ofNat 64 (recExtent (s.cw.regs.rdB b.val)) else 0,
          if cause = BOUNDS then BitVec.ofNat 64 (laneOff s.cw b x l) else 0))

end Sys2Proof.Slice0

/-- R290, R108, R130: a load writes its value in every active lane, zero in a clamped lane, and no other register. Where the caches
are calm, the value is that of the bytes at the lane's address as the core sees them, and memory is unchanged; else a line that it
brings in may first make other cores write back what they released (R139, R140). -/
def Sys2Proof.Slice0.LoadsComplete : Prop :=
  ∀ (s : State) (d x : VReg) (b : BReg) (la : La), ∀ p ∈ loadTable, ∀ as zs,
    DataReady s.cw d x p.2.2.1 → LogRoom s (.load p.2.1 d x b) → AtOnce s la.val → ConstFresh s →
    Placed s b x p.2.2.1 .read false as zs → Clean s zs →
    ∃ t val, exec (p.1 d x b la) s = .next t ∧ t.tags = s.tags ∧ t.lineFull = s.lineFull ∧ OthersKept s t ∧
      t.cw = (as.foldl (fun (w : Warp) q => (p.2.2.2 (val q.1)).zipIdx.foldl
        (fun (w : Warp) r => w.wrV (d.val + r.2) q.1 r.1) w) s.cw).advance.issued ∧
      (∀ q ∈ as, q.2 = none → val q.1 = 0) ∧
      (Calm s (linesOf zs) → MemoryKept s t ∧ val = loaded s s.cur.1 zs)

/-- R108 to R110, R130, R205, R209, R290: a load reads its lanes' bytes, or traps where a lane's address fails its checks, in the lanes
that R109 names. -/
def Obligations.LoadsReadTheirBytes : Prop :=
  LoadsComplete ∧
  ∀ (s : State) (d x : VReg) (b : BReg) (la : La), ∀ p ∈ loadTable,
    DataReady s.cw d x p.2.2.1 → LogRoom s (.load p.2.1 d x b) → AddressesTrap s (p.1 d x b la) b x p.2.2.1 false

/-- R290, R113: a store changes no tag and no register, and where the caches are calm it writes every active lane's bytes at its
address, as the issuing core sees them, and changes no other byte. -/
def Sys2Proof.Slice0.StoresComplete : Prop :=
  ∀ (s : State) (d x : VReg) (b : BReg) (la : La), ∀ p ∈ storeTable, ∀ as zs, s.memoryOk = true →
    DataReady s.cw d x p.2.2 → LogRoom s (.store p.2.1 d x b) → AtOnce s la.val → Placed s b x p.2.2 .write true as zs →
    ∃ t, exec (p.1 d x b la) s = .next t ∧ t.cw = s.cw.advance.issued ∧ t.tags = s.tags ∧ t.lineFull = s.lineFull ∧
      OthersKept s t ∧ (Calm s (linesOf zs) → StoreDone s t zs fun l i => dataByte s.cw d.val l i)

/-- R108 to R110, R113, R205, R209, R290: a store writes its lanes' bytes, or traps where a lane's address fails its checks, in the lanes
that R109 names. -/
def Obligations.StoresWriteTheirBytes : Prop :=
  StoresComplete ∧
  ∀ (s : State) (d x : VReg) (b : BReg) (la : La), ∀ p ∈ storeTable,
    DataReady s.cw d x p.2.2 → LogRoom s (.store p.2.1 d x b) → AddressesTrap s (p.1 d x b la) b x p.2.2 true

/-- R291, R292, R140, R141: LDA reads an element a lane; at a scope beyond the core's L1 it reads global and host space at the
slice, after the drains that acquire asks for, and then drops the core's clean lines; otherwise it reads as a load does. With no
active lane it is the acquire alone. -/
def Sys2Proof.Slice0.AcquireLoadsComplete : Prop :=
  ∀ (s : State) (d x : VReg) (b : BReg) (la : La), ∀ p ∈ ldaTable,
    let n := typeBits (wmET s.cw.ctl.wmode) / 8
    let wide := s.cw.wide p.2.val && cachedSpace (s.cw.regs.rdB b.val)
    ElemReady s.cw d x → s.cw.log = [] → LogRoom s (.lda p.2 d x b) → AtOnce s la.val → ConstFresh s →
    (s.cw.lanes = [] → ∃ t, exec (p.1 d x b la) s = .next t ∧ t.cw = s.cw.advance.issued ∧ OthersKept s t ∧ MemoryKept s t ∧
      (s.cw.wide p.2.val = true → (t.core s.cur.1).l1.clean = [])) ∧
    (∀ as zs, s.cw.lanes ≠ [] → Placed s b x n .read false as zs →
      let u := if wide then (linesOf zs).foldl (fun u ln => u.acquireLine s.cur.1 ln (s.cw.scoped p.2.val)) s else s
      u.unpoisoned s.cur.1 zs = .ok () →
      ∃ t val, exec (p.1 d x b la) s = .next t ∧ OthersKept s t ∧ t.tags = s.tags ∧ t.lineFull = s.lineFull ∧
        t.cw = (as.foldl (fun (w : Warp) q => w.set d.val q.1 (wmET s.cw.ctl.wmode) (val q.1)) s.cw).advance.issued ∧
        (∀ q ∈ as, q.2 = none → val q.1 = 0) ∧
        (s.cw.wide p.2.val = true → (t.core s.cur.1).l1.clean = []) ∧
        (wide = false → Calm s (linesOf zs) → MemoryKept s t ∧ val = loaded s s.cur.1 zs) ∧
        (wide = true →
          val = fun l => laneVal (u.readLanes (fun u g => u.acquireRead s.cur.1 (p.2.val == 5) g) zs).1 l))

/-- R291, R292, R139, R141, R151: STL writes an element a lane: at a scope within the core's L1, or in scratchpad space, as a store
does. At a scope beyond it, a byte of device memory is written at its slice, and where no other release is recorded the release either
drains the core, which then holds no dirty byte, or is recorded for the core at each line's slice. A byte of host space is written in
host memory at every scope, while the host's link is up. With no active lane it is the release alone, which leaves the core no dirty
byte. -/
def Sys2Proof.Slice0.ReleaseStoresComplete : Prop :=
  ∀ (s : State) (d x : VReg) (b : BReg) (la : La), ∀ p ∈ stlTable, s.memoryOk = true →
    let t := wmET s.cw.ctl.wmode
    let n := typeBits t / 8
    let byte := fun (l i : Nat) => BitVec.ofNat 8 (s.cw.regs.get d.val l t / 2 ^ (8 * i))
    ElemReady s.cw d x → s.cw.log = [] → LogRoom s (.stl p.2 d x b) → AtOnce s la.val →
    (s.cw.lanes = [] → ∃ u, exec (p.1 d x b la) s = .next u ∧ u.cw = s.cw.advance.issued ∧ OthersKept s u ∧
      u.tags = s.tags ∧ (s.cw.wide p.2.val = true → (u.core s.cur.1).l1.dirty = [])) ∧
    (∀ as zs, s.cw.lanes ≠ [] → Placed s b x n .write true as zs →
      ∃ u, exec (p.1 d x b la) s = .next u ∧ OthersKept s u ∧ u.tags = s.tags ∧ u.lineFull = s.lineFull ∧
        u.cw = s.cw.advance.issued ∧
        (s.cw.wide p.2.val = false → recSpace (s.cw.regs.rdB b.val) ≠ SP_HOST → Calm s (linesOf zs) → StoreDone s u zs byte) ∧
        (s.cw.wide p.2.val = true → cachedSpace (s.cw.regs.rdB b.val) = true → NoReleases s → ∀ line ∈ linesOf zs,
          (u.core s.cur.1).l1.dirty = [] ∨ ∃ r ∈ (u.die (sliceDie s.cur.1 line)).recs.getD line [], r.1 = s.cur.1) ∧
        (s.cw.wide p.2.val = true ∨ recSpace (s.cw.regs.rdB b.val) = SP_HOST → Calm s (linesOf zs) →
          ∀ pre l z post, zs = pre ++ (l, z) :: post → ∀ i a, (bytePlaces z)[i]? = some a →
            (∀ j, i < j → (bytePlaces z)[j]? ≠ some a) → (∀ q ∈ post, a ∉ bytePlaces q.2) →
            isHostPlace a = false ∨ recSpace (s.cw.regs.rdB b.val) = SP_HOST ∧ s.pcie = true →
            u.mem.getD a 0 = byte l i))

/-- R307, R136, R139 to R141, R148: FENCE waits for the warp's earlier long-latency instructions; then, at a scope beyond the core's
L1, kind 1 and 2 drain the core and wait for the warp's far stores, and kind 0 and 2 drop its clean lines. Kind 3 and scope 6 are
illegal. -/
def Sys2Proof.Slice0.FencesDrainAndInvalidate : Prop :=
  ∀ (s : State) (k : Fin 4) (sc : Fin 8),
    (k.val ≠ 3 → sc.val ≠ 6 → s.cw.log = [] →
      ∃ t, exec (.fence k sc) s = .next t ∧ t.cw = s.cw.advance.issued ∧ OthersKept s t ∧ t.tags = s.tags ∧
        (s.cw.wide sc.val = true →
          (k.val ≠ 0 → (t.core s.cur.1).l1.dirty = []) ∧ (k.val ≠ 1 → (t.core s.cur.1).l1.clean = [])) ∧
        (k.val = 0 ∨ s.cw.wide sc.val = false → MemoryKept s t) ∧
        (s.cw.wide sc.val = false → t.cores = s.cores) ∧
        (k.val ≠ 0 → s.cw.wide sc.val = true → (s.core s.cur.1).far = [] →
          t.mem = (s.drain s.cur.1).mem ∧ t.dies = (s.drain s.cur.1).dies)) ∧
    (k.val ≠ 3 → sc.val ≠ 6 → s.cw.log ≠ [] → exec (.fence k sc) s = .next s) ∧
    (k.val = 3 ∨ sc.val = 6 → Raises s (.fence k sc) true ILLEGAL 5)

/-- R139 to R141, R291, R292, R307: acquire loads, release stores and fences. -/
def Obligations.AcquireReleaseAndFences : Prop :=
  AcquireLoadsComplete ∧ ReleaseStoresComplete ∧ FencesDrainAndInvalidate

/-- R139, R140, R142: a drain keeps no dirty byte in the core, changes no warp and no tag, and where no other release is recorded it
makes every dirty byte of device memory that the core holds the byte at its slice, changes no byte that the core did not hold, and
leaves what other cores hold as it was. -/
def Obligations.DrainMakesDirtyBytesVisible : Prop :=
  ∀ (s : State) (c : Nat), s.memoryOk = true → FMap.risingFrom none (s.core c).l1.dirty = true →
    ((s.drain c).core c).l1.dirty = [] ∧ (s.drain c).slots = s.slots ∧ (s.drain c).tags = s.tags ∧
    (NoReleases s →
      (L2Room s c (s.core c).l1.dirty.length →
        ∀ a, isGlobalPlace a = true → (s.drain c).mem.getD a 0 = (s.core c).l1.dirty.getD a (s.mem.getD a 0)) ∧
      (∀ c', c' ≠ c → (s.drain c).core c' = s.core c'))

/-! ## Words, scratchpad lines, caches, records, quantisation, atomics -/

namespace Sys2Proof.Slice0

open Sys2Proof.Machine

/-- No core holds a dirty byte or a poisoned word of a line. -/
def NoDirty (s : State) (line : Nat) : Prop :=
  ∀ p ∈ s.cores, (∀ q ∈ p.2.l1.dirty, lineOf q.1 ≠ line) ∧ ∀ q ∈ p.2.l1.poison, lineOf q.1 ≠ line

/-- No core and no die's L2 holds a dirty byte at a place. -/
def NotHeld (s : State) (a : Nat) : Prop :=
  (∀ p ∈ s.cores, p.2.l1.dirty.has a = false) ∧ ∀ p ∈ s.dies, p.2.hdirty.has a = false

/-- LDFE, LDFF, STFE and STFF, with fn, the tag that a lane waits for, and the tag that it leaves (R296). -/
def wordTable : List ((VReg → VReg → BReg → Instr) × Fin 4 × Bool × Bool) :=
  [(.ldfe, 0, true, false), (.ldff, 1, true, true), (.stfe, 2, false, true), (.stff, 3, true, true)]

/-- The lanes of a word operation that are still to be performed (R297). -/
def todo (s : State) : Ctx := { s.ctx with active := s.cw.active &&& ~~~s.cw.ctl.done }

/-- The current instruction has issued and stays in the operand log, its warp asleep after it (R44, R297). -/
def Waits (s t : State) : Prop :=
  t.cw.st = .asleep ∧ t.cw.ctl.pc = s.cw.ctl.pc + 4 ∧ t.cw.log.length = s.cw.log.length + 1 ∧ OthersKept s t

/-- Places of different lanes lie in different words. -/
def DifferentWords (zs : List (Nat × Nat)) : Prop := (zs.map fun p => p.2 / 8).Nodup

/-- The lines that the lanes of a cache operation name, free of engines, none of them of host space. -/
def LinesNamed (s : State) (x : VReg) (b : BReg) (ls : List Nat) : Prop :=
  s.cacheLines s.ctx x.val b.val = .ok ls ∧ ∀ l ∈ ls, isHostPlace l = false

/-- Forms of VQNT and VDQ, with their fn. -/
def vqntTable : List ((VReg → VReg → BReg → La → Instr) × Fin 5) :=
  [(.vqntSb3, 0), (.vqntSb5, 1), (.vqntSb8, 2), (.vqntE4m3, 3), (.vqntE5m2, 4)]

def vdqTable : List ((VReg → VReg → BReg → La → Instr) × Fin 5) :=
  [(.vdqSb3, 0), (.vdqSb5, 1), (.vdqSb8, 2), (.vdqE4m3, 3), (.vdqE5m2, 4)]

/-- What a group or a lane of a VQNT stores: its number, its bytes, its exceptions by lane, its cr.qstat flags. -/
def quantised (s : State) (fn : Fin 5) (d : VReg) : List (Nat × List Byte × List (Nat × Exc) × BitVec 4) :=
  let x := s.ctx
  if fn.val < 3 then
    (x.groupBlocks fn.val d.val).map fun p => (p.1, p.2.bytes, p.2.exc.zipIdx.map fun e => (16 * p.1 + e.2, e.1), p.2.q)
  else
    x.lanes.map fun l =>
      let v := x.quantIn d.val l
      let y := roundTo (elemType fn.val) (wmRM x.mode) (wmSAT x.mode) v.2 v.1
      (l, bytesOf 1 y.1, [(l, y.2)], cvtFlags (elemType fn.val) (wmSAT x.mode) v.1 y.1 y.2)

/-- The addresses of a VQNT or VDQ: one for each group of 16 lanes, or one for each lane. -/
def quantAddresses (s : State) (fn : Fin 5) (x : VReg) (b : BReg) (wr : Bool) : Res (List (Nat × Option Nat)) :=
  if fn.val < 3 then s.groupAddresses s.ctx fn.val b.val x.val wr else s.addresses s.ctx b.val x.val 1 1 wr

/-- The record's ESIZE fits the form, and the addresses pass (R305, R306). -/
def QuantAddressed (s : State) (fn : Fin 5) (x : VReg) (b : BReg) (wr : Bool) (as : List (Nat × Option Nat)) : Prop :=
  (s.cw.lanes = [] ∨ recEsize (s.cw.regs.rdB b.val) = blockEsize fn.val) ∧ quantAddresses s fn x b wr = .ok as

/-- Besides, the bytes translate, a group's those of its first lane's address, and no engine owns them. -/
def QuantPlaced (s : State) (fn : Fin 5) (x : VReg) (b : BReg) (wr : Bool) (as : List (Nat × Option Nat))
    (zs : List (Nat × Located)) : Prop :=
  let r := s.cw.regs.rdB b.val
  let kind := if wr then AccessKind.write else AccessKind.read
  QuantAddressed s fn x b wr as ∧
  (if fn.val < 3 then s.locateGroups s.ctx r kind (blockBytes fn.val) (okLanes as)
    else s.locateAll s.ctx r kind 1 (okLanes as)) = .ok zs ∧
  ∀ p ∈ zs, ∀ q ∈ p.2.segs, s.owned.has (lineOf q.1) = false

/-- R308's operations: fn, accepted types, the new value from the current one m and the operand y. -/
def atomTable : List (Fin 8 × (Nat → Bool) × (Nat → Nat → Nat → Nat)) :=
  [(0, fun t => decide (t < 4), fun t m y => (m + y) % 2 ^ typeBits t),
   (1, fun t => decide (t < 4), fun t m y => if intOf t m < intOf t y then m else y),
   (2, fun t => decide (t < 4), fun t m y => if intOf t m < intOf t y then y else m),
   (3, fun t => decide (t < 6), fun _ m y => m &&& y), (4, fun t => decide (t < 6), fun _ m y => m ||| y),
   (5, fun t => decide (t < 6), fun _ m y => m ^^^ y), (6, fun t => decide (t < 6), fun _ _ y => y),
   (7, fun t => t == 4 || t == 5, fun t m y => (roundTo t 0 false 0 (addNum 0 (decodeNum t m) (decodeNum t y)).1).1)]

/-- The constructors of ATOM, ATOMA, ATOML and ARED in the order of fn. -/
def atomGroups : List (Fin 4 × List (VReg → VReg → BReg → La → Instr)) :=
  [(0, [.atomAdd, .atomMin, .atomMax, .atomAnd, .atomOr, .atomXor, .atomXchg, .atomFadd]),
   (1, [.atomaAdd, .atomaMin, .atomaMax, .atomaAnd, .atomaOr, .atomaXor, .atomaXchg, .atomaFadd]),
   (2, [.atomlAdd, .atomlMin, .atomlMax, .atomlAnd, .atomlOr, .atomlXor, .atomlXchg, .atomlFadd]),
   (3, [.aredAdd, .aredMin, .aredMax, .aredAnd, .aredOr, .aredXor, .aredXchg, .aredFadd])]

/-- Every atomic of R308 but ACAS: group, constructor, fn, types and new value. -/
def atomForms : List (Fin 4 × (VReg → VReg → BReg → La → Instr) × Fin 8 × (Nat → Bool) × (Nat → Nat → Nat → Nat)) :=
  atomGroups.flatMap fun g => (g.2.zip atomTable).map fun p => (g.1, p.1, p.2.1, p.2.2.1, p.2.2.2)

/-- Different lanes' words are the same or have no place in common. -/
def SameOrApart (zs : List (Nat × Located)) : Prop :=
  ∀ p ∈ zs, ∀ q ∈ zs, p.2.segs = q.2.segs ∨ ∀ a ∈ bytePlaces p.2, a ∉ bytePlaces q.2

/-- The n-byte value at a lane's place after the operations of some lanes in turn, from m. -/
def afterLanes (n : Nat) (f : Nat → Nat → Nat) (z : Located) (zs : List (Nat × Located)) (m : Nat) : Nat :=
  (zs.filter fun p => p.2.segs == z.segs).foldl (fun m p => f p.1 m % 2 ^ (8 * n)) m

/-- The machine as an atomic finds it when its lines are at their homes, what it acquires and releases drained or recorded (R130,
R139, R140, R310). -/
def atHomes (s : State) (zs : List (Nat × Located)) (acq rel : Bool) : State :=
  (if rel then s.farRelease s.cur.1 s.cur.2 3 else s).atomLines s.cur.1 zs acq rel

/-- No lane's word is in host space or held dirty by a core, and the issuing core has no far store under way (R148); each of a
word's bytes is its own. -/
def AtomSettled (s : State) (zs : List (Nat × Located)) : Prop :=
  (∀ p ∈ zs, ∀ q ∈ p.2.segs, isHostPlace q.1 = false ∧ NoDirty s (lineOf q.1)) ∧ (s.core s.cur.1).far = [] ∧
  SameOrApart zs ∧ ∀ p ∈ zs, (bytePlaces p.2).Nodup

end Sys2Proof.Slice0

/-- R296, R297: a full/empty operation whose lanes' tags allow it loads or stores each word and leaves the tag that its row
gives; while a lane's tag does not allow it, the warp sleeps and the instruction waits in the operand log. -/
def Sys2Proof.Slice0.WordOperationsMoveWordsAndTags : Prop :=
  ∀ (s : State) (d x : VReg) (b : BReg), ∀ p ∈ wordTable, ∀ as zs, s.memoryOk = true →
    DataReady s.cw d x 8 → LogRoom s (.word p.2.1 d x b) →
    s.wordLanes (todo s) x.val b.val (decide (2 ≤ p.2.1.val)) = .ok (as, zs) →
    (p.2.1.val < 2 → ∀ z ∈ zs, s.poisoned z.2 8 = false) →
    (∀ z ∈ zs, z.2 % 8 = 0 ∧ s.owned.has (lineOf z.2) = false ∧ NoDirty s (lineOf z.2)) →
    ((∀ z ∈ zs, s.tag z.2 = p.2.2.1) → (p.2.1 = 1 ∨ p.2.1 = 3 ∨ DifferentWords zs) →
      ∃ t, exec (p.1 d x b) s = .next t ∧ OthersKept s t ∧
        (∀ z ∈ zs, t.tag z.2 = p.2.2.2) ∧
        (∀ a, (∀ z ∈ zs, z.2 / 8 ≠ a / 8) → t.tag a = s.tag a) ∧
        (p.2.1.val < 2 → t.cw = (zs.foldl (fun (w : Warp) z => w.set d.val z.1 3 (s.readNat z.2 8))
          (as.foldl (fun (w : Warp) q => if q.2.isNone then w.set d.val q.1 3 0 else w) s.cw)).advance.issued) ∧
        (2 ≤ p.2.1.val → t.cw = s.cw.advance.issued ∧
          (DifferentWords zs → ∀ z ∈ zs, t.readNat z.2 8 = s.cw.regs.get d.val z.1 3)) ∧
        (∀ a, NotHeld s a → (∀ z ∈ zs, a < z.2 ∨ z.2 + 8 ≤ a) → t.mem.getD a 0 = s.mem.getD a 0)) ∧
    ((∃ z ∈ zs, s.tag z.2 ≠ p.2.2.1) ∨ ((p.2.1 = 0 ∨ p.2.1 = 2) ∧ ¬ DifferentWords zs) →
      ∃ t, exec (p.1 d x b) s = .next t ∧ Waits s t)

/-- R296, R300: TAGRD and LNRD read tags and line bits into the lanes; TAGWR and LNWR write them from bit 0 of the lanes, the
highest lane of a word or line last. -/
def Sys2Proof.Slice0.TagAndLineBitsReadAndWrite : Prop :=
  ∀ (s : State) (d x : VReg) (b : BReg) (la : La), DataReady s.cw d x 4 → AtOnce s la.val →
    (∀ as zs, LogRoom s (.tagrd d x b) → s.wordLanes s.ctx x.val b.val false = .ok (as, zs) →
      (∀ z ∈ zs, s.owned.has (lineOf z.2) = false) →
      ∃ t, exec (.tagrd d x b la) s = .next t ∧ OthersKept s t ∧ t.tags = s.tags ∧
        t.cw = (as.foldl (fun (w : Warp) q => w.wrV d.val q.1
          (if (zs.find? fun z => z.1 == q.1).any (fun z => s.tag z.2) then 1 else 0)) s.cw).advance.issued) ∧
    (∀ as zs, LogRoom s (.tagwr d x b) → s.wordLanes s.ctx x.val b.val true = .ok (as, zs) →
      s.memoryOk = true → (∀ z ∈ zs, s.owned.has (lineOf z.2) = false) →
      ∃ t, exec (.tagwr d x b la) s = .next t ∧ OthersKept s t ∧ t.cw = s.cw.advance.issued ∧
        (∀ pre z post, zs = pre ++ z :: post → (∀ y ∈ post, y.2 / 8 ≠ z.2 / 8) →
          t.tag z.2 = (s.cw.rdV d.val z.1).getLsbD 0) ∧
        (∀ a, (∀ z ∈ zs, z.2 / 8 ≠ a / 8) → t.tag a = s.tag a)) ∧
    (∀ as zs, LogRoom s (.lnrd d x b) → s.lineLanes s.ctx x.val b.val false = .ok (as, zs) →
      ∃ t, exec (.lnrd d x b la) s = .next t ∧ OthersKept s t ∧ MemoryKept s t ∧
        t.cw = (as.foldl (fun (w : Warp) q => w.wrV d.val q.1
          (if (zs.find? fun z => z.1 == q.1).any (fun z => s.lineFull.getD (lineOf z.2.2) false) then 1 else 0))
          s.cw).advance.issued) ∧
    (∀ as zs, LogRoom s (.lnwr d x b) → s.lineLanes s.ctx x.val b.val true = .ok (as, zs) → s.memoryOk = true →
      ∃ t, exec (.lnwr d x b la) s = .next t ∧ OthersKept s t ∧ t.mem = s.mem ∧ t.tags = s.tags ∧
        t.cw = s.cw.advance.issued ∧
        (∀ pre z post, zs = pre ++ z :: post → (∀ y ∈ post, lineOf y.2.2 ≠ lineOf z.2.2) →
          t.lineFull.getD (lineOf z.2.2) false = (s.cw.rdV d.val z.1).getLsbD 0) ∧
        (∀ a, (∀ z ∈ zs, lineOf z.2.2 ≠ a) → t.lineFull.getD a false = s.lineFull.getD a false))

/-- R299, R116: LDC of a full line reads it and leaves it empty; STP of an empty line writes it and leaves it full; while the
bit does not allow it, the warp sleeps and the instruction waits in the operand log. With no line named, LDC writes zeros and STP
nothing. -/
def Sys2Proof.Slice0.LineOperationsConsumeAndProduce : Prop :=
  ∀ (s : State) (d x : VReg) (b : BReg) (as : List (Nat × Option Nat)) (zs : List (Nat × Nat × Nat)),
    s.memoryOk = true → DataReady s.cw d x 4 →
    (s.lineLanes s.ctx x.val b.val false = .ok (as, zs) → LogRoom s (.line 0 d x b) →
      (zs = [] → ∃ t, exec (.ldc d x b) s = .next t ∧ OthersKept s t ∧ MemoryKept s t ∧
        t.cw = (as.foldl (fun (w : Warp) q => w.wrV d.val q.1 0) s.cw).advance.issued) ∧
      ∀ ln, oneLine zs = .ok (some ln) →
      (s.lineFull.getD ln false = true → s.owned.has ln = false → (∀ z ∈ zs, s.poisoned z.2.2 4 = false) →
        (s.core s.cur.1).far = [] →
        ∃ t, exec (.ldc d x b) s = .next t ∧ OthersKept s t ∧ t.mem = s.mem ∧ t.lineFull.getD ln false = false ∧
          (∀ a, a ≠ ln → t.lineFull.getD a false = s.lineFull.getD a false) ∧
          t.cw = (as.foldl (fun (w : Warp) q => w.wrV d.val q.1 (match zs.find? fun z => z.1 == q.1 with
            | some z => BitVec.ofNat 32 (s.readNat z.2.2 4)
            | none => 0)) s.cw).advance.issued) ∧
      (s.lineFull.getD ln false = false ∨ s.owned.has ln = true →
        ∃ t, exec (.ldc d x b) s = .next t ∧ Waits s t ∧ MemoryKept s t)) ∧
    (s.lineLanes s.ctx x.val b.val true = .ok (as, zs) → LogRoom s (.line 1 d x b) → s.cw.log = [] →
      (zs = [] → ∃ t, exec (.stp d x b) s = .next t ∧ OthersKept s t ∧ MemoryKept s t ∧ t.cw = s.cw.advance.issued) ∧
      ∀ ln, oneLine zs = .ok (some ln) →
      (s.lineFull.getD ln false = false → s.owned.has ln = false →
        ∃ t, exec (.stp d x b) s = .next t ∧ OthersKept s t ∧ t.cw = s.cw.advance.issued ∧
          t.lineFull.getD ln false = true ∧ (∀ a, a ≠ ln → t.lineFull.getD a false = s.lineFull.getD a false) ∧
          (∀ pre z post, zs = pre ++ z :: post → (∀ y ∈ post, y.2.2 + 4 ≤ z.2.2 ∨ z.2.2 + 4 ≤ y.2.2) →
            t.readNat z.2.2 4 = (s.cw.rdV d.val z.1).toNat)) ∧
      (s.lineFull.getD ln false = true ∨ s.owned.has ln = true →
        ∃ t, exec (.stp d x b) s = .next t ∧ Waits s t ∧ MemoryKept s t))

/-- R116, R117, R296 to R300: full and empty words, their tags, and the lines of the scratchpad. -/
def Obligations.WordsTagsAndLines : Prop :=
  WordOperationsMoveWordsAndTags ∧ TagAndLineBitsReadAndWrite ∧ LineOperationsConsumeAndProduce

/-- R301 to R304: PREF drops the lanes that fail a check and, where the caches are calm and have room for the lines that its lanes name,
changes no byte; CWB leaves no dirty byte of the named lines in the core; CINV leaves no copy of them there; IINV takes them out of the
instruction and constant caches of the job's cores; FBAR empties the warp's fetch buffer. None of them changes a register. -/
def Obligations.CacheOperationsCleanAndDrop : Prop :=
  ∀ (s : State) (x : VReg) (b : BReg) (la : La), x.val < s.cw.vregs →
    (LogRoom s (.cache 0 x b) →
      ∃ t, exec (.pref x b la) s = .next t ∧ t.cw = s.cw.advance.issued ∧ OthersKept s t ∧ t.tags = s.tags ∧
        (∀ lines, (∀ l ∈ s.cw.lanes, ∀ a place tg bk,
            s.laneAddr s.ctx (s.cw.regs.rdB b.val) (s.cw.rdV x.val l).toNat 1 1 false = .ok a →
            s.translate s.cur.1 s.cw.id.part (recSpace (s.cw.regs.rdB b.val) == SP_HOST) .read a = .ok place tg bk →
            lineOf place ∈ lines) →
          Calm s lines → MemoryKept s t)) ∧
    (∀ ls, LinesNamed s x b ls → AtOnce s la.val →
      (LogRoom s (.cache 1 x b) →
        ∃ t, exec (.cwb x b la) s = .next t ∧ t.cw = s.cw.advance.issued ∧ OthersKept s t ∧ t.tags = s.tags ∧
          (∀ l ∈ ls, ∀ q ∈ (t.core s.cur.1).l1.dirty, lineOf q.1 ≠ l)) ∧
      (LogRoom s (.cache 2 x b) →
        ∃ t, exec (.cinv x b la) s = .next t ∧ t.cw = s.cw.advance.issued ∧ OthersKept s t ∧ t.tags = s.tags ∧
          (∀ l ∈ ls, ∀ q ∈ (t.core s.cur.1).l1.dirty, lineOf q.1 ≠ l) ∧
          ((s.core s.cur.1).l1.clean.keys.Nodup → ∀ l ∈ ls, (t.core s.cur.1).l1.clean.has l = false)) ∧
      (LogRoom s (.cache 3 x b) → s.cw.logsCache 1 = false →
        ∃ t, exec (.iinv x b la) s = .next t ∧ t.cw.ctl.pc = s.cw.ctl.pc + 4 ∧ t.cw.regs = s.cw.regs ∧ MemoryKept s t ∧
          (∀ c, (s.core c).occ = some s.cw.id.job → ∀ l ∈ ls,
            (t.core c).l1.icache.has l = false ∧ (t.core c).l1.const.has l = false))) ∧
    (s.cw.logsCache 3 = false → Becomes s .fbar { s.cw.advance with fbuf := [], stale := 0 })

/-- R293 to R295: LDB loads the record of a live handle; MKB makes a record within another; BRD reads a record's words. A handle
outside the table raises the access trap with SUB 3. -/
def Obligations.RecordInstructionsMoveRecords : Prop :=
  ∀ (s : State) (d b : BReg) (x : SReg) (la : La), AtOnce s la.val →
    let w := s.cw
    let jr := (s.job w.id.job).r
    let h := (w.rdS x.val).toNat
    (∀ place tg, h < 2 ^ 32 → h % 2 ^ 24 < jr.hcount → LogRoom s (.ldb d x) →
      s.global s.cur.1 w.id.part .read (jr.hbase + 32 * (h % 2 ^ 24)) = .ok (place, tg) → s.owned.has (lineOf place) = false →
      (s.acquireLine s.cur.1 (lineOf place) 3).poisoned place 32 = false →
      let r : BufRec := BitVec.ofNat 256 (natOf ((s.acquireLine s.cur.1 (lineOf place) 3).sliceRead place 32))
      recHandle r = h → recSpace r ≠ 0 → recValid jr w.id.pair r = true →
      ∃ t, exec (.ldb d x la) s = .next t ∧ OthersKept s t ∧ t.tags = s.tags ∧
        t.cw = ({ w with regs := w.regs.wrB d.val r }).advance.issued) ∧
    (LogRoom s (.ldb d x) → (2 ^ 32 ≤ h ∨ jr.hcount ≤ h % 2 ^ 24) → ∃ t : TrapInfo, t.cause = ACCESS ∧ t.sub = 3 ∧
      exec (.ldb d x la) s = .next (s.trapNow t true (w.ctl.pc + 4))) ∧
    (x.val % 4 = 0 → LogRoom s (.mkb d x b) →
      let o := w.regs.rdB b.val
      let off := (w.rdS x.val).toNat
      let ext := (w.rdS (x.val + 1)).toNat
      let lay := (w.rdS (x.val + 2)).toNat
      let n := mkRecord (recBase o + off) ext (lay % 2 ^ 32) (lay / 2 ^ 32) (recHandle o)
      let n := if recRdonly o then n ||| BitVec.ofNat 256 (2 ^ 177) else n
      recSpace o ≠ 0 → w.rdS (x.val + 3) = 0 → off + ext ≤ recExtent o →
      recSpace (mkRecord (recBase o + off) ext (lay % 2 ^ 32) (lay / 2 ^ 32) (recHandle o)) = recSpace o →
      recValid jr w.id.pair n = true →
      ∃ t, exec (.mkb d x b la) s = .next t ∧ OthersKept s t ∧ MemoryKept s t ∧
        t.cw = ({ w with regs := w.regs.wrB d.val n }).advance.issued) ∧
    (x.val % 4 = 0 → LogRoom s (.brd x b) →
      ∃ t, exec (.brd x b la) s = .next t ∧ OthersKept s t ∧ MemoryKept s t ∧
        t.cw = ((List.range 4).foldl (fun (w : Warp) i =>
          w.wrS (x.val + i) (BitVec.ofNat 64 ((s.cw.regs.rdB b.val).toNat / 2 ^ (64 * i) % 2 ^ 64))) w).advance.issued)

/-- R305, R306, R195, R197: VQNT stores each group's block or each lane's element and sets its flags, the generators advanced
under RSR; where a lane has an enabled exception it traps, stores nothing and writes no flag. VDQ reads the blocks and elements back as
F32. The bytes are stated where the caches are calm, as those of a load and a store. -/
def Obligations.QuantisationStoresAndLoads : Prop :=
  (∀ (s : State) (d x : VReg) (b : BReg) (la : La), ∀ p ∈ vqntTable, ∀ as zs, s.memoryOk = true →
    DataReady s.cw d x 4 → AtOnce s la.val → LogRoom s (.vqnt p.2 d x b) → QuantPlaced s p.2 x b true as zs →
    (∀ q ∈ quantised s p.2 d, ∀ e ∈ q.2.2.1, e.2 &&& wmIEN s.cw.ctl.wmode = 0) →
    ∃ t, exec (p.1 d x b la) s = .next t ∧ OthersKept s t ∧ t.tags = s.tags ∧
      (let w : Warp := { s.cw with stat := { s.cw.stat with
          fstat := s.cw.stat.fstat ||| orExc ((quantised s p.2 d).flatMap fun q => q.2.2.1) } }
       t.cw = ((w.qflag ((quantised s p.2 d).foldl (fun (q : BitVec 4) y => q ||| y.2.2.2) 0)).quantDraw
          s.cw.active).advance.issued) ∧
      (Calm s (linesOf zs) → StoreDone s t zs fun g i =>
        (((quantised s p.2 d).find? fun q => q.1 == g).map fun q => q.2.1.getD i 0).getD 0)) ∧
  (∀ (s : State) (d x : VReg) (b : BReg) (la : La), ∀ p ∈ vqntTable, ∀ as,
    DataReady s.cw d x 4 → LogRoom s (.vqnt p.2 d x b) → QuantAddressed s p.2 x b true as →
    ArithmeticTrap s (p.1 d x b la) ((quantised s p.2 d).flatMap fun q => q.2.2.1)) ∧
  (∀ (s : State) (d x : VReg) (b : BReg) (la : La), ∀ p ∈ vdqTable, ∀ as zs,
    DataReady s.cw d x 4 → AtOnce s la.val → LogRoom s (.vdq p.2 d x b) → ConstFresh s → QuantPlaced s p.2 x b false as zs →
    Clean s zs →
    ∃ t val, exec (p.1 d x b la) s = .next t ∧ OthersKept s t ∧ t.tags = s.tags ∧ t.lineFull = s.lineFull ∧
      t.cw = (s.cw.lanes.foldl (fun (w : Warp) l => w.wrV d.val l (BitVec.ofNat 32
        (if p.2.val < 3 then blockElem p.2.val (bytesOf (blockBytes p.2.val) (val (l / 16))) (l % 16)
        else (roundTo 4 0 false 0 (decodeNum (elemType p.2.val) (val l))).1))) s.cw).advance.issued ∧
      (∀ q ∈ as, q.2 = none → val q.1 = 0) ∧
      (Calm s (linesOf zs) → MemoryKept s t ∧ val = loaded s s.cur.1 zs))

/-- R308 to R310: an atomic's lanes are performed in ascending order, so that the operations of lanes on one word accumulate,
while each lane returns the word as it stood before the instruction; a clamped lane returns zero, and ARED writes no register.
The values are stated for words of device memory and scratchpads that no core holds dirty: those that one does are drained
first (R140). -/
def Sys2Proof.Slice0.AtomicsAccumulate : Prop :=
  ∀ (s : State) (d x : VReg) (b : BReg) (la : La), ∀ p ∈ atomForms, ∀ as zs,
    let ty := wmET s.cw.ctl.wmode
    let n := typeBits ty / 8
    let f := fun (l m : Nat) => p.2.2.2.2 ty m (s.cw.regs.get d.val l ty)
    s.memoryOk = true → d.val < s.cw.vregs → x.val < s.cw.vregs → p.2.2.2.1 ty = true → (typeBits ty = 64 → d.val % 2 = 0) →
    (p.1 = 1 ∨ p.1 = 2 → s.cw.log = []) → AtOnce s la.val → LogRoom s (.atom p.1 p.2.2.1 d x b) →
    (s.cw.lanes = [] → ∃ t, exec (p.2.1 d x b la) s = .next t ∧ t.cw = s.cw.advance.issued ∧ OthersKept s t ∧
      (p.1 = 1 → (t.core s.cur.1).l1.clean = []) ∧ (p.1 = 2 → (t.core s.cur.1).l1.dirty = [])) ∧
    (s.cw.lanes ≠ [] → s.addresses s.ctx b.val x.val n n true = .ok as →
    s.locateAll s.ctx (s.cw.regs.rdB b.val) .atomic n (okLanes as) = .ok zs →
    (∀ q ∈ zs, ∀ g ∈ q.2.segs, s.owned.has (lineOf g.1) = false) → Clean (atHomes s zs (p.1 == 1) (p.1 == 2)) zs →
    ∃ t, ∃ val : Nat → Nat, exec (p.2.1 d x b la) s = .next t ∧ OthersKept s t ∧ t.tags = s.tags ∧ t.lineFull = s.lineFull ∧
      t.cw = (if p.1 = 3 then s.cw else
        as.foldl (fun (w : Warp) q => w.set d.val q.1 ty (val q.1)) s.cw).advance.issued ∧
      (∀ q ∈ as, q.2 = none → val q.1 = 0) ∧
      (AtomSettled s zs →
        (∀ z ∈ zs, natOf (z.2.segs.flatMap fun g => t.read g.1 g.2) =
          afterLanes n f z.2 zs (natOf (z.2.segs.flatMap fun g => s.read g.1 g.2))) ∧
        ∀ z ∈ zs, val z.1 = natOf (z.2.segs.flatMap fun g => s.read g.1 g.2)))

/-- R309: ACAS swaps where the word equals its comparison when its lane's turn comes, returns the word as it stood before the
instruction, and its flag tells the success; with lanes on different words each decides by itself. -/
def Sys2Proof.Slice0.CompareAndSwapDecidesPerWord : Prop :=
  ∀ (s : State) (d x : VReg) (b : BReg) (la : La), ∀ as zs,
    let ty := wmET s.cw.ctl.wmode
    let n := typeBits ty / 8
    let k := typeBits ty / 32
    let was := fun (z : Located) => natOf (z.segs.flatMap fun g => s.read g.1 g.2)
    s.memoryOk = true → ty < 6 → d.val + 2 * k ≤ s.cw.vregs → x.val < s.cw.vregs → d.val % (2 * k) = 0 →
    s.cw.log = [] → AtOnce s la.val → LogRoom s (.acas d x b) →
    (s.cw.lanes = [] → ∃ t, exec (.acas d x b la) s = .next t ∧ t.cw = s.cw.advance.issued ∧ OthersKept s t ∧
      (t.core s.cur.1).l1.clean = [] ∧ (t.core s.cur.1).l1.dirty = []) ∧
    (s.cw.lanes ≠ [] → s.addresses s.ctx b.val x.val n n true = .ok as →
    s.locateAll s.ctx (s.cw.regs.rdB b.val) .atomic n (okLanes as) = .ok zs →
    (∀ q ∈ zs, ∀ g ∈ q.2.segs, s.owned.has (lineOf g.1) = false) → Clean (atHomes s zs true true) zs →
    ∃ t, ∃ val : Nat → Nat, ∃ ok : Nat → Bool, exec (.acas d x b la) s = .next t ∧ OthersKept s t ∧ t.tags = s.tags ∧ t.lineFull = s.lineFull ∧
      t.cw = (as.foldl (fun (w : Warp) q =>
        (w.set d.val q.1 ty (val q.1)).set (d.val + k) q.1 ty (if ok q.1 then 1 else 0)) s.cw).advance.issued ∧
      (∀ q ∈ as, q.2 = none → val q.1 = 0 ∧ ok q.1 = false) ∧
      (AtomSettled s zs → (∀ p ∈ zs, ∀ q ∈ zs, p.2.segs = q.2.segs → p = q) →
        ∀ z ∈ zs, val z.1 = was z.2 ∧ ok z.1 = decide (was z.2 = s.cw.regs.get d.val z.1 ty) ∧
          natOf (z.2.segs.flatMap fun g => t.read g.1 g.2) =
            if was z.2 = s.cw.regs.get d.val z.1 ty then s.cw.regs.get (d.val + k) z.1 ty else was z.2))

/-- R308 to R310: atomics in their groups, and ACAS. -/
def Obligations.AtomicsAndCompareAndSwap : Prop :=
  AtomicsAccumulate ∧ CompareAndSwapDecidesPerWord

/-! ## Barriers, cells, watches -/

namespace Sys2Proof.Slice0

open Sys2Proof.Machine

/-- The warp may arrive at the barrier that a selector names: the barrier exists, the warp is a member and no task, and its
earlier long-latency instructions are complete (R136, R156, R157, R160, R247). -/
def MayArrive (s : State) (l : Fin 8) (k : Fin 128) (b : BarRef) : Prop :=
  selector l k = true ∧ s.barChecks s.cw s.cur.1 l.val k.val 3 = .ok b ∧ s.member s.cw b = true ∧ s.cw.log = []

/-- One more arrival does not complete the open phase (R159). -/
def StaysOpen (x : Barrier) : Prop := x.arr + 1 < x.exp ∨ x.barr < x.bexp

/-- In the barrier's scope no arrival is held and no team has still to join (R160, R161). -/
def NoneHeld (s : State) (b : BarRef) : Prop :=
  ∀ key, inScope key (s.slots.getD key {}) b = true →
    (s.slots.getD key {}).notJoined b = false ∧ ∀ ws ph, (s.slots.getD key {}).wait ≠ .barrier b true ws ph

/-- The open phase completes: PH is inverted, ARR returns to zero, BARR loses BEXP (R159). -/
def PhaseDone (x y : Barrier) : Prop :=
  y.ph = (!x.ph) ∧ y.arr = 0 ∧ y.barr = x.barr - x.bexp ∧ y.bexp = 0 ∧ y.exp = x.exp

/-- A counted arrival: ARR one more, the warp's bit set, the rest of the barrier as it was. -/
def Counted (s t : State) (b : BarRef) : Prop :=
  (t.bar b).arr = (s.bar b).arr + 1 ∧ (t.bar b).exp = (s.bar b).exp ∧ (t.bar b).memb = (s.bar b).memb ∧
  (t.bar b).barr = (s.bar b).barr ∧ (t.bar b).bexp = (s.bar b).bexp ∧ (t.bar b).ph = (s.bar b).ph ∧ t.arrived t.cw b = true

/-- A barrier cell that a BARM names: its address, place and line are in order and nothing of the warp is under way
(R164, R315). -/
def CellAt (s : State) (a : SReg) (place : Nat) : Prop :=
  let va := (s.cw.rdS a.val).toNat
  va < 2 ^ 57 ∧ va % 16 = 0 ∧ (∃ tg, s.global s.cur.1 s.cw.id.part .write va = .ok (place, tg)) ∧
  s.owned.has (lineOf place) = false ∧ s.cw.log = [] ∧ s.memoryOk = true ∧ ∀ fn, LogRoom s (.barm fn a)

/-- The warp may wait at the barrier that a selector names (R136, R156, R160, R247). -/
def MayWait (s : State) (l : Fin 8) (k : Fin 128) (b : BarRef) : Prop :=
  selector l k = true ∧ s.barChecks s.cw s.cur.1 l.val k.val 3 = .ok b ∧ s.cw.log = []

/-- The machine with a cell's line at its slice: the core's bytes of it written back and its copy dropped (R165). -/
def atCell (s : State) (place : Nat) : State := s.toSlice s.cur.1 place

/-- The machine after a release of the current warp at PACKAGE scope (R149). -/
def released (s : State) : State := s.fenceRelease s.cw s.cur.1 s.cur.2 3

/-- The current warp goes on at the next word with the rest of it as given. -/
def GoesOn (t : State) (w : Warp) : Prop := t.cw = w.issued

/-- Each form of MON with its scope. -/
noncomputable def monTable : List ((VReg → BReg → La → Instr) × Fin 6) :=
  [(.monTeam, 0), (.monCluster, 1), (.monDie, 2), (.monPackage, 3), (.monGroup, 4), (.monSystem, 5)]

/-- Lanes with their addresses and what says which line each names: the address itself in global and host space, the place in a
scratchpad (R288, R317). -/
def monPlaces (s : State) (b : BReg) (as : List (Nat × Option Nat)) : List (Nat × Nat × Nat) :=
  let r := s.cw.regs.rdB b.val
  (okLanes as).map fun p =>
    (p.1, p.2, if cachedSpace r then p.2 else s.scratchPlace s.ctx (recSpace r) p.1 (swizzle r p.2))

/-- The line of the first of some lanes' places. -/
def firstLine (zs : List (Nat × Located)) : Nat := lineOf (((zs.headD (0, {})).2.segs.headD (0, 0)).1)

/-- MWAIT's reason for a warp (R318), none while it sleeps. -/
def mwaitReason (w : Warp) (deadline : W64) (tick : Nat) : Option Nat :=
  match w.watch.map Watch.st with
  | none => some 3
  | some .fired => some 0
  | some .lost => some 1
  | some .armed => if deadline ≠ 0 ∧ deadline.toNat ≤ tick then some 2 else none

/-- No command of a warp is marked missed, and none has come to its promise (R121). -/
def NoneMissed (s : State) (c k : Nat) (gen : BitVec 21) : Prop :=
  ∀ p ∈ (s.core c).cmds, p.2.slot = k → p.2.sgen = gen → p.2.missed = none ∧ s.tick < p.2.promise

end Sys2Proof.Slice0

/-- R158 to R160, R311, R312: an arrival that leaves the phase open counts once, with the warp's bit; BAR then sleeps for the
phase, BARA goes on. One that completes the phase inverts PH and starts the next one, and both go on, BAR with the acquire of the
barrier's scope. An arrival of a warp that has arrived already is held, and the warp sleeps. BARW sleeps for the phase of the
warp's arrival, or goes on when it has none, with the acquire of the barrier's scope. Tasks trap, and so do arrivals of
non-members. -/
def Sys2Proof.Slice0.BarrierArrivalsCount : Prop :=
  ∀ (s : State) (l : Fin 8) (k : Fin 128) (b : BarRef), let w := s.cw
    (MayArrive s l k b → s.arrived w b = false → w.notJoined b = false → StaysOpen (s.bar b) →
      (∃ t, exec (.bara l k) s = .next t ∧ Counted s t b ∧ t.cw.st = w.st ∧ t.cw.ctl.pc = w.ctl.pc + 4 ∧
        t.cw.regs = w.regs) ∧
      (∃ t, exec (.bar l k) s = .next t ∧ Counted s t b ∧ t.cw.st = .asleep ∧
        t.cw.wait = .barrier b false true (s.bar b).ph ∧ t.cw.ctl.pc = w.ctl.pc + 4 ∧ t.cw.regs = w.regs)) ∧
    (MayArrive s l k b → s.arrived w b = false → w.notJoined b = false → ¬ StaysOpen (s.bar b) → NoneHeld s b →
      w.st = .active → s.cur.2 < 128 →
      (∃ t, exec (.bara l k) s = .next t ∧ PhaseDone (s.bar b) (t.bar b) ∧ t.arrived t.cw b = false ∧ t.cw.st = .active ∧
        t.cw.ctl.pc = w.ctl.pc + 4 ∧ t.cw.regs = w.regs) ∧
      (∃ t, exec (.bar l k) s = .next t ∧ PhaseDone (s.bar b) (t.bar b) ∧ t.arrived t.cw b = false ∧ t.cw.st = .active ∧
        t.cw.wait = .none ∧ t.cw.ctl.pc = w.ctl.pc + 4 ∧ t.cw.regs = w.regs ∧
        (w.wide (barScope b) = true → (t.core s.cur.1).l1.clean = []))) ∧
    (MayArrive s l k b → s.arrived w b = true →
      (∃ t, exec (.bara l k) s = .next t ∧ t.bar b = s.bar b ∧ t.cw.st = .asleep ∧
        t.cw.wait = .barrier b true false (s.bar b).ph ∧ t.cw.ctl.pc = w.ctl.pc + 4) ∧
      (∃ t, exec (.bar l k) s = .next t ∧ t.bar b = s.bar b ∧ t.cw.st = .asleep ∧
        t.cw.wait = .barrier b true true (s.bar b).ph ∧ t.cw.ctl.pc = w.ctl.pc + 4)) ∧
    (MayWait s l k b → s.arrived w b = true →
      Becomes s (.barw l k) (w.advance.slept (.barrier b false true (s.bar b).ph))) ∧
    (MayWait s l k b → s.arrived w b = false →
      ∃ t, exec (.barw l k) s = .next t ∧ GoesOn t w.advance ∧ OthersKept s t ∧ MemoryKept s t ∧
        (w.wide (barScope b) = true → (t.core s.cur.1).l1.clean = [])) ∧
    (1 ≤ l.val → l.val ≤ 3 → w.id.task = true →
      Raises s (.bar l k) true MEMBERSHIP_DIVERGENCE 0 ∧ Raises s (.bara l k) true MEMBERSHIP_DIVERGENCE 0 ∧
      Raises s (.barw l k) true MEMBERSHIP_DIVERGENCE 0) ∧
    (s.barChecks w s.cur.1 l.val k.val 3 = .ok b → s.member w b = false →
      Raises s (.bar l k) true MEMBERSHIP_DIVERGENCE 0 ∧ Raises s (.bara l k) true MEMBERSHIP_DIVERGENCE 0)

/-- R159, R160: when a phase completes, PH is inverted, ARR returns to zero and BARR loses BEXP, and every warp that sleeps
for that phase wakes; where no arrival is held and no team joins late. -/
def Obligations.PhaseCompletionWakesItsSleepers : Prop :=
  ∀ (s : State) (b : BarRef), (s.barOpt b).isSome = true → NoneHeld s b →
    let t := s.completePhase b
    PhaseDone (s.bar b) (t.bar b) ∧
    (∀ key w, s.slots.look key = some w → inScope key w b = true → w.st = .asleep →
      (∃ ws ph, w.wait = .barrier b false ws ph) →
      (t.slots.getD key {}).st = .active ∧ (t.slots.getD key {}).wait = .none ∧
      (t.slots.getD key {}).ctl = w.ctl ∧ (t.slots.getD key {}).regs = w.regs)

/-- R159, R162, R166, R167, R313, R314, R316: BARX adds to BEXP; BARINIT sets EXP and clears the byte counts, and completes the phase
where EXP does not exceed ARR; BARALLOC takes the
lowest free team barrier, or answers all ones; BARFREE returns an idle one; WSYNC goes on when the lanes agree on a mask whose
live lanes are all active. -/
def Sys2Proof.Slice0.BarrierSetupInstructions : Prop :=
  ∀ (s : State) (d a : SReg) (v : VReg) (l : Fin 8) (k : Fin 128), let w := s.cw
    (∀ b, s.barChecks w s.cur.1 l.val k.val 2 = .ok b →
      ((w.rdS a.val).toNat < 2 ^ 32 → (s.bar b).bexp + (w.rdS a.val).toNat < 2 ^ 32 →
        ∃ t, exec (.barx a l k) s = .next t ∧ t.bar b = { s.bar b with bexp := (s.bar b).bexp + (w.rdS a.val).toNat } ∧
          GoesOn t w.advance) ∧
      ((w.rdS a.val).toNat ≤ (if l.val = 1 then 128 else 256) → (s.bar b).arr < (w.rdS a.val).toNat →
        ∃ t, exec (.barinit a l k) s = .next t ∧
          t.bar b = { s.bar b with exp := (w.rdS a.val).toNat, barr := 0, bexp := 0 } ∧ GoesOn t w.advance) ∧
      ((w.rdS a.val).toNat ≤ (if l.val = 1 then 128 else 256) → (w.rdS a.val).toNat ≤ (s.bar b).arr → NoneHeld s b →
        w.st = .active →
        ∃ t, exec (.barinit a l k) s = .next t ∧
          PhaseDone { s.bar b with exp := (w.rdS a.val).toNat, barr := 0, bexp := 0 } (t.bar b) ∧
          t.cw.st = .active ∧ t.cw.ctl.pc = w.ctl.pc + 4 ∧ t.cw.regs = w.regs)) ∧
    (w.id.task = false → (w.id.pair = true → a.val % 2 = 0) →
      let m := BitVec.ofNat 128
        ((w.rdS a.val).toNat + if w.id.pair then 2 ^ 64 * (w.rdS (a.val + 1)).toNat else 0)
      m.toNat < 2 ^ (w.id.twn + 1) →
      (∀ n, s.freeBar w s.cur.1 = some n →
        ∃ t, exec (.baralloc d a) s = .next t ∧
          t.barOpt (.team (teamCore w s.cur.1) (128 * w.id.teamIdx + n)) =
            some { memb := m, exp := popBits 128 m.toNat } ∧
          GoesOn t (w.wrS d.val (BitVec.ofNat 64 n)).advance) ∧
      (s.freeBar w s.cur.1 = none → Becomes s (.baralloc d a) (w.wrS d.val (BitVec.ofNat 64 (2 ^ 64 - 1))).advance)) ∧
    (w.id.task = false → (s.job w.id.job).r.ntb ≤ k.val →
      let b := BarRef.team (teamCore w s.cur.1) (128 * w.id.teamIdx + k.val)
      (s.barOpt b).isSome = true →
      ((s.bar b).arr = 0 → s.barSleepers b = false → (s.core (teamCore w s.cur.1)).bars.keys.Nodup →
        ∃ t, exec (.barfree d k) s = .next t ∧ t.barOpt b = none ∧ GoesOn t (w.wrS d.val 0).advance) ∧
      ((s.bar b).arr ≠ 0 ∨ s.barSleepers b = true → Becomes s (.barfree d k) (w.wrS d.val 1).advance)) ∧
    (v.val < w.vregs → (w.id.width = 64 → v.val + 1 < w.vregs ∧ v.val % 2 = 0) → w.log = [] →
      ∀ m, (∀ x ∈ w.lanes, w.syncMask v.val x = m) → m &&& w.ctl.live &&& ~~~w.active = 0 →
      Becomes s (.wsync v) w.advance)

/-- R164, R165, R315: BARM.ARRIVE counts an arrival at a cell, completes its phase when it is due, and remembers PH;
BARM.AW then sleeps until PH changes; BARM.WAIT sleeps for the remembered phase; BARM.BYTES adds to BEXP; BARM.INIT sets EXP. -/
def Sys2Proof.Slice0.BarrierCellsCount : Prop :=
  ∀ (s : State) (a : SReg) (place : Nat), CellAt s a place →
    let w := s.cw
    let va := (w.rdS a.val).toNat
    let v := (w.rdS (a.val + 1)).toNat
    let u := atCell (released s) place
    let x := u.readCell place
    let y := ({ x with arr := (x.arr + 1) % 2 ^ 32 } : Cell).test
    let z := (atCell s place).readCell place
    (u.poisoned place 16 = false →
     (∃ t, exec (.barmArrive a) s = .next t ∧ t.readCell place = y ∧ t.cw.cells.look va = some x.ph ∧
      t.cw = { w.advance.issued with cells := t.cw.cells }) ∧
     (∃ t, exec (.barmAw a) s = .next t ∧ t.readCell place = y ∧ t.cw.ctl.pc = w.ctl.pc + 4 ∧
      (y.ph = x.ph → t.cw.st = .asleep ∧ t.cw.wait = .cell va x.ph) ∧
      (y.ph ≠ x.ph → t.cw.st = w.st ∧ (t.core s.cur.1).l1.clean = []))) ∧
    (w.cells.look va = none → Becomes s (.barmWait a) w.advance) ∧
    (∀ ph, w.cells.look va = some ph → s.poisoned place 16 = false →
      ((s.readCell place).ph = ph → Becomes s (.barmWait a) (w.advance.slept (.cell va ph))) ∧
      ((s.readCell place).ph ≠ ph → ∃ t, exec (.barmWait a) s = .next t ∧
        GoesOn t { w.advance with cells := w.cells.del va } ∧ (t.core s.cur.1).l1.clean = [])) ∧
    (a.val % 2 = 0 → v < 2 ^ 32 → z.bexp + v < 2 ^ 32 → (atCell s place).poisoned place 16 = false →
      ∃ t, exec (.barmBytes a) s = .next t ∧ t.readCell place = { z with bexp := z.bexp + v } ∧ GoesOn t w.advance) ∧
    (a.val % 2 = 0 → v ≤ 128 → (atCell s place).poisoned place 16 = false →
      ∃ t, exec (.barmInit a) s = .next t ∧ t.readCell place = ({ z with exp := v, barr := 0, bexp := 0 } : Cell).test ∧
        GoesOn t w.advance)

/-- R156 to R167, R311 to R314: hardware barriers and barrier cells. -/
def Obligations.BarriersAreSetUpAndCounted : Prop :=
  BarrierArrivalsCount ∧ BarrierSetupInstructions ∧ BarrierCellsCount

/-- R168 to R170, R317 to R319, R121: MON arms the warp's one watch on the line that its lanes name, and raises the alignment trap where
they name several; MWAIT ends with the reason of
the watch and disarms it, or sleeps; WAITT goes on at its tick, or sleeps until it. A sleeping MWAIT or WAITT ends when its deadline
has come. -/
def Obligations.WatchesAndDeadlines : Prop :=
  ∀ (s : State) (d a : SReg) (x : VReg) (b : BReg) (la : La) (c : CoreId) (slot : SlotNo), let w := s.cw
    (∀ p ∈ monTable, ∀ as zs, x.val < w.vregs → typeBits (wmET w.ctl.wmode) ≠ 0 → AtOnce s la.val → LogRoom s (.mon p.2 x b) →
      s.addresses s.ctx b.val x.val 1 1 false = .ok as →
      (∀ info, oneLine (monPlaces s b as) = .error (.trap info) → info.cause = ALIGNMENT ∧
        exec (p.1 x b la) s = .next (s.trapNow info false (w.ctl.pc + 4))) ∧
      (s.locateAll s.ctx (w.regs.rdB b.val) .read 1 (okLanes as) = .ok zs →
        (∀ line, oneLine (monPlaces s b as) = .ok (some line) →
          ∃ t v, exec (p.1 x b la) s = .next t ∧ GoesOn t { w.advance with watch := some v } ∧ v.line = firstLine zs ∧
            v.scope = p.2.val ∧ v.st = .armed ∧ MemoryKept s t) ∧
        (oneLine (monPlaces s b as) = .ok none → ∃ t, exec (p.1 x b la) s = .next t ∧ GoesOn t w.advance))) ∧
    (w.log = [] →
      (∀ r, mwaitReason w (w.rdS a.val) s.tick = some r →
        ∃ t, exec (.mwait d a) s = .next t ∧ GoesOn t { (w.wrS d.val (BitVec.ofNat 64 r)).advance with watch := none } ∧
          OthersKept s t ∧ t.tags = s.tags ∧ (r ≠ 0 → MemoryKept s t) ∧
          (∀ v, w.watch = some v → r = 0 → w.wide v.scope = true → (t.core s.cur.1).l1.clean = [])) ∧
      (mwaitReason w (w.rdS a.val) s.tick = none →
        exec (.mwait d a) s = .next (s.setCw (w.slept (.watch d.val (w.rdS a.val))))) ∧
      ((w.rdS a.val).toNat ≤ s.tick → NoneMissed s s.cur.1 s.cur.2 w.gen →
        ∃ t, exec (.waitt a) s = .next t ∧ GoesOn t w.advance ∧ MemoryKept s t) ∧
      (s.tick < (w.rdS a.val).toNat →
        exec (.waitt a) s = .next (s.setCw (w.slept (.tick (w.rdS a.val) s.curWord))))) ∧
    (∀ n dl, let y := s.warp c.val slot.val
      y.st = .asleep → y.wait = .watch n dl → dl ≠ 0 → dl.toNat ≤ s.tick →
      ∃ t, exec (.mwaitDeadline c slot) s = .next t ∧ t.warp c.val slot.val =
        ({ ({ y with st := .active, wait := .none }.wrS n
          (if y.watch.map Watch.st = some WatchState.fired then 0 else 2)).advance with watch := none } : Warp).issued) ∧
    (∀ dl wd, let y := s.warp c.val slot.val
      y.st = .asleep → y.wait = .tick dl wd → dl.toNat ≤ s.tick → NoneMissed s c.val slot.val y.gen →
      ∃ t, exec (.waittDeadline c slot) s = .next t ∧
        t.warp c.val slot.val = ({ y with st := .active, wait := .none } : Warp).advance.issued)

/-! ## Futures, tasks, handler warps, the ends of warps -/

namespace Sys2Proof.Slice0

open Sys2Proof.Machine

/-- The core's view of a place after an acquire at a scope (R140). -/
def seenAt (s : State) (scope place : Nat) : State := (s.acquireLine s.cur.1 (lineOf place) scope).selfInvalidate s.cur.1

/-- The core's view of a future's cell after an acquire at SYSTEM scope (R322). -/
def seenCell (s : State) (place : Nat) : State := seenAt s 5 place

/-- A handler warp whose one active lane, its last, carries an origin: a HELD warp of its core whose latest trap has that lane
alone, not yet resolved (R213, R217). -/
def Serves (s : State) (a : VReg) (h : Nat) (o : Origin) : Prop :=
  let w := s.cw
  let v := s.warp s.cur.1 o.slot
  a.val < w.vregs ∧ w.id.handler = true ∧ w.id.task = false ∧ w.lanes = [h] ∧ w.ctl.live = w.active ∧
  w.origins.look h = some o ∧ slotKey s.cur.1 o.slot ≠ slotKey s.cur.1 s.cur.2 ∧ s.endBusy s.cur.1 s.cur.2 = false ∧
  v.gen = o.sgen ∧ v.st = .held ∧ o.lane < 64 ∧ v.trap.mask = laneBit o.lane ∧ v.trap.res = [] ∧ v.trap.entry = none ∧
  v.trap.uniform = false ∧ v.trap.cause.toNat ≠ CAPSULE_LIMIT ∧ v.trap.cause.toNat ≠ CAPSULE_ABORT ∧
  v.trap.active.getLsbD o.lane = true ∧ v.ctl.live.getLsbD o.lane = true

end Sys2Proof.Slice0

/-- R87, R88, R322 to R324: JOIN writes the value and the status of a full future, or waits in the operand log, asleep, while it is
empty; FTEST reads
the status, all ones while it is empty, and does not wait; FFILL fills an empty one and answers 0, and answers 1 when it is full. -/
def Sys2Proof.Slice0.FuturesAreJoinedTestedAndFilled : Prop :=
  ∀ (s : State) (d c : SReg) (a : BReg) (la : La) (place : Nat), let w := s.cw; let u := seenCell s place
    let val := BitVec.ofNat 64 (u.readNat place 8)
    let st := BitVec.ofNat 64 (u.readNat (place + 8) 8)
    (s.futureCell s.ctx a.val c.val false = .ok place →
      (d.val % 2 = 0 → w.log = [] → LogRoom s (.join d a c) →
        (s.owned.has (lineOf place) = false → s.tag (place + 8) = true → u.poisoned place 16 = false →
          (wmJFT w.ctl.wmode && faultStatus st) = false →
          ∃ t, exec (.join d a c) s = .next t ∧ OthersKept s t ∧ t.tags = s.tags ∧
            GoesOn t ((w.wrS d.val val).wrS (d.val + 1) st).advance) ∧
        (s.owned.has (lineOf place) = true ∨ s.tag (place + 8) = false →
          ∃ t, exec (.join d a c) s = .next t ∧ Waits s t ∧ MemoryKept s t)) ∧
      (s.owned.has (lineOf place) = false → LogRoom s (.ftest d a c) → AtOnce s la.val →
        (s.tag (place + 8) = true → u.poisoned (place + 8) 8 = false → w.log = [] →
          ∃ t, exec (.ftest d a c la) s = .next t ∧ OthersKept s t ∧ t.tags = s.tags ∧
            GoesOn t (w.wrS d.val st).advance) ∧
        (s.tag (place + 8) = false →
          ∃ t, exec (.ftest d a c la) s = .next t ∧ OthersKept s t ∧ MemoryKept s t ∧
            GoesOn t (w.wrS d.val (BitVec.ofNat 64 (2 ^ 64 - 1))).advance))) ∧
    (s.futureCell s.ctx a.val c.val true = .ok place → c.val % 4 = 0 → w.log = [] → LogRoom s (.ffill d a c) →
      AtOnce s la.val → s.memoryOk = true → s.owned.has (lineOf place) = false → w.rdS (c.val + 3) = 0 → (w.rdS (c.val + 2)).toNat ≤ 0xFFFF →
      faultStatus (w.rdS (c.val + 2)) = false →
      (s.tag (place + 8) = true → ∃ t, exec (.ffill d a c la) s = .next t ∧ MemoryKept s t ∧
        GoesOn t (w.wrS d.val 1).advance) ∧
      (s.tag (place + 8) = false → ∃ t, exec (.ffill d a c la) s = .next t ∧ t.tag place = true ∧
        t.tag (place + 8) = true ∧ t.readNat place 8 = (w.rdS (c.val + 1)).toNat ∧
        t.readNat (place + 8) 8 = (w.rdS (c.val + 2)).toNat ∧ GoesOn t (w.wrS d.val 0).advance))

/-- R76, R321: SPAWN puts the closure at the hot end of its core's bobbin, ORIGIN written, and answers the depth; when the
bobbin is full the coldest entry moves to the ring, and when the ring is full too it raises the spill trap. -/
def Sys2Proof.Slice0.SpawnPushesItsClosure : Prop :=
  ∀ (s : State) (d c : SReg) (a : BReg) (la : La) (q : Nat) (L : List Byte) (u : State), let w := s.cw
    (s.core s.cur.1).far = [] → ((s.job w.id.job).r.roles.getD 3 {}).warps ≠ 0 → s.uaddr s.ctx a.val c.val 128 128 false = .ok q →
    recSpace (w.regs.rdB a.val) ≠ SP_LANE → s.readAt s.ctx a.val q 128 = .ok (L, u) → closureBad L = false →
    w.log = [] → LogRoom s (.spawn d a c) →
    let x := s.core s.cur.1
    let room := x.bob.length + x.heldInl < 64
    let ring := x.ring.length + x.heldRing < (s.job (s.occJob s.cur.1)).r.spill
    (room → AtOnce s la.val → ∃ t e, exec (.spawn d a c la) s = .next t ∧ (t.core s.cur.1).bob = e :: x.bob ∧ (t.core s.cur.1).ring = x.ring ∧
      e.line = bytesOf 8 (descNat L 0 8 % 2 ^ 32 + 2 ^ 32 * s.cur.1 + descNat L 0 8 / 2 ^ 41 * 2 ^ 41) ++ L.drop 8 ∧
      e.st = .waiting ∧ e.adm = 0 ∧ GoesOn t (w.wrS d.val (BitVec.ofNat 64 (x.depth + 1))).advance) ∧
    (¬ room → ring → x.bob ≠ [] → AtOnce s la.val → ∃ t e, exec (.spawn d a c la) s = .next t ∧
      (t.core s.cur.1).bob = e :: x.bob.dropLast ∧ (t.core s.cur.1).ring.length = x.ring.length + 1 ∧
      GoesOn t (w.wrS d.val (BitVec.ofNat 64 (x.depth + 1))).advance) ∧
    (¬ room → ¬ ring → Raises s (.spawn d a c la) true SPILL_FULL 0)

/-- R76, R87, R88, R321 to R324: SPAWN, JOIN, FTEST and FFILL. -/
def Obligations.FuturesAndSpawn : Prop :=
  FuturesAreJoinedTestedAndFilled ∧ SpawnPushesItsClosure

namespace Sys2Proof.Slice0

open Sys2Proof.Machine

/-- The lanes that EXIT leaves live, and those of them in the execution mask (R40). -/
def liveAfter (w : Warp) : W64 := w.ctl.live &&& ~~~w.active
def execAfter (w : Warp) : W64 := w.ctl.exec &&& liveAfter w

/-- EXIT ends the warp: no lane is left, or none of the path's with no entry on the stack (R40). -/
def ExitEnds (w : Warp) : Prop := liveAfter w = 0 ∨ (execAfter w = 0 ∧ w.ctl.stk = [])

/-- A handler warp's origins lie in other slots. -/
def OriginsElsewhere (s : State) : Prop := ∀ l o, s.cw.origins.look l = some o → slotKey s.cur.1 o.slot ≠ slotKey s.cur.1 s.cur.2

/-- A task's range entries are released (R68). -/
def RangesReleased (t : State) (job adm : Nat) : Prop := adm ≠ 0 → ∀ r ∈ t.ranges, ¬ (r.job = job ∧ r.adm = adm)

end Sys2Proof.Slice0

/-- R40, R41, R280: EXIT takes the active lanes out of the warp, which goes on with the lanes that are left, at the next word or where
the path has ended; when the warp ends it waits for its outstanding instructions, and then the slot becomes FREE. R280 says of the
commands, MMAs and NMVs of a task warp that the end waits for them; that it waits as well for the operand log, the divisions and the
MMAs of any warp is the model's reading (log 18). A task warp that ends by EXIT writes its operands back and fills no future. -/
def Sys2Proof.Slice0.ExitRetiresLanes : Prop :=
  ∀ (s : State), let w := s.cw
    (w.id.handler = true → OriginsElsewhere s) →
    (¬ ExitEnds w → ∃ t, exec .exit s = .next t ∧ t.cw.ctl.live = liveAfter w ∧ t.cw.ctl.exec = execAfter w ∧
        t.cw.ctl.path = w.ctl.path &&& liveAfter w ∧ t.cw.ctl.stk = w.ctl.stk ∧ t.cw.regs = w.regs ∧ t.cw.st = w.st ∧
        (execAfter w ≠ 0 → t.cw.ctl.pc = w.ctl.pc + 4) ∧
        (execAfter w = 0 → ∀ e rest, w.ctl.stk = e :: rest → t.cw.ctl.pc = e.rpc)) ∧
    (ExitEnds w → s.endBusy s.cur.1 s.cur.2 = false →
      (w.id.task = false → ∃ t, exec .exit s = .next t ∧ t.cw = { gen := w.gen }) ∧
      (w.id.task = true → w.id.handler = false → ∀ rt, w.task = some rt →
        ((∀ i, i < rt.e.nops → opWr (rt.e.opnd i) = false) →
          ∃ t, exec .exit s = .next t ∧ t.cw = { gen := w.gen } ∧ RangesReleased t w.id.job rt.e.adm) ∧
        ((∃ i, i < rt.e.nops ∧ opWr (rt.e.opnd i) = true) →
          ∃ t f, exec .exit s = .next t ∧ t.cw.st = .asleep ∧ t.cw.wait = .finish ∧
            t.cw.task = some { rt with fin := some f } ∧ f.fill = false))) ∧
    (ExitEnds w → s.endBusy s.cur.1 s.cur.2 = true → exec .exit s = .next s)

/-- R93, R325: TRET ends a task once its commands and its other instructions are complete: where it has an operand to write back,
the warp sleeps for that; else its future is filled with the value and status 0, unless it has none, its range entries are
released, and its slot is FREE. Outside a task it raises SUB 5. -/
def Sys2Proof.Slice0.TretEndsTheTask : Prop :=
  ∀ (s : State) (a : SReg), let w := s.cw
    (∀ rt, w.task = some rt → w.id.task = true → w.id.handler = false → LogRoom s (.tret a) →
      s.busy s.cur.1 s.cur.2 = false →
      ((∀ i, i < rt.e.nops → opWr (rt.e.opnd i) = false) →
        (rt.e.nofut = true →
          ∃ t, exec (.tret a) s = .next t ∧ t.cw = { gen := w.gen } ∧ RangesReleased t w.id.job rt.e.adm) ∧
        (∀ place, rt.e.nofut = false → s.memoryOk = true → (s.core s.cur.1).far = [] →
          s.wordAt s.cur.1 w.id.part .tagWrite (BitVec.ofNat 64 rt.e.fut).toNat = .at place → s.tag (place + 8) = false →
          ∃ t, exec (.tret a) s = .next t ∧ t.cw = { gen := w.gen } ∧ RangesReleased t w.id.job rt.e.adm ∧
            t.tag place = true ∧ t.tag (place + 8) = true ∧ t.readNat place 8 = (w.rdS a.val).toNat ∧
            t.readNat (place + 8) 8 = 0)) ∧
      ((∃ i, i < rt.e.nops ∧ opWr (rt.e.opnd i) = true) →
        ∃ t f, exec (.tret a) s = .next t ∧ t.cw.st = .asleep ∧ t.cw.wait = .finish ∧
          t.cw.task = some { rt with fin := some f } ∧ f.val = w.rdS a.val ∧ f.status = 0 ∧ f.fill = true)) ∧
    (w.task.isSome = true → s.busy s.cur.1 s.cur.2 = true → exec (.tret a) s = .next s) ∧
    (w.task = none → Raises s (.tret a) true ILLEGAL 5)

/-- R40, R41, R93, R280, R325: the ends of warps by EXIT and of tasks by TRET. -/
def Obligations.WarpsAndTasksEnd : Prop :=
  ExitRetiresLanes ∧ TretEndsTheTask

/-- R217, R218, R282: RETURNING FROM A TRAP. TRES with the resolution 0, 1 or 2 of the one lane of a trap makes the origin's warp
ACTIVE: at the trapped instruction with the lanes that were active (RESUME), at the continue PC (SKIP), or without the lane
(KILL), and the handler warp, whose last lane it was, frees its slot. -/
def Sys2Proof.Slice0.TresReturnsFromTheTrap : Prop :=
  ∀ (s : State) (a : VReg) (h : Nat) (o : Origin), Serves s a h o →
    let w := s.cw
    let v := s.warp s.cur.1 o.slot
    let r := (w.rdV a.val h).toNat % 4
    let others := v.ctl.live &&& ~~~(laneBit o.lane)
    (r ≠ 3 → ∃ t, exec (.tres a) s = .next t ∧ t.cw = { gen := w.gen } ∧
      (r = 0 → (t.warp s.cur.1 o.slot).st = .active ∧ (t.warp s.cur.1 o.slot).ctl =
        { v.ctl with exec := v.ctl.exec &&& v.ctl.live, path := v.ctl.path &&& v.ctl.live, pc := v.trap.pc
                     reexec := some v.trap.active }) ∧
      (r = 1 → v.trap.active = laneBit o.lane → (t.warp s.cur.1 o.slot).st = .active ∧ (t.warp s.cur.1 o.slot).ctl =
        { v.ctl with exec := v.ctl.exec &&& v.ctl.live, path := v.ctl.path &&& v.ctl.live, pc := v.trap.cont }) ∧
      (r = 2 → others ≠ 0 → v.trap.active = laneBit o.lane →
        (t.warp s.cur.1 o.slot).st = .active ∧ (t.warp s.cur.1 o.slot).ctl =
        { v.ctl with live := others, exec := v.ctl.exec &&& others, path := v.ctl.path &&& others
                     pc := v.trap.cont })) ∧
    (r = 3 → Raises s (.tres a) false ILLEGAL 5)

/-- R217, R282: TRES completes in a handler warp whose lanes all name a resolution, and retires its active lanes. -/
def Sys2Proof.Slice0.TresRetiresItsLanes : Prop :=
  ∀ (s : State) (a : VReg), let w := s.cw
    a.val < w.vregs → w.id.handler = true → w.id.task = false → (∀ l ∈ w.lanes, (w.rdV a.val l).toNat % 4 ≠ 3) →
    s.endBusy s.cur.1 s.cur.2 = false → OriginsElsewhere s →
    ∃ t, exec (.tres a) s = .next t ∧ (ExitEnds w → t.cw = { gen := w.gen }) ∧
      (¬ ExitEnds w → t.cw.ctl.live = liveAfter w ∧ t.cw.ctl.exec = execAfter w ∧ t.cw.regs = w.regs)

/-- R283: TREC reads into each active lane's pair the item of its origin that the lane's selector names, and writes the item of a
lane whose selector says so. Outside a handler warp TREC and TRES raise SUB 5. -/
def Sys2Proof.Slice0.TrapRecordsAreReadAndWritten : Prop :=
  ∀ (s : State) (d a b : VReg), let w := s.cw
    (a.val < w.vregs → d.val + 1 < w.vregs → b.val + 1 < w.vregs → d.val % 2 = 0 → b.val % 2 = 0 → w.id.handler = true →
      (∀ l, ∀ o, w.origins.look l = some o → o.slot < 64 ∧ slotKey s.cur.1 o.slot ≠ slotKey s.cur.1 s.cur.2) →
      (∀ l ∈ w.lanes, (s.trecItem w a.val b.val l).isSome) →
      (∀ l ∈ w.lanes, ∀ o n x wr, s.trecItem w a.val b.val l = some (o, n, x, wr) → ∀ key ∈ itemElems o n,
        (s.warp s.cur.1 o.slot).bad.has key = false) →
      ∃ t, exec (.trec d a b) s = .next t ∧ t.cw.ctl.pc = w.ctl.pc + 4 ∧ t.cw.regs.s = w.regs.s ∧
        (∀ l ∈ w.lanes, ∀ o n x wr, s.trecItem w a.val b.val l = some (o, n, x, wr) →
          t.cw.rdV d.val l = x.setWidth 32 ∧ t.cw.rdV (d.val + 1) l = (x >>> 32).setWidth 32 ∧
          (∀ y, w.lanes = [l] → wr = some y →
            t.warp s.cur.1 o.slot = (s.warp s.cur.1 o.slot).recWrite o n y) ∧
          (w.lanes = [l] → wr = none → t.warp s.cur.1 o.slot = s.warp s.cur.1 o.slot))) ∧
    (a.val < w.vregs → w.id.handler = false → Raises s (.tres a) false ILLEGAL 5) ∧
    (a.val < w.vregs → d.val + 1 < w.vregs → b.val + 1 < w.vregs → d.val % 2 = 0 → b.val % 2 = 0 → w.id.handler = false →
      Raises s (.trec d a b) false ILLEGAL 5)

/-- R217, R218, R282, R283: RETURNING FROM A TRAP, and what a handler reads and writes of its origins. -/
def Obligations.TrapHandlersReturnAndReadRecords : Prop :=
  TresReturnsFromTheTrap ∧ TresRetiresItsLanes ∧ TrapRecordsAreReadAndWritten

/-! ## Capsules -/

namespace Sys2Proof.Slice0

open Sys2Proof.Machine

/-- The current warp is inside a capsule and at none of its limits (R174). -/
def Inside (s : State) (cp : Capsule) : Prop := s.cw.cap = some cp ∧ s.cw.capsuleLimit cp = false

/-- R330: CALU's results by o. -/
def caluTable : List (Fin 8 × (W64 → W64 → W64)) :=
  [(0, fun x y => BitVec.ofNat 64 (x.toNat + y.toNat)), (1, fun x y => BitVec.ofInt 64 (x.toNat - y.toNat : Int)),
   (2, fun x y => x &&& y), (3, fun x y => x ||| y), (4, fun x y => x ^^^ y),
   (5, fun x y => BitVec.ofNat 64 (x.toNat * 2 ^ (y.toNat % 64))),
   (6, fun x y => BitVec.ofNat 64 (x.toNat / 2 ^ (y.toNat % 64))),
   (7, fun x y => if x.toNat < y.toNat then 1 else 0)]

/-- One more instruction of the step has issued. -/
def oneMore (cp : Capsule) : Capsule := { cp with count := cp.count + 1 }

/-- c[d] := x. -/
def setC (w : Warp) (d : CReg) (x : W64) : Warp := { w with regs := w.regs.wrC d.val x }

/-- A TLB of a core or its die holds the page of a record's address, which lies at a place (R220, R406, R407). -/
def RecordAt (s : State) (c part : Nat) (va : W64) (place : Nat) : Prop :=
  ∃ e, s.heldLeaf c (tlbKey part false va.toNat) = some e ∧ permits e .atomic = true ∧ leafPlace e 0 va.toNat = place

/-- The machine with a line at its home, as an acquire at PACKAGE scope of n bytes by the current warp finds it (R140, R331). -/
def acquiredHome (s : State) (place n : Nat) : State :=
  ((s.charge s.cur.1 n).atomLine s.cur.1 (lineOf place) true false).selfInvalidate s.cur.1

/-- An accepted CSTEP, CEND or CABORT of the warp in slot k of core c on the record at a place, with no store pending (R176,
R333). -/
def Accepted (s t : State) (c k op place : Nat) (cp : Capsule) : Prop :=
  let w := s.warp c k
  let r := s.readRec place
  (op = 0 → t.warp c k = ({ w.advance with
      st := .active, wait := .none
      cap := some { cp with step := cp.step + 1, count := 0, store := none, cf := false, pages := [], dead := false }
      } : Warp).issued ∧
    (t.readRec place).step = r.step + 1 ∧ (t.readRec place).chk = w.caps ∧ (t.readRec place).ival = false ∧
    (t.readRec place).owner = r.owner ∧ (t.readRec place).st = 1) ∧
  (1 ≤ op → t.warp c k =
      ({ (w.wrS cp.dest (if op = 1 then 0 else 2)).setPc cp.ret with
         st := .active, wait := .none, cap := none } : Warp).issued ∧
    (r.adopt = 0 → (s.core c).l1.dirty = [] → (t.readRec place).st = 0 ∧ (t.readRec place).owner = 0))

/-- The slice takes the warp's next commit, or its abort: the warp owns the record and, but for an abort, holds it at the step
that the warp is in (R176). -/
def Owns (s : State) (c k op place : Nat) (cp : Capsule) : Prop :=
  RecordAt s c (s.warp c k).id.part cp.record place ∧ (s.readRec place).owner = s.me c k ∧ cp.store = none ∧
  (op ≤ 1 → (s.readRec place).step = cp.step ∧ (s.readRec place).st = 1 ∧ cp.step < 64)

/-- A warp that waits in CENTER for an answer of a record at a place. -/
def Contends (s : State) (c k phase lock : Nat) (e : Enter) : Prop :=
  (s.warp c k).st = .active ∧ (s.warp c k).wait = .contend phase lock e.va e.save e.d ∧
  RecordAt s c (s.warp c k).id.part e.va e.place

/-- The contender sleeps on the record, or issues CENTER again when OWNER or STATE has changed (R177). -/
def SleepsOrRetries (s t : State) (c k lock : Nat) (e : Enter) : Prop :=
  ((s.readRec e.place).lock = lock →
    (t.warp c k).st = .asleep ∧ (t.warp c k).wait = .record e.va.toNat lock) ∧
  ((s.readRec e.place).lock ≠ lock → (t.warp c k).st = .active ∧ (t.warp c k).wait = .none)

end Sys2Proof.Slice0

/-- R173, R174, R326 to R333: inside a capsule CALU, CMOV, CLD, CST and CBR have their effect in the capsule's registers and count
one instruction; CMOV also moves between scalars and capsule registers outside. Outside a capsule the others raise SUB 5. -/
def Sys2Proof.Slice0.CapsuleInstructionsAct : Prop :=
  ∀ (s : State) (d a v : CReg) (x : SReg) (wd : Fin 4) (i : BitVec 25) (i7 : BitVec 7) (j : BitVec 5), let w := s.cw
    (w.cap = none →
      Becomes s (.cmovCs d x) (setC w d (w.rdS x.val)).advance ∧
      Becomes s (.cmovSc x a) (w.wrS x.val (w.regs.rdC a.val)).advance ∧
      Becomes s (.cmovCc d a) (setC w d (w.regs.rdC a.val)).advance ∧
      Becomes s (.cmovCi d i7 j) (setC w d (BitVec.ofInt 64 (i7 ++ j).toInt)).advance ∧
      (∀ p ∈ caluTable, Raises s (.calu d a p.1 v) true ILLEGAL 5) ∧ Raises s (.cld d a wd) true ILLEGAL 5 ∧
      Raises s (.cst a wd v) true ILLEGAL 5 ∧ Raises s (.cbr i) true ILLEGAL 5 ∧ Raises s .cstep true ILLEGAL 5 ∧
      Raises s .cend true ILLEGAL 5 ∧ Raises s .cabort true ILLEGAL 5) ∧
    (∀ cp, Inside s cp →
      (∀ p ∈ caluTable, let r := p.2 (w.regs.rdC a.val) (w.regs.rdC v.val)
        Becomes s (.calu d a p.1 v)
          { (setC w d r).advance with cap := some { oneMore cp with cf := decide (r ≠ 0) } }) ∧
      Becomes s (.cmovCc d a) { (setC w d (w.regs.rdC a.val)).advance with cap := some (oneMore cp) } ∧
      Becomes s (.cmovCi d i7 j) { (setC w d (BitVec.ofInt 64 (i7 ++ j).toInt)).advance with cap := some (oneMore cp) } ∧
      (∀ place tg bk, let va := (w.regs.rdC a.val).toNat
        va % 2 ^ wd.val = 0 → va < 2 ^ 57 → cp.dead = false → s.translate s.cur.1 w.id.part false .read va = .ok place tg bk →
        s.owned.has (lineOf place) = false → (acquiredHome s place (2 ^ wd.val)).poisoned place (2 ^ wd.val) = false →
        ∃ t, exec (.cld d a wd) s = .next t ∧ GoesOn t { (setC w d (BitVec.ofNat 64
          (natOf (mergePending cp va ((acquiredHome s place (2 ^ wd.val)).read place (2 ^ wd.val)))))).advance with
            cap := some (oneMore cp) }) ∧
      ((w.regs.rdC a.val).toNat % 2 ^ wd.val = 0 → (w.regs.rdC a.val).toNat < 2 ^ 57 → cp.store = none →
        Becomes s (.cst a wd v) { w.advance with
          cap := some { oneMore cp with store := some (w.regs.rdC a.val, wd.val, w.regs.rdC v.val) } }) ∧
      (1 ≤ i.toInt → i.toInt ≤ 1023 → Becomes s (.cbr i)
        { w.setPc (if cp.cf then w.ctl.pc + (i.signExtend 64 <<< 2) else w.ctl.pc + 4) with
          cap := some (oneMore cp) }))

/-- R171, R176, R178, R327, R333: CENTER of a free record makes the warp its owner, which goes on at the record's entry; with no
active lane it answers 3. CSTEP, CEND and CABORT of the owner, with no store pending, commit the step, end the instance or
abort it; their answers come at once, or later as the events CAPSULE_COMMIT, CAPSULE_END and CAPSULE_ABORT_REQUEST. -/
def Sys2Proof.Slice0.CapsulesEnterAndCommit : Prop :=
  ∀ (s : State) (d b : SReg) (a : BReg) (c : CoreId) (k : SlotNo), s.memoryOk = true → let w := s.cw
    (w.cap = none → b.val % 2 = 0 → w.log = [] → w.fdsq = [] → LogRoom s (.center d a b) →
      (w.active = 0 → Becomes s (.center d a b) (w.wrS d.val 3).advance) ∧
      (∀ e area s', w.active ≠ 0 → s.centerChecks s.ctx d.val a.val b.val = .ok (e, area, s') → s.late.headD false = false →
        let u := (s'.emptyArea area).acquireRec s.cur.1 e.place
        let r := u.readRec e.place
        r.st = 0 → ∃ t cp, exec (.center d a b) s = .next t ∧
          t.cw.ctl.pc = BitVec.ofNat 64 ((s.job w.id.job).r.code + r.entry) ∧ t.cw.regs = w.regs ∧ t.cw.cap = some cp ∧
          cp.record = e.va ∧ cp.save = e.save ∧ cp.dest = d.val ∧ cp.ret = w.ctl.pc + 4 ∧ cp.count = 0 ∧
          cp.store = none ∧ cp.lane = w.firstLane ∧ (t.readRec e.place).st = 1 ∧
          (t.readRec e.place).owner = s.me s.cur.1 s.cur.2 ∧ (t.readRec e.place).chk = w.caps)) ∧
    (∀ cp place, Inside s cp → w.log = [] → s.late.headD false = false →
      (∀ p ∈ [(Instr.cstep, 0), (Instr.cend, 1), (Instr.cabort, 2)],
        Owns (released s) s.cur.1 s.cur.2 p.2 place cp →
        ∃ t, exec p.1 s = .next t ∧ t.cur = s.cur ∧
          Accepted (released s) t s.cur.1 s.cur.2 p.2 place (oneMore cp))) ∧
    (∀ cp place, (s.warp c.val k.val).cap = some cp → cp.pages = [] → cp.rebind = none → cp.lost = false →
      (s.warp c.val k.val).st = .active →
      ∀ p ∈ [(Instr.capsuleCommit c k, 0), (Instr.capsuleEnd c k, 1), (Instr.capsuleAbortRequest c k, 2)],
        (s.warp c.val k.val).wait = .commit p.2 false → Owns s c.val k.val p.2 place cp →
        ∃ t, exec p.1 s = .next t ∧ Accepted s t c.val k.val p.2 place cp)

/-- R176, R177, R180, R228: how the slice answers contenders. An acquire gives a free record to its contender, or has the owner
probed; the probe answers live, gone or foreign; after "gone" the contender asks to adopt, else it sleeps; an adoption
makes it the owner, which then takes up the checkpoint. A notice of departure wakes the sleepers; a kill notice frees the record
of an owner that is gone; a restored owner's rebind names it again. -/
def Sys2Proof.Slice0.CapsuleRecordsChangeOwners : Prop :=
  ∀ (s : State) (c : CoreId) (k : SlotNo), s.memoryOk = true → let w := s.warp c.val k.val
    (∀ lock e, Contends s c.val k.val 0 lock e →
      let u := s.acquireRec c.val e.place
      let r := u.readRec e.place
      ∃ t, exec (.capsuleAcquire c k e.va e.save) s = .next t ∧
        (r.st = 0 → (t.warp c.val k.val).st = .active ∧ (t.readRec e.place).owner = s.me c.val k.val ∧
          (t.readRec e.place).st = 1 ∧
          (t.warp c.val k.val).ctl.pc = BitVec.ofNat 64 ((s.job w.id.job).r.code + r.entry)) ∧
        (r.st ≠ 0 → (t.warp c.val k.val).wait = .contend 1 r.lock e.va e.save e.d)) ∧
    (∀ lock e, Contends s c.val k.val 1 lock e → ∃ t ph, exec (.capsuleProbe c k) s = .next t ∧
      (t.warp c.val k.val).wait = .contend ph lock e.va e.save e.d ∧ (ph = 2 ∨ ph = 3 ∨ ph = 4) ∧
      (ph = 4 ↔ s.capJobs.look (lock % 2 ^ 48) ≠ some w.id.job)) ∧
    (∀ ph lock e, Contends s c.val k.val ph lock e → (ph = 2 ∨ ph = 3 ∨ ph = 4) →
      ∃ t, exec (.capsuleProbeReply c k) s = .next t ∧
        (ph = 3 → (t.warp c.val k.val).wait = .contend 5 lock e.va e.save e.d) ∧
        (ph ≠ 3 → SleepsOrRetries s t c.val k.val lock e)) ∧
    (∀ lock e area, Contends s c.val k.val 5 lock e → s.wordAt c.val w.id.part .tagWrite e.save.toNat = .at area →
      let r := s.readRec e.place
      let granted := r.owner = lock % 2 ^ 48 ∧ (r.st = 1 ∨ r.st = 2) ∧ r.adopt < 4
      ∃ t, exec (.capsuleAdopt c k) s = .next t ∧
        (granted →
          (t.warp c.val k.val).wait = .contend 6 ((t.readRec e.place).lock) e.va e.save e.d ∧
          (t.readRec e.place).owner = s.me c.val k.val ∧ (t.readRec e.place).st = 2 ∧
          (t.readRec e.place).adopt = r.adopt + 1 ∧ t.tag area = false ∧ t.tag (area + 8) = false) ∧
        (¬ granted → SleepsOrRetries s t c.val k.val lock e)) ∧
    (∀ lock e cp place, Contends s c.val k.val 6 lock e → w.cap = some cp → cp.pages = [] → cp.rebind = none →
      cp.lost = false → RecordAt s c.val w.id.part cp.record place →
      let u := s.acquireRec c.val place
      let r := u.readRec place
      u.poisoned place 192 = false → r.ival = false → ∃ t, exec (.capsuleAdoptionComplete c k) s = .next t ∧ (t.warp c.val k.val).st = .active ∧
        (t.warp c.val k.val).adopted = true ∧ (t.warp c.val k.val).caps = r.chk ∧
        (t.warp c.val k.val).ctl.pc = cp.entry + BitVec.ofNat 64 (4 * r.resume) ∧
        (t.warp c.val k.val).cap = some { cp with step := r.step, pages := [] }) ∧
    (∀ line ∈ s.notices, ∃ t, exec (.capsuleDepartureNotice line) s = .next t ∧ t.notices = s.notices.erase line ∧
      ∀ key v va lock, s.slots.look key = some v → v.wait = .record va lock →
        RecordAt s (key / 128) v.id.part (BitVec.ofNat 64 va) line → va < 2 ^ 64 →
        t.slots.look key = some { v with st := .active, wait := .none }) ∧
    (∀ (q : KillNotice) (p : PartId) (rec : BitVec 64) (ident : BitVec 48) place, s.kills = [q] → q.part = p.val →
      q.va = rec.toNat → q.ident = ident.toNat → q.pages = [] → RecordAt s q.core p.val rec place →
      ∃ t, exec (.capsuleKillNotice p rec ident) s = .next t ∧ t.kills = [] ∧
        ((s.readRec place).owner = ident.toNat → (s.readRec place).adopt = 0 → (s.core q.core).l1.dirty = [] →
          (t.readRec place).owner = 0 ∧ (t.readRec place).st = 0) ∧
        ((s.readRec place).owner ≠ ident.toNat → t = { s with kills := [] })) ∧
    (∀ cp old place, w.cap = some cp → cp.rebind = some old → cp.pages = [] → RecordAt s c.val w.id.part cp.record place →
      ∃ t, exec (.capsuleRebind c k) s = .next t ∧
        ((s.readRec place).owner = old → (t.warp c.val k.val).cap = some { cp with rebind := none } ∧
          (t.readRec place).owner = s.me c.val k.val) ∧
        ((s.readRec place).owner ≠ old →
          (t.warp c.val k.val).cap = some { cp with rebind := none, lost := true }))

/-- R171 to R180, R326 to R333: capsules, from the inside and from their records. -/
def Obligations.CapsulesRunAndCommit : Prop :=
  CapsuleInstructionsAct ∧ CapsulesEnterAndCommit ∧ CapsuleRecordsChangeOwners

/-! ## Engine commands, the matrix engine, the operand log -/

namespace Sys2Proof.Slice0

open Sys2Proof.Machine

/-- The engine commands with their kinds (R334). -/
noncomputable def commandTable : List ((SReg → BReg → SReg → La → Instr) × Fin 7) :=
  [(.shcopy, 0), (.shgath, 1), (.shscat, 2), (.shmcast, 3), (.shput, 4), (.shget, 5), (.nmv, 6)]

/-- The checks of a command's descriptor (R336 to R340, R346). -/
def descChecks (s : State) (x : Ctx) (kind : Nat) (D : List Byte) : Res CmdDesc :=
  if kind = 6 then s.nmvChecks x D else if kind = 1 ∨ kind = 2 then s.rowChecks x kind D else s.tensorChecks x kind D

/-- A command in an entry of a core's shuttle that may begin its next chunk: nothing of it waits and SHCAN has not stopped it. -/
def Ready (s : State) (c e : Nat) (x : Cmd) : Prop :=
  (s.core c).cmds.look e = some x ∧ x.ready = true ∧ x.dead = false ∧ x.pages = [] ∧ x.cancel = false ∧ x.part = 0

/-- The warp that issued a command still holds its slot. -/
def Holds (s : State) (c : Nat) (x : Cmd) : Prop := (s.warp c x.slot).gen = x.sgen ∧ (s.warp c x.slot).st ≠ .free

/-- A command of this kind after its next move of a chunk from u, which brought it to m with n pieces moved: its entry is
free after the last chunk, or stands at the next chunk, or at the pieces of this one that are left. -/
def MovedOn (t : State) (c e : Nat) (x : Cmd) (m : State × Nat) : Prop :=
  let whole := (x.pieces x.chunks).length ≤ m.2
  let at_ := fun (chunks part : Nat) => ∃ y, (t.core c).cmds.look e = some y ∧ y.id = x.id ∧ y.d = x.d ∧
    y.chunks = chunks ∧ y.part = part
  (whole → x.chunkCount = x.chunks + 1 → (t.core c).cmds.look e = none ∧ t.mem = m.1.mem) ∧
  (whole → x.chunks + 1 < x.chunkCount → at_ (x.chunks + 1) 0) ∧
  (¬ whole → at_ x.chunks (x.part + m.2))

/-- A command that begins or goes on at a state: one of rows has at its first chunk its index list, none of it refused, and its lines
(R340). -/
def Begins (s : State) (c e : Nat) (x : Cmd) (v : State) (y : Cmd) : Prop :=
  (¬ ((x.kind.val = 1 ∨ x.kind.val = 2) ∧ x.chunks = 0) ∧ v = s ∧ y = x) ∨
  ((x.kind.val = 1 ∨ x.kind.val = 2) ∧ x.chunks = 0 ∧ y.rowsBad = false ∧ ∃ u, v = u.hold c e y ∧
    ((x.rows.isSome = true ∧ u = s ∧ y = x) ∨
     (x.rows = none ∧ ∃ ix, s.readIndex c (cmdKey c e) x = .inr (ix, u) ∧ y = { x with rows := some ix })))

/-- A command's entry is free, and its status with the warp that issued it is a code (R335). -/
def EndsAs (s t : State) (c e : Nat) (x : Cmd) (code : Nat) : Prop :=
  (t.core c).cmds.look e = none ∧
  (Holds s c x → ∀ h ∈ (t.warp c x.slot).hist, h.id = x.id → h.code = code ∧ h.chunks = x.chunks)

/-- How the record of a poisoned word met in serving another package is written (R125, R435): its code is free (log 100). -/
def remoteLog (part : Nat) (req : RemoteReq) (s : State) (place : Nat) : State :=
  s.takeNat.2.logError part 1 (s.takeNat.1 % 256) 0 req.ident 0 0 req.pos place

/-- The record that another package's chunk names, as it is read, and the machine then. -/
def remoteRecord (s : State) (part : Nat) (req : RemoteReq) (place : Nat) : BufRec × State :=
  let got := s.engineRead 0 [(place, 32)]
  (BitVec.ofNat 256 (natOf got.1), got.2.1.foldl (fun s p => remoteLog part req s p.2) got.2.2)

/-- The byte o of a job's record, as another package's chunk reaches it. -/
def remoteByte (s : State) (part j : Nat) (put : Bool) (r : BufRec) (o : Nat) : Located :=
  s.locate { c := frontEnd, k := 0, w := { id := { part := part, job := j } }, active := 0 } r
    (if put then .engineWrite else .engineRead) 0 (recBase r + o) 1

/-- Does a record admit another package's transfer (R339)? -/
def Admits (r : BufRec) (req : RemoteReq) : Prop :=
  (recSpace r = SP_GLOBAL ∨ recSpace r = SP_DIE) ∧ (req.put = true → recRdonly r = false) ∧ 0 ≤ req.lowest ∧ req.highest ≤ recExtent r

end Sys2Proof.Slice0

/-- R121, R334, R335, R341: a command whose descriptor passes its checks takes a free entry and an identity, answers its promise
and its identity, and enters the warp's history. SHCAN stops a running command and sleeps until it has ended, and answers 1 for one
that had ended, 2 for one that the history does not hold; SHQRY reads status and chunks. -/
def Sys2Proof.Slice0.CommandsAreIssued : Prop :=
  ∀ (s : State) (d c : SReg) (a : BReg) (la : La), let w := s.cw
    (∀ p ∈ commandTable, ∀ q D u e dd, (s.entryFor s.cur.1).isSome = true → d.val % 2 = 0 → w.log = [] →
      (s.core s.cur.1).far = [] → LogRoom s (.command p.2 d a c) → s.uaddr s.ctx a.val c.val (descSize p.2.val) 8 false = .ok q →
      s.readAt s.ctx a.val q (descSize p.2.val) = .ok (D, u) → descChecks u s.ctx p.2.val D = .ok dd →
      u.heldEntry s.ctx = none → u.entryFor s.cur.1 = some e →
      let id := 16 * (s.core s.cur.1).seq.toNat + e
      ∃ t x, exec (p.1 d a c la) s = .next t ∧ (t.core s.cur.1).cmds.look e = some x ∧ x.kind = p.2 ∧
        x.slot = s.cur.2 ∧ x.sgen = w.gen ∧ x.id = id ∧ s.tick ≤ x.promise ∧ x.d = dd ∧ x.chunks = 0 ∧ x.missed = none ∧ x.ready = true ∧
        (t.core s.cur.1).seq = (s.core s.cur.1).seq + 1 ∧ t.cw.ctl.pc = w.ctl.pc + 4 ∧
        t.cw.regs = (w.regs.wrS d.val (BitVec.ofNat 64 x.promise)).wrS (d.val + 1) (BitVec.ofNat 64 id) ∧
        t.cw.hist = ({ id := id, kind := p.2, promise := x.promise } :: w.hist).take 32) ∧
    (let id := (w.rdS c.val).toNat
     LogRoom s (.shcan d c) → LogRoom s (.shqry d c) →
     (w.hist.find? (fun h => h.id == id) = none → Becomes s (.shcan d c la) (w.wrS d.val 2).advance ∧
      (d.val % 2 = 0 → Becomes s (.shqry d c la) ((w.wrS d.val 7).wrS (d.val + 1) 0).advance)) ∧
     (∀ h, w.hist.find? (fun h => h.id == id) = some h →
      (h.code ≠ 0 → ∃ t, exec (.shcan d c la) s = .next t ∧ MemoryKept s t ∧ (t.core s.cur.1).l1.clean = [] ∧
        GoesOn t (w.wrS d.val (if w.ctl.done ≠ 0 ∧ h.code = 4 then 0 else 1)).advance) ∧
      (∀ e x, h.code = 0 → s.findCmd s.cur.1 s.cur.2 w.gen id = some (e, x) →
        ∃ t, exec (.shcan d c la) s = .next t ∧ Waits s t ∧ t.cw.wait = .command id ∧
          (t.core s.cur.1).cmds.look e = some { x with cancel := true }) ∧
      (d.val % 2 = 0 → ∀ n, n = ((s.findCmd s.cur.1 s.cur.2 w.gen id).map fun p => p.2.chunks).getD h.chunks →
        Becomes s (.shqry d c la)
          ((w.wrS d.val (BitVec.ofNat 64 h.code)).wrS (d.val + 1) (BitVec.ofNat 64 n)).advance)))

/-- R106, R121, R335, R339, R340: a chunk of a command, its handles live, its pages at hand and the other package agreeing where it
has one, is moved; the command ends with its last chunk, SHPUT and SHGET having sent their requests. It ends REVOKED with a handle
that is not live, BOUNDS with an index out of range, as a fault with its page declared unresolvable, and as the other package says
where that does not agree (log 15). At its promise an incomplete command is marked missed and promised anew, within the
counter's 64 bits; one that ends after it has missed it. A chunk of another package for no job here is refused, and so is a first
chunk that its record does not admit; one byte of a SHPUT that it admits is written, one of a SHGET is answered. -/
def Sys2Proof.Slice0.CommandsMoveTheirChunks : Prop :=
  ∀ (s : State) (c : CoreId) (e : Fin 16) (x : Cmd),
    (∀ v y u, Ready s c.val e.val x → Begins s c.val e.val x v y →
      v.checkHandles c.val y.ident.job (y.handleError c.val) y.handles = (.good, u) → y.chunks < y.chunkCount →
      u.chunkFaults y c.val y.chunks = [] →
      (∀ l ∈ u.chunkLines y c.val y.chunks, u.heldBefore (cmdKey c.val e.val) y.order l = false) →
      (∀ z, u.remoteAnswer y = (0, z) →
        let m := (z.hold c.val e.val y).moveChunk y c.val y.chunks
        ∃ t, exec (.engineChunk c e) s = .next t ∧ MovedOn t c.val e.val y m ∧ m.1.sent <+: t.sent ∧
          (y.kind.val = 4 ∨ y.kind.val = 5 → ∃ q ∈ m.1.sent.drop z.sent.length, q.put = (y.kind.val == 4) ∧ q.ident = y.id ∧
            q.first = (y.chunks == 0) ∧ (q.lowest, q.highest) = y.remoteSpan)) ∧
      (∀ n z, u.remoteAnswer y = (n + 1, z) →
        ∃ t, exec (.engineChunk c e) s = .next t ∧ EndsAs s t c.val e.val y (if n = 0 then 6 else 2) ∧ t.sent = z.sent)) ∧
    (∀ v y u, Ready s c.val e.val x → Begins s c.val e.val x v y →
      v.checkHandles c.val y.ident.job (y.handleError c.val) y.handles = (.revoked, u) →
      ∃ t, exec (.engineChunk c e) s = .next t ∧ EndsAs s t c.val e.val y 2 ∧ t.mem = u.mem) ∧
    (∀ ix, Ready s c.val e.val x → x.kind.val = 1 ∨ x.kind.val = 2 → x.chunks = 0 → x.rows = some ix → x.rowsBad = true →
      ∃ t, exec (.engineChunk c e) s = .next t ∧ EndsAs s t c.val e.val x 5 ∧ t.mem = s.mem) ∧
    ((s.core c.val).cmds.look e.val = some x → x.ready = true → x.dead = true →
      ∃ t, exec (.engineChunk c e) s = .next t ∧ EndsAs s t c.val e.val x 3 ∧ t.mem = s.mem ∧
        (Holds s c.val x → x.counted = false → x.promise < s.tick →
          (t.warp c.val x.slot).stat.mstat = (s.warp c.val x.slot).stat.mstat ||| 8)) ∧
    ((s.core c.val).cmds.look e.val = some x → x.ready = true → x.expired s.tick = true →
      ∃ t n, exec (.promiseExpiry c e) s = .next t ∧ s.tick < n ∧ n / 2 ^ 64 = (s.tick + 1) / 2 ^ 64 ∧
        (t.core c.val).cmds.look e.val = some { x with missed := some n, counted := true } ∧ t.mem = s.mem ∧
        (Holds s c.val x → (t.warp c.val x.slot).stat.mstat =
          if x.counted then (s.warp c.val x.slot).stat.mstat else (s.warp c.val x.slot).stat.mstat ||| 8)) ∧
    (∀ req : RemoteReq,
      (s.peerJob req.djid.toNat req.pkg.toNat = none →
        exec (.remoteChunk req) s = .next { s with answers := s.answers ++ [{ pkg := req.pkg, code := 6 }] }) ∧
      (∀ j jb u place tg bk,
        s.peerJob req.djid.toNat req.pkg.toNat = some (j, jb) →
        s.checkHandle frontEnd 0 j req.handle.toNat (remoteLog jb.part req) = (.good, u) →
        u.translate frontEnd jb.part false .engineRead (jb.r.hbase + 32 * (req.handle.toNat % 2 ^ 24)) = .ok place tg bk →
        let r := (remoteRecord u jb.part req place).1
        let v := (remoteRecord u jb.part req place).2
        (req.first = true → ¬ Admits r req →
          ∃ t, exec (.remoteChunk req) s = .next t ∧ t.mem = v.mem ∧ t.answers = v.answers ++ [{ pkg := req.pkg, code := 6 }]) ∧
        (∀ o b q, Admits r req → req.signal = none → req.cells = [(o, b)] →
          (remoteByte v jb.part j req.put r o).segs = [(q, 1)] → (remoteByte v jb.part j req.put r o).faults = [] →
          isHostPlace q = false → v.owned.has (lineOf q) = false →
          (req.put = true → s.memoryOk = true →
            ∃ t, exec (.remoteChunk req) s = .next t ∧ t.mem.getD q 0 = b ∧ t.buckets = s.buckets ∧ t.slots = s.slots ∧
              t.answers = s.answers ++ [{ pkg := req.pkg, code := 1 }]) ∧
          (req.put = false → ∃ t, exec (.remoteChunk req) s = .next t ∧ t.buckets = s.buckets ∧
            t.answers = s.answers ++ [{ pkg := req.pkg, code := 1, cells := [(o, ((v.engineRead 0 [(q, 1)]).1).getD 0 0)] }]))))

/-- R106, R121, R334 to R341: engine commands, from issue to their last chunk. -/
def Obligations.EngineCommandsIssueAndMove : Prop :=
  CommandsAreIssued ∧ CommandsMoveTheirChunks

/-- R344, R345: an MMA whose lanes agree on its format and whose operands pass their checks takes an entry of its cluster's
reservation table and of the operand log; the table grants a pass to an entry of the highest issue priority; at its end the
rows are in the lanes that took part, and the entry is gone. -/
def Obligations.MatrixPassesWriteTheirRows : Prop :=
  ∀ (s : State) (a f : VReg) (p : SReg) (z : Bool) (la : La) (k : ClusterId), let w := s.cw; let kl := clusterOf s.cur.1
    let free := LogRoom s (.mma a f p z) ∧ (s.mmaTable kl).length < 16
    (a.val < w.vregs → f.val < w.vregs → p.val % 2 = 0 →
      (w.lanes = [] → Becomes s (.mma a f p z la) w.advance) ∧
      (∀ l0 rest u n m, w.lanes = l0 :: rest → (∀ i ∈ rest, w.rdV f.val i = w.rdV f.val l0) →
        free → s.mmaIssue a.val p.val z (w.rdV f.val l0) s.ctx = .ok (u, n, m) →
        ∃ t, exec (.mma a f p z la) s = .next t ∧ t.cw.ctl.pc = w.ctl.pc + 4 ∧ t.cw.regs = w.regs ∧
          t.cw.log.length = w.log.length + 1 ∧
          t.mmaTable kl = s.mmaTable kl ++ [{ core := s.cur.1, slot := s.cur.2, sgen := w.gen, num := w.logNum, acc := a.val
                                              n := n, prio := w.effPrio, lanes := w.active, rows := m }]) ∧
      (∀ l0 rest, w.lanes = l0 :: rest → free → (∃ i ∈ rest, w.rdV f.val i ≠ w.rdV f.val l0) →
        Raises s (.mma a f p z la) false FORMAT_DIVERGENCE 0)) ∧
    (s.mmaTable k.val ≠ [] → (∀ e ∈ s.mmaTable k.val, e.passed = false) →
      ∃ e ∈ s.mmaTable k.val,
        (∀ y ∈ s.mmaTable k.val, y.prio ≤ e.prio) ∧
        exec (.mmaPass k) s = .next { s with
          mma := s.mma.ins k.val ((s.mmaTable k.val).map fun y => if y = e then { y with passed := true } else y) }) ∧
    (∀ e, (s.mmaTable k.val).find? (fun e => e.passed) = some e →
      ∃ t, exec (.mmaComplete k) s = .next t ∧ t.mmaTable k.val = (s.mmaTable k.val).filter (fun e => !e.passed) ∧
        t.mem = s.mem ∧
        ((s.warp e.core e.slot).gen = e.sgen → (s.warp e.core e.slot).st ≠ .free →
          (∀ j < e.n, ∀ l ∈ lanesIn 64 e.lanes, (t.warp e.core e.slot).rdV (e.acc + j) l =
            e.rows.getD (64 * (e.acc + j) + l) 0) ∧
          (∀ y ∈ (t.warp e.core e.slot).log, y.num ≠ e.num)))

/-- R36, R137, R203, R219, R222, R301: an instruction that is performed late in its window enters the operand log and its warp goes
on; when an entry completes, its instruction is performed on the operands of its issue and the entry leaves the log, unless its warp
sleeps on in it; where a check fails then, or its page was declared unresolvable, it delivers its deferred trap once the
instructions before it are complete. A write-back of host lines completes with the host's acknowledgement. A warp that has
waited 256 times is promoted. -/
def Obligations.LoggedInstructionsComplete : Prop :=
  ∀ (s : State) (c : CoreId) (slot : SlotNo) (n : Nat),
    (∀ (d x : VReg) (b : BReg) (la : La), ∀ p ∈ loadTable, ∀ as zs,
      DataReady s.cw d x p.2.2.1 → LogRoom s (.load p.2.1 d x b) → la.val ≠ 0 → s.late.headD false = true →
      Placed s b x p.2.2.1 .read false as zs → Clean s zs →
      ∃ t e, exec (p.1 d x b la) s = .next t ∧ MemoryKept s t ∧ t.cw.regs = s.cw.regs ∧ t.cw.ctl.pc = s.cw.ctl.pc + 4 ∧
        t.cw.log = (s.cw.log.map fun y => { y with used := y.used + 1 }) ++ [e] ∧ e.op = .load p.2.1 d x b ∧
        e.regs = s.cw.regs ∧ e.active = s.cw.active ∧ e.la = la.val ∧ e.pages = [] ∧ e.used = 0 ∧ t.late = s.late.tail) ∧
    (∀ e, let k := n % 66; let w := s.warp c.val k
      w.log[n / 66]? = some e →
      (∀ u, e.dead = none → e.pages = [] → (∀ x y q z, e.op ≠ .mma x y q z) → w.sleepsIn ≠ some e →
        s.performEntry c.val k e false = .ok u →
        let waits := e.op.sleeps = true ∧ (u.warp c.val k).st = .asleep
        ∃ t, exec (.longLatencyComplete c n) s = .next t ∧ t.mem = u.mem ∧ t.tags = u.tags ∧
          (t.warp c.val k).regs = (u.warp c.val k).regs ∧
          (¬ waits → ∀ y ∈ (t.warp c.val k).log, y.num ≠ e.num) ∧
          (waits → (t.warp c.val k).st = .asleep ∧ (t.warp c.val k).log.length = (u.warp c.val k).log.length)) ∧
      (∀ ti, e.dead = none → e.pages = [] → (∀ x y q z, e.op ≠ .mma x y q z) → e.op.sleeps = false ∨ e.replay = true →
        s.performEntry c.val k e false = .error (.trap ti) → s.canTrap c.val k e = true →
        exec (.longLatencyComplete c n) s = .next (s.deferTrap c.val k e ti)) ∧
      (∀ sub lanes page, e.dead = some (sub, lanes, page) → s.canTrap c.val k e = true →
        exec (.longLatencyComplete c n) s = .next (s.deferTrap c.val k e (e.deadTrap sub lanes page)))) ∧
    (∀ k e u, (List.range 66).findSome? (fun k => ((s.warp c.val k).log.find? LogEntry.hostWait).map fun e => (k, e)) =
        some (k, e) → s.performEntry c.val k e true = .ok u →
      ∃ t, exec (.hostCompletion c) s = .next t ∧ t.mem = u.mem ∧ ∀ y ∈ (t.warp c.val k).log, y.num ≠ e.num) ∧
    (let w := s.warp c.val slot.val
     256 ≤ w.ctl.wait → w.ctl.promo = false → w.st = .active →
      exec (.warpPromotion c slot) s = .next (s.setWarp c.val slot.val { w with ctl := { w.ctl with promo := true } }))

/-! ## Tasks, steals, teams and jobs -/

namespace Sys2Proof.Slice0

open Sys2Proof.Machine

/-- An entry of a core's bobbin, or what became of it, by its key. -/
def InBobbin (s : State) (c key : Nat) (p : TaskEntry → Prop) : Prop := ∃ y ∈ (s.core c).bob, y.key = key ∧ p y

/-- The machine after the event. -/
def EventGives (s : State) (i : Instr) (p : State → Prop) : Prop := ∃ t, exec i s = .next t ∧ p t

/-- A ready entry that may be admitted now: every task that became ready before it on its core may not (R65). -/
def FirstReady (s : State) (c : Nat) (e : TaskEntry) : Prop :=
  e.st = .waiting ∧ e.order.isSome = true ∧ e.pages = [] ∧ e.dead = none ∧
  ∀ y ∈ (s.core c).bob, y.order.getD 0 < e.order.getD 0 → s.admitNow c y = false

/-- How the record of a poisoned handle met by a task's transfers is written (R125, R435). -/
def taskLog (s : State) (c : Nat) : State → Nat → State := State.taskHandleError (s.job (s.occJob c)).part c

/-- A task in staging with its lines and an entry of the shuttle. -/
def Staging (s : State) (c n : Nat) (e : TaskEntry) (q : Nat) : Prop :=
  (s.core c).bob[n]? = some e ∧ e.st = .staging ∧ e.blocks ≠ [] ∧ e.pages = [] ∧ e.dead = none ∧ e.entry = some q

/-- A task warp that writes back its operands and then fills its future (R93). -/
def Finishing (s : State) (c k : Nat) (rt : RunTask) (f : Finish) : Prop :=
  (s.warp c k).task = some rt ∧ rt.fin = some f ∧ (s.warp c k).st = .asleep ∧ (s.warp c k).wait = .finish ∧ f.pages = [] ∧
  f.dead = none

end Sys2Proof.Slice0

/-- R59, R61 to R68, R77: a task on its way to READY. The monitor's read of its one readiness word makes it ready when the word
is full, and not ready when it is empty; the first ready task whose ranges fit is admitted, and its range entries are held; the
snapshot drain writes back the lines that its spawner held dirty; the refill takes the hottest spilled entry to the cold end. -/
def Sys2Proof.Slice0.TasksBecomeReady : Prop :=
  ∀ (s : State) (c : CoreId) (n : Nat) (e : TaskEntry), let x := s.core c.val; let j := s.occJob c.val
    (∀ line place, line ∈ x.monitor → e.nrdy = 1 → lineOf (e.rdy 0) = line → e.dead = none → e.seen ≤ 1 →
      (x.bob.filter fun y => y.st == .waiting && decide (line ∈ y.lines)) = [e] → x.findTask e.key = some e →
      s.wordAt c.val (s.job j).part .tagRead (e.rdy 0) = .at place →
      EventGives s (.readinessMonitorRead c line) fun t => line ∉ (t.core c.val).monitor ∧
        InBobbin t c.val e.key fun y => y.st = .waiting ∧ y.order.isSome = s.tag place) ∧
    (∀ rs u, x.bob[n]? = some e → FirstReady s c.val e → s.admitOps c.val j 0 e.ops = (.ok rs, u) →
      s.rangesFit (s.job j).part e.parent (taskRanges (s.job j).part j 0 e.ops rs) = true →
      EventGives s (.taskAdmission c n) fun t =>
        t.ranges = s.ranges ++ taskRanges (s.job j).part j ((s.job j).adm + 1) e.ops rs ∧
        InBobbin t c.val e.key fun y => y.adm = (s.job j).adm + 1 ∧ y.recs = rs ∧
          y.st = if e.nops = 0 then .ready else .staging) ∧
    (x.bob[n]? = some e → e.st = .staging → e.drained = false →
      exec (.snapshotDrain c n) s = .next
        ((s.writeBack e.origin fun l => decide (l ∈ e.marks)).updTask c.val e.key fun y => { y with drained := true })) ∧
    (∀ es, x.ring = e :: es → x.bob.length < 32 → s.dispatchable c.val = none →
      EventGives s (.bobbinRefill c) fun t => (t.core c.val).ring = es ∧
        ∃ y, (t.core c.val).bob = x.bob ++ [y] ∧ y.line = e.line ∧ y.st = e.st ∧ y.parent = e.parent)

/-- R57, R59, R70 to R73: a task in staging obtains lines in its core's staging area, or ends when they could never hold its
operands; each chunk of an operand moves, and the last makes it READY; an operand whose end lies outside its record ends the task;
cancelled staging gives its lines back when its chunk in flight is complete. -/
def Sys2Proof.Slice0.StagingMovesOperands : Prop :=
  ∀ (s : State) (c : CoreId) (n : Nat) (e : TaskEntry), let x := s.core c.val; let area := s.stageArea c.val
    (x.bob[n]? = some e → e.st = .staging → e.blocks = [] → e.drained = true →
      (∀ y ∈ x.bob, y.st = .staging → y.blocks = [] → e.adm ≤ y.adm) →
      (area.2 - area.1 < (e.ops.map opBlock).sum →
        EventGives s (.stagingAllocate c n) fun t => ∀ y ∈ (t.core c.val).bob, y.key ≠ e.key) ∧
      (∀ bs, (e.ops.map opBlock).sum ≤ area.2 - area.1 →
        allocBlocks area.1 area.2 (e.ops.map opBlock) (s.usedBlocks c.val) = some bs →
        EventGives s (.stagingAllocate c n) fun t => t.mem = s.mem ∧ InBobbin t c.val e.key fun y => y = { e with blocks := bs, began := s.waitSeq })) ∧
    (∀ q, Staging s c.val n e q → let o := e.opnd e.op; let r := e.recs.getD e.op 0
      (recExtent r < opOffset o + opSpan o →
        EventGives s (.stagingChunk c n) fun t => ∀ y ∈ (t.core c.val).bob, y.key ≠ e.key) ∧
      (∀ u, opOffset o + opSpan o ≤ recExtent r →
        (s.updTask c.val e.key fun y => { y with entry := some q }).checkHandle c.val c.val (s.occJob c.val) (opHandle o)
          (taskLog s c.val) = (.good, u) →
        mergePages (u.sourceSegs c.val r .engineRead o e.chunk).faults = [] →
        (∀ l ∈ linesAt [u.sourceSegs c.val r .engineRead o e.chunk], u.heldBefore (stageKey e.key) e.began l = false) →
        EventGives s (.stagingChunk c n) fun t => InBobbin t c.val e.key fun y =>
          y = { e with
                chunk := if e.chunk + 1 < opChunks o then e.chunk + 1 else if e.op + 1 < e.nops then 0 else e.chunk
                op := if e.chunk + 1 < opChunks o then e.op else if e.op + 1 < e.nops then e.op + 1 else e.nops
                st := if e.chunk + 1 < opChunks o ∨ e.op + 1 < e.nops then .staging else .ready
                entry := if e.chunk + 1 < opChunks o ∨ e.op + 1 < e.nops then some q else none })) ∧
    (∀ d ds, x.dying = d :: ds →
      exec (.stagingCancelComplete c) s = .next (s.setCore c.val { x with dying := ds }))

/-- R78, R87, R93, R94: the hottest READY entry with a free task slot leaves the bobbin and runs in it: its arguments are in s1 to
s4, its future in s5, at its entry address with every lane live. A finished task whose operands are written back fills its future
with its value, its range entries are released and its slot is FREE; a chunk to write back moves first. -/
def Sys2Proof.Slice0.TasksRunAndFillTheirFutures : Prop :=
  ∀ (s : State) (c : CoreId) (k : SlotNo),
    (∀ e n, s.dispatchable c.val = some (e, n) →
      EventGives s (.taskDispatch c) fun t => let w := t.warp c.val n
        (∀ y ∈ (t.core c.val).bob, y.key ≠ e.key) ∧ w.st = .active ∧ w.gen = (s.warp c.val n).gen + 1 ∧
        (∀ i < 4, w.rdS (1 + i) = BitVec.ofNat 64 (descNat e.line (96 + 8 * i) 8)) ∧
        w.rdS 5 = (if e.nofut then 0 else BitVec.ofNat 64 e.fut) ∧ w.id.task = true ∧ w.id.role = 3 ∧
        w.ctl = { pc := BitVec.ofNat 64 ((s.job (s.occJob c.val)).r.code + e.word % 2 ^ 32)
                  exec := laneMask (s.job (s.occJob c.val)).r.width, live := laneMask (s.job (s.occJob c.val)).r.width
                  path := laneMask (s.job (s.occJob c.val)).r.width } ∧
        ∃ rt, w.task = some rt ∧ rt.home = c.val ∧ rt.e = { e with drained := true }) ∧
    (∀ rt f, Finishing s c.val k.val rt f → let w := s.warp c.val k.val
      (∀ place, rt.e.nops ≤ f.op → f.fill = true → rt.e.nofut = false →
        s.wordAt c.val w.id.part .tagWrite rt.e.fut = .at place → rt.e.fut < 2 ^ 64 →
        EventGives s (.writebackChunk c k) fun t => (t.warp c.val k.val).st = .free ∧
          (rt.e.adm ≠ 0 → ∀ r ∈ t.ranges, ¬ (r.job = w.id.job ∧ r.adm = rt.e.adm)) ∧
          (s.tag (place + 8) = false → t.tag (place + 8) = true ∧
            (s.memoryOk = true → (s.core c.val).far = [] → (s.core c.val).l1.dirty = [] →
              t.read place 8 = bytesOf 8 f.val.toNat ∧ t.read (place + 8) 8 = bytesOf 8 f.status))) ∧
      (∀ u, f.op < rt.e.nops → s.checkHandle c.val c.val w.id.job (opHandle (rt.e.opnd f.op))
          (State.taskHandleError w.id.part c.val) = (.good, u) →
        (u.sourceSegs c.val (rt.e.recs.getD f.op 0) .engineWrite (rt.e.opnd f.op) f.chunk).faults = [] →
        exec (.writebackChunk c k) s = .next ((u.wbHold c.val k.val rt f).wbChunk c.val k.val rt f
          (u.sourceSegs c.val (rt.e.recs.getD f.op 0) .engineWrite (rt.e.opnd f.op) f.chunk).segs)))

/-- R57 to R73, R77, R78, R87, R93, R94: a task from its closure to its future. -/
def Obligations.TasksLiveThroughTheBobbin : Prop :=
  TasksBecomeReady ∧ StagingMovesOperands ∧ TasksRunAndFillTheirFutures

/-- R75, R79 to R82: an idle core probes the next victim of its sweep, which, when no dispatch or refill of its own is to go first,
grants an entry of the same job or answers empty; a stolen
entry enters the thief's bobbin bound to the slot that it reserved; a sweep that ends with nothing is followed by a wait of 512
ticks, which ends. -/
def Obligations.IdleCoresStealTasks : Prop :=
  ∀ (s : State) (c : CoreId), let x := s.core c.val
    (∀ v vs k inl, x.sweep.getD (s.victims c.val) = v :: vs → s.taskSlot c.val = some k → s.stealRoom c.val = some inl →
      s.idleCore c.val = true → x.steal = none → x.sweepAt = 0 →
      EventGives s (.stealProbe c) fun t => (t.core c.val).steal = some { slot := k, inl := inl, victim := v } ∧
        (t.core c.val).sweep = some vs ∧ t.slots = s.slots ∧ (t.core c.val).bob = x.bob) ∧
    (∀ y, x.steal = some y → y.reply = none → s.dispatchable y.victim = none → (s.core y.victim).refillable = false →
      EventGives s (.stealRequest c) fun t => ∃ r, (t.core c.val).steal = some { y with reply := some r } ∧
        ((s.core y.victim).occ ≠ x.occ → r = none) ∧
        (y.victim ≠ c.val → (r = none → (t.core y.victim).bob = (s.core y.victim).bob) ∧
          ∀ e, r = some e → 1 ≤ e.nsteal ∧ ∀ z ∈ (t.core y.victim).bob, z.key ≠ e.key)) ∧
    (∀ y, x.steal = some y →
      (y.reply = some none → EventGives s (.stealReply c) fun t => (t.core c.val).steal = none ∧ (t.core c.val).bob = x.bob ∧
        (x.sweep = some [] → (t.core c.val).sweep = none ∧ (t.core c.val).sweepAt = s.tick + 512)) ∧
      (∀ e, y.reply = some (some e) → y.inl = true → EventGives s (.stealReply c) fun t => (t.core c.val).steal = none ∧
        ∃ z, (t.core c.val).bob = z :: x.bob ∧ z.line = e.line ∧ z.bound = some y.slot ∧ z.parent = e.parent)) ∧
    (x.sweepAt ≠ 0 → x.sweepAt ≤ s.tick →
      exec (.stealSweepWaitExpiry c) s = .next (s.setCore c.val { x with sweepAt := 0 }))

/-- R26, R46, R47, R84, R85, R215, R353, R359, R393, R396, R446: a distributor starts its lowest team where there is room, the first
start being the job's placement, and asks the others for one when it holds none, but not on a die whose part of the job is
pre-empted or saved; a job whose work is done writes its dirty bytes out and leaves; a handler warp starts for a cause whose oldest
pending origin has waited 64 cycles; after 16 scored completions the clocks of a partition that is not pinned are balanced, and a
requested change takes effect. -/
def Obligations.TeamsStartAndJobsEnd : Prop :=
  ∀ (s : State) (d : DieId) (j : Nat), let jb := s.job j
    (s.jobs.has j = true → jb.runs = true →
      (∀ n x c, takeLowest jb d.val = some (n, x) → s.placeFor j d.val = some c → s.dieAway j d.val = false →
        exec (.distributorStartTeam d j) s =
          .next (if jb.cores = [] then s.startAll j else (s.setTeams j d.val x).startTeam j n c)) ∧
      (s.dieAway j d.val = true →
        exec (.distributorStartTeam d j) s = .refused (.notEnabled "DISTRIBUTOR_START_TEAM") ∧
        exec (.teamRequest d j) s = .refused (.notEnabled "TEAM_REQUEST")) ∧
      (s.dieAway j d.val = false → d.val ∈ jb.onDies → (jb.unst.getD d.val {}).asked = false → takeLowest jb d.val = none →
        (s.placeFor j d.val).isSome = true →
        ((∀ b ∈ jb.onDies, b ≠ d.val → s.dieAway j b = true ∨ takeHighest jb b = none) →
          EventGives s (.teamRequest d j) fun t => ((t.job j).unst.getD d.val {}).asked = true) ∧
        (∀ n x, (d.val + 1) % 4 ∈ jb.onDies → s.dieAway j ((d.val + 1) % 4) = false → takeHighest jb ((d.val + 1) % 4) = some (n, x) →
          EventGives s (.teamRequest d j) fun t => (t.job j).unst.getD ((d.val + 1) % 4) {} = x ∧
            n ∈ ((t.job j).unst.getD d.val {}).extra)) ∧
      (jb.gate = .open → s.jobOver j = true →
        EventGives s (.jobEnd j) fun t => (t.job j).phase = .ending ∧
          ∀ c ∈ jb.cores, (t.core c).l1.dirty = [] ∧ (t.core c).l1.clean = [])) ∧
    (∀ n i role, let w := teamWarp j jb n i role
      w.rdS 1 = BitVec.ofNat 64 (addrOf jb.args) ∧ w.rdS 2 = BitVec.ofNat 64 jb.argLen ∧ w.rdS 3 = BitVec.ofNat 64 jb.r.code ∧
      w.ctl.pc = BitVec.ofNat 64 (jb.r.code + jb.r.entry) ∧ w.ctl.exec = laneMask jb.r.width ∧ w.id.twarp = i) ∧
    (s.jobs.has j = true → jb.phase = .ending → EventGives s (.jobEndRecord j) fun t => t.jobs.look j = none) ∧
    (∀ (c : CoreId) k cause entry, s.freeHandler c.val = some k → ((s.job (s.occJob c.val)).stop).isNone = true →
      ((s.core c.val).causes.find? fun y => ((s.core c.val).oldestOf y).any (s.aged c.val)) = some cause →
      (s.job (s.occJob c.val)).handlers.look cause.toNat = some entry →
      EventGives s (.originAgeExpiry c) fun t => (t.warp c.val k).st = .active ∧ (t.warp c.val k).id.handler = true ∧
        (t.warp c.val k).ctl.pc = BitVec.ofNat 64 ((s.job (s.occJob c.val)).r.code + entry)) ∧
    (∀ (p : PartId), (s.part p.val).pin = true → exec (.clockBalance p) s = .refused (.notEnabled "CLOCK_BALANCE")) ∧
    (∀ (p : PartId), (s.part p.val).pin = false → 16 ≤ (s.part p.val).scored →
      EventGives s (.clockBalance p) fun t => (t.part p.val).scored = (s.part p.val).scored - 16 ∧
        (∀ k, (s.part p.val).clus.getLsbD k = true → t.scores.look k = none) ∧
        (∀ k, (s.part p.val).clus.getLsbD k = false →
          t.scores.look k = s.scores.look k ∧ t.clockReq.look k = s.clockReq.look k) ∧
        (∀ k v, (s.scores.filter fun x => (s.part p.val).clus.getLsbD x.1) = [(k, v)] →
          (v < 0 → t.clockReq.look k = some (min (s.clockGoal k - 1) 18)) ∧
          (0 < v → t.clockReq.look k = s.clockReq.look k ∨ t.clockReq.look k = some (min (s.clockGoal k + 1) 18)))) ∧
    (∀ (k : ClusterId) v, s.clockReq.look k.val = some v →
      EventGives s (.clusterClockChange k) fun t => t.clockReq.look k.val = none ∧
        t.clock k.val = if k.val ∈ s.hm.lowered then min v (s.clock k.val) else v)

/-! ## Caches, the directory, links; pages, faults and their replies -/

namespace Sys2Proof.Slice0

open Sys2Proof.Machine

/-- A core's L1 holds nothing of a line. -/
def Absent (s : State) (c line : Nat) : Prop :=
  (s.core c).l1.clean.look line = none ∧ ∀ a, lineOf a = line → (s.core c).l1.dirty.look a = none

/-- A heddle die serves a requester's requests for a line: the requester's traffic is carried, the die is up and is not rebuilding the
line, and the line's region is not broadcast. -/
def Serving (s : State) (q line : Nat) : Prop :=
  deviceLine line = true ∧ s.carried q line = true ∧ s.hd.up.getLsbD (s.hd.dieFor line) = true ∧ (∀ e ∈ s.hd.lostDir, e.line ≠ line) ∧
  s.hd.bcast.has (region line) = false

end Sys2Proof.Slice0

/-- R99, R130, R140, R143, R445: an eviction takes a line out of an L1, and, where no release is recorded, leaves every other line as it
was; a die that evicts a dirty line answers for it until the home has acknowledged its write-back, and then holds no copy; a line
stored in its stack has a 32-byte unit clean only when all four words are; the eviction and a snoop drain the cores that the line's
record names. -/
def Sys2Proof.Slice0.EvictionsWriteBackTheirLines : Prop :=
  ∀ (s : State) (c : CoreId) (d : DieId) (line : Nat),
    ((s.core c.val).l1.clean.has line = true ∨ (∃ p ∈ (s.core c.val).l1.dirty, lineOf p.1 = line) →
      EventGives s (.l1Eviction c line) fun t => Absent t c.val line ∧ t.tags = s.tags ∧
        (NoReleases s → ∀ a, lineOf a ≠ line → (t.core c.val).l1.dirty.look a = (s.core c.val).l1.dirty.look a)) ∧
    (s.holdsDirty d.val line = true → 4 * line + d.val ∉ s.hd.wbs →
      EventGives s (.l2Eviction d line) fun t => 4 * line + d.val ∈ t.hd.wbs ∧ (t.die d.val).recs.getD line [] = [] ∧
        ∀ p ∈ (s.die d.val).recs.getD line [], (t.core p.1).l1.dirty = []) ∧
    (4 * line + d.val ∈ s.hd.wbs →
      EventGives s (.writebackAck d line) fun t => 4 * line + d.val ∉ t.hd.wbs ∧ t.cores = s.cores ∧
        (∀ e ∈ t.hd.dir, e.line = line → e.dst.getD d.val 0 = 0) ∧
        (isHostPlace line = true → ∀ a, lineOf a = line → (t.die (homeDie line)).hdirty.look a = none) ∧
        (isHostPlace line = false → t.mem = s.mem ∧ ∀ i < 4, ∀ k < 4, s.poison.getD (line + 32 * i + 8 * k) false = true →
          ∀ n < 4, t.poison.getD (line + 32 * i + 8 * n) false = true)) ∧
    (deviceLine line = true →
      EventGives s (.heddleSnoop d line) fun t => (t.die d.val).recs.getD line [] = [] ∧ t.tags = s.tags ∧
        (NoReleases s → t = s) ∧ ∀ p ∈ (s.die d.val).recs.getD line [], (t.core p.1).l1.dirty = [])

/-- R140, R142, R168, R414, R415: a die's request for a line: a write leaves that die the only holder, in M, and invalidates the other
copies; a read leaves no other die in E or M, where no release is recorded that a request drains; a first copy takes an entry of its
set, and a full set recalls its oldest, after which its entry is gone. A member's first request for a line of this package's memory
makes it the holder, and its write brings the bytes. A recall without an answer for 75,000 ticks makes its region a broadcast
region, whose regions without copies the sweep removes. -/
def Sys2Proof.Slice0.DirectoryServesRequests : Prop :=
  ∀ (s : State) (d : DieId) (line : Nat) (wr : Bool) (h : Fin 2),
    (Serving s d.val line →
      (∀ e, s.hd.entry line = some e →
        EventGives s (.directoryRequest (.die d) line wr) fun t =>
          (wr = true → line ∈ t.touched ∧ ∀ x ∈ t.hd.dir, x.line = line →
            x.pkgv = 0 ∧ x.pkgw = false ∧ x.dst.getD d.val 0 = 4 ∧ ∀ i, i ≠ d.val → x.dst.getD i 0 = 0) ∧
          (wr = false → NoReleases s → e.dst.length = 4 → ∀ x ∈ t.hd.dir, x.line = line → x.dst.getD d.val 0 ≠ 0 ∧
            (e.dst.getD d.val 0 = 0 → ∀ i, i ≠ d.val → x.dst.getD i 0 ≠ 2 ∧ x.dst.getD i 0 ≠ 4))) ∧
      (s.hd.entry line = none → s.isHome d.val line = false →
        ((s.hd.ways line).length < 16 →
          EventGives s (.directoryRequest (.die d) line wr) fun t => (wr = true → line ∈ t.touched) ∧
            (NoReleases s → ∃ x ∈ t.hd.dir, x.line = line ∧ x.age = s.hd.nextAge ∧
              x.dst.getD d.val 0 = if wr then 4 else 2)) ∧
        (∀ v, 16 ≤ (s.hd.ways line).length → s.hd.recalls.look (s.hd.dieFor line) = none → oldest (s.hd.ways line) = some v →
          EventGives s (.directoryRequest (.die d) line wr) fun t => t.hd.nRecall = s.hd.nRecall + 1 ∧ t.hd.dir = s.hd.dir ∧
            t.hd.recalls.look (s.hd.dieFor line) = some { victim := v.line, die := d.val, line := line, write := wr, tick := s.tick
                                                          seq := s.hd.seqs.getD d.val 0, bytes := [] }))) ∧
    (∀ (pos : Fin 8) bs, Serving s (4 + pos.val) line → posOf line = s.groupPos → s.hd.entry line = none →
      (s.hd.ways line).length < 16 → NoReleases s →
      EventGives s (.directoryRequest (.member pos bs) line wr) fun t => (wr = true → line ∈ t.touched) ∧
        (∃ x ∈ t.hd.dir, x.line = line ∧ x.pkgv = BitVec.ofNat 8 (2 ^ pos.val) ∧ x.pkgw = true ∧ x.pkgm = wr ∧ ∀ i, x.dst.getD i 0 = 0) ∧
        (bs.length = 128 → t.read line 128 = if wr then bs else s.read line 128)) ∧
    (∀ r, s.hd.recalls.look h.val = some r →
      (EventGives s (.recallComplete h) fun t => r.victim ∈ t.touched ∧
        (NoReleases s → r.line ≠ r.victim → ∀ e ∈ t.hd.dir, e.line ≠ r.victim)) ∧
      (r.tick + 75000 ≤ s.tick → s.hd.bcast.length < 4096 →
        EventGives s (.recallTimeout h) fun t => t.hd.recfail = s.hd.recfail + 1 ∧
          t.hd.bcast.has (region r.victim) = true ∧ ∀ e ∈ t.hd.dir, region e.line ≠ region r.victim)) ∧
    (s.hd.swept < s.tick / 1500000 →
      EventGives s .overflowSweep fun t => t.hd.swept = s.tick / 1500000 ∧ t.hd.dir = s.hd.dir ∧
        ∀ p ∈ t.hd.bcast, p ∈ s.hd.bcast ∧ ∃ e ∈ p.2, e.beyond s.groupPos = true)

/-- R99, R140, R142, R143, R414, R415: lines leave caches, and the directory grants and recalls them. -/
def Obligations.EvictionsAndTheDirectory : Prop :=
  EvictionsWriteBackTheirLines ∧ DirectoryServesRequests

/-- R123, R384, R417 to R419: a lost heddle die takes its entries and its ports with it, and die 0 the front end; requests
outstanding there go to the survivor, and the rebuilt entries stand again. A port goes down when it loses lock or 16 replays in a
row fail, and comes up again with the members that it reaches; a member that no up port has reached for 1,500,000 ticks, 1 ms, gives up its copies, and the lines that it held in M or O, those
alone, are poisoned; a scrub counts what it corrects and poisons what it cannot. -/
def Obligations.LostPartsAreContained : Prop :=
  ∀ (s : State) (h : Fin 2) (d : DieId) (port : Fin 16),
    (s.hd.up.getLsbD h.val = true →
      EventGives s (.heddleDieLoss h) fun t => t.hd.up.getLsbD h.val = false ∧ t.hd.rebuild = true ∧
        (∀ e ∈ t.hd.dir, s.hd.dieFor e.line ≠ h.val) ∧
        (∀ i < 16, t.hd.ports.getLsbD i = (s.hd.ports.getLsbD i && decide (i / 8 ≠ h.val))) ∧
        (h.val = 0 → t.feLost = true ∧ ∀ p < 8, ∀ q < 64, (t.queue p q).stopped = true ∧ (t.queue p q).err = 8)) ∧
    (∀ r, (s.hd.lostReq.find? fun r => r.die == d.val && decide (r.tick + 30000 ≤ s.tick)) = some r →
      let u := { s with hd := { s.hd with lostReq := s.hd.lostReq.filter (· != r) } }
      (s.hd.answered r = true → exec (.requestResend d) s = .next u) ∧
      (∀ t, s.hd.answered r = false → u.dirRequest r.die r.line r.write r.bytes = some t → exec (.requestResend d) s = .next t)) ∧
    (s.hd.rebuild = true → s.hd.up ≠ 0 →
      EventGives s .directoryRebuildComplete fun t => t.hd.rebuild = false ∧ t.hd.degraded = true ∧ t.hd.lostDir = [] ∧
        ∀ e, s.hd.lostDir = [e] → (s.hd.ways e.line).length < 16 →
          ∃ x ∈ t.hd.dir, x.line = e.line ∧ x.dst = e.dst ∧ x.pkgv = e.pkgv ∧ x.pkgw = e.pkgw) ∧
    (s.hd.ports.getLsbD port.val = true →
      (EventGives s (.scaskaxonPortDown port) fun t => t.hd.ports = s.hd.ports &&& ~~~(portBit port.val)) ∧
      (EventGives s (.linkLevelReplay port true) fun t => t.hd.ports = s.hd.ports ∧ t.hd.replays.getD port.val 0 = 0) ∧
      (let n := s.hd.replays.getD port.val 0 + 1
       EventGives s (.linkLevelReplay port false) fun t =>
        (n < 16 → t.hd.ports = s.hd.ports ∧ t.hd.replays.getD port.val 0 = n) ∧
        (n = 16 → t.hd.ports = s.hd.ports &&& ~~~(portBit port.val)))) ∧
    (s.hd.ports.getLsbD port.val = false → s.hd.up.getLsbD (port.val / 8) = true →
      ∀ members same, EventGives s (.scaskaxonPortUp ⟨port, members, same⟩) fun t => t.hd.ports = s.hd.ports ||| portBit port.val ∧
        t.hd.reach.getD port.val 0 = members ∧ t.hd.foreign.getLsbD port.val = !same ∧ t.hd.replays.getD port.val 0 = 0) ∧
    (∀ (pos : Fin 8) t0, s.groupHas pos.val = true → pos.val ≠ s.groupPos → s.hd.unreach.getLsbD pos.val = false →
      s.hd.cut.look pos.val = some t0 → t0 + 1500000 ≤ s.tick →
      let every := s.hd.dir ++ s.hd.lostDir ++ s.hd.bcast.flatMap Prod.snd
      EventGives s (.memberUnreachable pos) fun t => t.hd.unreach.getLsbD pos.val = true ∧
        t.hm.hdeg = satAdd s.hm.hdeg 1 ∧ (∀ e ∈ t.hd.dir, e.pkgv.getLsbD pos.val = false) ∧
        (s.hd.recalls = [] → ∀ u,
          ((∃ e ∈ every, e.heldBy pos.val = true ∧ u ∈ unitsOf e.line 128) → t.poison.getD u false = true) ∧
          ((∀ e ∈ every, e.heldBy pos.val = true → u ∉ unitsOf e.line 128) → t.poison.getD u false = s.poison.getD u false))) ∧
    (∀ n bad, EventGives s (.scrubPass n bad) fun t => t.hm.cerr = satAdd s.hm.cerr n ∧ t.mem = s.mem ∧
      ∀ a ∈ bad, ∀ u ∈ errorUnits a, t.poison.getD u false = true)

/-- R2, R220, R406: a walk that a miss in a core's TLB and its die's started, and that reaches a leaf, leaves it in both, which hold no more
than their entries, and every access of the core to the page translates as before; a leaf that the die's TLB holds goes to the
core's without a walk. -/
def Obligations.PageWalksKeepTranslations : Prop :=
  ∀ (s : State) (p : PartId) (host : Bool) (va : BitVec 64) (k : AccessKind) (c : CoreId), let x := s.part p.val
    let key := tlbKey p.val host va.toNat
    let L2 := fun (u : State) => (u.die (dieOf c.val)).tlb
    x.en = true → (s.core c.val).tlb.has key = false → (host = false ∨ x.hptbase ≠ 0) →
    (∀ e, (L2 s).look key = some e →
      EventGives s (.pageWalk p host va k c) fun t => (t.core c.val).tlb.look key = some e ∧ t.mem = s.mem ∧ t.dies = s.dies ∧
        ((s.core c.val).tlb.length ≤ 128 → (t.core c.val).tlb.length ≤ 128)) ∧
    ((L2 s).look key = none →
      (∀ e n, s.walk p.val host va.toNat = .leaf e n →
        EventGives s (.pageWalk p host va k c) fun t =>
          (t.core c.val).tlb.look key = some (tlbLeaf e n va.toNat) ∧ (L2 t).look key = some (tlbLeaf e n va.toNat) ∧
          ((s.core c.val).tlb.length ≤ 128 → (t.core c.val).tlb.length ≤ 128) ∧
          ((L2 s).length ≤ 16384 → (L2 t).length ≤ 16384) ∧
          (NoReleases s → t.mem = s.mem) ∧
          ∀ kind, t.translate c.val p.val host kind va.toNat = s.translate c.val p.val host kind va.toNat) ∧
      ((∀ e n, s.walk p.val host va.toNat ≠ .leaf e n) →
        exec (.pageWalk p host va k c) s = .next (s.walkReads p.val host va.toNat)))

/-- R221, R222, R407 to R409: a page's fault record goes to the fault queue while there is room; a reply frees the page, and what
waited for it goes on, or meets the failure that the reply declares; a reply to no fault is counted. An invalidation takes the
entries of its range out of the TLBs and no others; a page's tags are set to the value asked for. Before the ready stage nothing that
the host writes has an effect. -/
def Obligations.PageFaultsAreReportedAndAnswered : Prop :=
  ∀ (s : State) (p : PartId) (c : CoreId) (k : SlotNo) (n : Nat) (num : BitVec 62) (v : BitVec 64), let x := s.part p.val
    let size := 2 ^ x.fqlog2.toNat
    let place := regPlace x.fqbase + 32 * (x.fqwidx.toNat % size)
    (∀ f, s.unsent p.val n = some f → (x.fqwidx - x.fqridx).toNat < size →
      EventGives s (.faultRecordSend p n) fun t => (t.part p.val).fqwidx = x.fqwidx + 1 ∧
        (t.part p.val).faultNum = x.faultNum + 1 ∧ { f with num := some x.faultNum } ∈ t.faults ∧
        (isHostPlace place = false → readN t.mem place 32 = faultRec f x.faultNum)) ∧
    (s.barOpen = true →
      ((∀ f ∈ s.faults, ¬ (f.part = p.val ∧ f.num = some num.toNat)) →
        (EventGives s (.faultReplyResolved p num) fun t => (t.part p.val).dupl = x.dupl + 1 ∧ t.faults = s.faults) ∧
        (EventGives s (.faultReplyUnresolvable p num) fun t => (t.part p.val).dupl = x.dupl + 1 ∧ t.faults = s.faults)) ∧
      (∀ f, (s.faults.find? fun f => f.part == p.val && f.num == some num.toNat) = some f → s.fills = [] →
        (EventGives s (.faultReplyResolved p num) fun t => (t.part p.val).freply = BitVec.ofNat 64 (1 + 4 * num.toNat) ∧
          t.faults = s.faults.filter (fun z => !z.isFor f.part f.unit f.page f.host) ∧
          ∀ e ∈ (t.warp c.val k.val).log, ∀ q ∈ e.pages,
            answers f (t.warp c.val k.val).id.part (unitOfCore c.val) q = false) ∧
        (EventGives s (.faultReplyUnresolvable p num) fun t => (t.part p.val).freply = BitVec.ofNat 64 (2 + 4 * num.toNat) ∧
          t.faults = s.faults.filter (fun z => !z.isFor f.part f.unit f.page f.host) ∧
          ∀ (i : Nat) (e : LogEntry), (s.warp c.val k.val).log[i]? = some e →
            (∃ q ∈ e.pages, answers f (s.warp c.val k.val).id.part (unitOfCore c.val) q = true) →
            ∃ y : LogEntry, (t.warp c.val k.val).log[i]? = some y ∧ y.num = e.num ∧ y.dead.isSome = true)) ∧
      (x.invBusy = false → bits v 0 3 ≤ 3 ∨ bits v 0 3 = 7 →
        EventGives s (.tlbInvalidate p v) fun t => (t.part p.val).invBusy = true ∧ (t.part p.val).inval = v &&& 0x01FFFFFFFFFFF00F) ∧
      (∀ y, x.pgBusy = false → pginitLines (v &&& 0x000FFFFFFFFFF00D) = some y → paOwned x y.1 = true →
        EventGives s (.pageTagInit p v) fun t => (t.part p.val).pgBusy = true ∧
          (t.part p.val).pginit = v &&& 0x000FFFFFFFFFF00D)) ∧
    (x.invBusy = true →
      EventGives s (.invalidationComplete p) fun t => (t.part p.val).invBusy = false ∧ t.mem = s.mem ∧
        ∀ key,
          (t.core c.val).tlb.look key = (if invalCovers p.val x.inval key then none else (s.core c.val).tlb.look key) ∧
          ∀ d, (t.die d).tlb.look key = if invalCovers p.val x.inval key then none else (s.die d).tlb.look key) ∧
    (∀ a m, x.pgBusy = true → pginitLines x.pginit = some (a, m) →
      EventGives s (.pageTagInitComplete p) fun t => (t.part p.val).pgBusy = false ∧
        ∀ i < 16 * m, t.tag (a + 8 * i) = x.pginit.getLsbD 0) ∧
    (s.barOpen = false → exec (.faultReplyResolved p num) s = .next s ∧ exec (.faultReplyUnresolvable p num) s = .next s ∧
      exec (.tlbInvalidate p v) s = .next s ∧ exec (.pageTagInit p v) s = .next s)

/-! ## Queues and packets -/

namespace Sys2Proof.Slice0

open Sys2Proof.Machine

/-- The packet at a queue's RIDX is of a type, well formed, and may start (R388, R390, R399). -/
def Starts (s : State) (part q type : Nat) (p : List Byte) : Prop :=
  s.queueStarts part q = true ∧ s.headOf part q type = some p

/-- The front end's access to 8 bytes or more of device memory in one line, every page at hand. -/
def FeAt (s : State) (part : Nat) (kind : AccessKind) (addr : W64) (n place : Nat) : Prop :=
  (s.feSpan part kind addr n).faults = [] ∧ (s.feSpan part kind addr n).segs = [(place, n)] ∧ isHostPlace place = false

/-- The same, and no engine owns the line and has still to write it (R122). -/
def FeFree (s : State) (part : Nat) (kind : AccessKind) (addr : W64) (n place : Nat) : Prop :=
  FeAt s part kind addr n place ∧ s.owned.has (lineOf place) = false

/-- The value that the front end reads at a place: every recorded core drained. -/
def feValue (s : State) (place : Nat) : Nat := natOf (s.feReads [(place, 8)]).1

/-- The word that a WAITW packet waits for, started at this state (R391). -/
def waitOf (s : State) (part q : Nat) (p : List Byte) : WaitWord :=
  { idx := (s.queue part q).ridx.toNat, addr := BitVec.ofNat 64 (descNat p 8 8), thr := BitVec.ofNat 64 (descNat p 16 8)
    mode := descNat p 24 1, intr := (descNat p 1 1).testBit 0
    limit := if descNat p 32 8 = 0 then none else some (s.tai + 2 ^ 16 * descNat p 32 8) }

/-- A started queue with a WAITW in progress. -/
def waiting (s : State) (part q : Nat) (p : List Byte) : State :=
  (s.packetStarts part q).setQueue part q { (s.packetStarts part q).queue part q with waitw := some (waitOf s part q p) }

/-- A TIMED packet of a queue and its follower. -/
def TimedAt (s : State) (part q : Nat) (x : TimedPkt) (p : List Byte) : Prop :=
  (s.queue part q).timed = some x ∧ s.follower part q = some p

end Sys2Proof.Slice0

/-- R384, R385, R387, R389: while the front end runs, a write of FE_QCTL enables a queue whose size is in range or disables it; a write
of FE_QWIDX adds packets, or sets KERR when the queue would overflow; a write of FE_QRIDX sets both indices of a disabled queue and
clears its error. While it does not run, nothing changes. -/
def Sys2Proof.Slice0.QueueRegistersControlTheirQueue : Prop :=
  ∀ (s : State) (p : PartId) (q : QueueNo) (v : BitVec 64) (n : BitVec 32), let x := s.queue p.val q.val
    (s.feReady = true → s.feLost = false →
      (EventGives s (.queueEnable p q v) fun t => let y := t.queue p.val q.val
        y.en = (decide (4 ≤ bits v 0 5) && decide (bits v 0 5 ≤ 20)) ∧ y.log2.toNat = bits v 0 5 ∧
        y.vec.toNat = bits v 16 6 ∧ y.ridx = x.ridx ∧ y.widx = x.widx) ∧
      (exec (.queueDisable p q) s = .next (s.setQueue p.val q.val { x with en := false })) ∧
      (EventGives s (.feQwidxWrite p q n) fun t => let y := t.queue p.val q.val
        (2 ^ x.log2.toNat < (n - x.ridx).toNat → y.kerr = true ∧ y.widx = x.widx) ∧
        ((n - x.ridx).toNat ≤ 2 ^ x.log2.toNat → y.kerr = x.kerr ∧
          y.widx = if 1 ≤ (n - x.widx).toNat ∧ (n - x.widx).toNat < 2 ^ 31 then n else x.widx)) ∧
      (EventGives s (.feQridxWrite p q n) fun t => let y := t.queue p.val q.val
        (x.en = false → y.ridx = n ∧ y.widx = n ∧ y.stopped = false ∧ y.err = 0) ∧ (x.en = true → t = s))) ∧
    (s.feReady = false ∨ s.feLost = true → exec (.queueEnable p q v) s = .next s ∧ exec (.queueDisable p q) s = .next s ∧
      exec (.feQwidxWrite p q n) s = .next s ∧ exec (.feQridxWrite p q n) s = .next s)

/-- R390, R393 to R397: LAUNCH starts, and makes a job with the packet's arguments, or ends rejected with no job; RESUME starts the
restore of an image, or ends when its check fails; what a packet ends with, while the front end runs, is the status record, then the
signal, then the interrupt, which is pending instead while its vector is masked. -/
def Sys2Proof.Slice0.LaunchAndResumeStart : Prop :=
  ∀ (s : State) (part : PartId) (q : QueueNo) (p : List Byte), let pk := pktOf q.val (s.queue part.val q.val).ridx.toNat p
    (∀ x u, Starts s part.val q.val 1 p → s.launchReads part.val q.val p = .ok (x, u) →
      (u.launchCheck part.val x = none → (u.queue part.val q.val).ridx = (s.queue part.val q.val).ridx →
        EventGives s (.launch part q) fun t => (t.queue part.val q.val).ridx = (s.queue part.val q.val).ridx + 1 ∧
          t.nextJob = u.nextJob + 1 ∧ let jb := t.job u.nextJob
          jb.phase = .running ∧ jb.pk = pk ∧ jb.args = BitVec.ofNat 64 (descNat p 16 8) ∧ jb.argLen = descNat p 24 4 ∧
          jb.raw = x.raw.getD [] ∧ jb.num = q.val + 64 * (pk.idx % 2 ^ 26) ∧ jb.part = part.val) ∧
      (∀ r d, u.launchCheck part.val x = some (r, d) →
        EventGives s (.launch part q) fun t => t.nextJob = u.nextJob ∧ t.jobs = u.jobs)) ∧
    (Starts s part.val q.val 2 p → let a := BitVec.ofNat 64 (descNat p 8 8)
      (∀ ctx, s.checkImage part.val q.val a = .ok ctx → EventGives s (.resume part q) fun t =>
        (t.queue part.val q.val).ridx = (s.queue part.val q.val).ridx + 1 ∧
        t.restores = s.restores ++ [{ part := part.val, pk := pk, addr := a, ctx := ctx }]) ∧
      (∀ c r d, s.checkImage part.val q.val a = .ends c r d → EventGives s (.resume part q) fun t =>
        (t.queue part.val q.val).ridx = (s.queue part.val q.val).ridx + 1 ∧ t.restores = s.restores)) ∧
    (∀ k code reason detail place, s.feLost = false → k.stat ≠ 0 → code = 3 ∨ k.sigOp = 0 → FeFree s part.val .write k.stat 32 place →
      let t := s.endPacket part.val k code reason detail
      readN t.mem place 32 = s.statusRecord code reason k detail ∧ k.idx ∉ (t.queue part.val k.q).started ∧
      (let fn := (s.part part.val).fn.toNat
       let vec := (s.queue part.val k.q).vec.toNat
       (s.pcie = true → k.intr = true → s.masked fn vec = false → t.msix = s.msix ++ [(fn, vec)]) ∧
       (k.intr = true → s.masked fn vec = true → t.msix = s.msix ∧ t.msixPba.getD (64 * fn + vec) false = true) ∧
       (k.intr = false → t.msix = s.msix ∧ t.msixPba = s.msixPba)))

/-- R122, R146, R388, R390 to R392, R402: WAITW tests its word as it starts, and completes or waits until a write meets its condition or its time
passes, which stops the queue; SIGNAL writes, adds or fills its word; COPY begins and owns its destination lines, and its last chunk, no
earlier engine holding its lines, puts the source's bytes at the destination and completes it; FENCE completes when every earlier packet
has; MARK writes its record of 32 bytes, which the spec leaves open (a free value), and nothing else. -/
def Sys2Proof.Slice0.PacketsStartAndComplete : Prop :=
  ∀ (s : State) (part : PartId) (q : QueueNo) (p : List Byte), let x := s.queue part.val q.val
    let u := s.packetStarts part.val q.val
    (∀ place, let z := waitOf s part.val q.val p; let w := waiting s part.val q.val p
      Starts s part.val q.val 3 p →
      (z.mode = 1 → FeFree w part.val .read z.addr 8 place →
        EventGives s (.waitw part q) fun t => (t.queue part.val q.val).ridx = x.ridx + 1 ∧
          (t.queue part.val q.val).waitw = if z.thr.toNat ≤ feValue w place then none else some z) ∧
      (z.mode = 2 → FeFree w part.val .read z.addr 8 place →
        EventGives s (.waitw part q) fun t => (t.queue part.val q.val).ridx = x.ridx + 1 ∧
          (t.queue part.val q.val).waitw = if z.thr.toInt ≤ (BitVec.ofNat 64 (feValue w place)).toInt then none else some z) ∧
      (z.mode = 0 → FeFree w part.val .tagRead z.addr 8 place → (w.feSpan part.val .tagRead z.addr 8).tagged = true →
        EventGives s (.waitw part q) fun t => (t.queue part.val q.val).ridx = x.ridx + 1 ∧
          (t.queue part.val q.val).waitw = if w.tag place then none else some z)) ∧
    (∀ z, x.waitw = some z →
      (∀ place, s.packetLives part.val q.val = true → x.parked = false → z.mode = 1 → FeFree s part.val .read z.addr 8 place →
        z.thr.toNat ≤ feValue s place →
        EventGives s (.waitw part q) fun t => (t.queue part.val q.val).waitw = none ∧ (t.queue part.val q.val).ridx = x.ridx) ∧
      (∀ l, z.limit = some l → l ≤ s.tai → s.feLost = false → x.stopped = false →
        EventGives s (.waitwTimeout part q) fun t => (t.queue part.val q.val).stopped = true ∧
          (t.queue part.val q.val).err = 5 ∧ (t.queue part.val q.val).eidx = BitVec.ofNat 32 z.idx)) ∧
    (∀ place, let addr := BitVec.ofNat 64 (descNat p 8 8); let val := descNat p 16 8
      Starts s part.val q.val 4 p →
      (descNat p 24 1 = 3 → FeFree u part.val .write addr 8 place →
        EventGives s (.signal part q) fun t => t.readNat place 8 = val ∧ (t.queue part.val q.val).ridx = x.ridx + 1) ∧
      (descNat p 24 1 = 2 → FeFree u part.val .atomic addr 8 place →
        EventGives s (.signal part q) fun t => t.readNat place 8 = (feValue u place + val) % 2 ^ 64) ∧
      (descNat p 24 1 = 1 → addrHost addr = false → FeFree u part.val .write addr 8 place →
        (u.feSpan part.val .write addr 8).tagged = true →
        EventGives s (.signal part q) fun t => t.readNat place 8 = val ∧ t.tag place = true)) ∧
    (Starts s part.val q.val 5 p →
      EventGives s (.copy part q) fun t => (t.queue part.val q.val).ridx = x.ridx + 1 ∧
        ∃ z ∈ t.copies, z.part = part.val ∧ z.pk = pktOf q.val x.ridx.toNat p ∧ z.src = BitVec.ofNat 64 (descNat p 8 8) ∧
          z.dst = BitVec.ofNat 64 (descNat p 16 8) ∧ z.len = descNat p 24 8 ∧ z.pos = 0 ∧ z.order = u.waitSeq ∧
          ∀ l ∈ segLines (u.feSpan part.val .engineWrite z.dst z.len).segs, t.owned.has l = true) ∧
    (∀ c, s.feLost = false → s.copyOf part.val q.val = some c → c.len ≤ c.pos + 4096 → let n := c.len - c.pos
      let src := c.src + BitVec.ofNat 64 c.pos
      let dest := c.dst + BitVec.ofNat 64 c.pos
      (s.feSpan part.val .engineRead src n).faults = [] → (s.feSpan part.val .engineWrite dest n).faults = [] →
      (∀ l ∈ segLines ((s.feSpan part.val .engineRead src n).segs ++ (s.feSpan part.val .engineWrite dest n).segs),
        s.heldBefore (copyOwner c) c.order l = false) →
      EventGives s (.copyComplete part q) fun t => (∀ z ∈ t.copies, ¬ (z.part = c.part ∧ z.pk = c.pk)) ∧
        (c.pk.stat = 0 → c.pk.sigOp = 0 → c.pk.idx ∉ (t.queue part.val c.pk.q).started ∧
          ∀ a b, FeAt s part.val .engineRead src n a → FeAt s part.val .engineWrite dest n b →
            (s.feReads [(a, n)]).2.poisoned a n = false → readN t.mem b n = (s.feReads [(a, n)]).1)) ∧
    (Starts s part.val q.val 7 p → x.started = [] →
      EventGives s (.fencePacket part q) fun t => (t.queue part.val q.val).ridx = x.ridx + 1 ∧
        (t.queue part.val q.val).started = [] ∧ t.mem = u.mem) ∧
    (Starts s part.val q.val 8 p →
      EventGives s (.mark part q) fun t => (t.queue part.val q.val).ridx = x.ridx + 1 ∧ t.jobs = s.jobs ∧
        ∀ place, FeFree u part.val .write (BitVec.ofNat 64 (descNat p 8 8)) 32 place →
          readN t.mem place 32 = Config.freeBytes s.freeIdx 32 ∧
          (NoReleases u → t.freeIdx = u.freeIdx + 1 ∧ t.tags = u.tags ∧
            ∀ a, a < place ∨ place + 32 ≤ a → t.mem.getD a 0 = u.mem.getD a 0))

/-- R388 to R397, R402: packets. -/
def Obligations.PacketsRunFromStartToEnd : Prop :=
  LaunchAndResumeStart ∧ PacketsStartAndComplete

/-- R401: a TIMED packet holds its queue; its follower is prepared from its trigger less FE_TLEAD on, a LAUNCH as a job whose warps
do not issue, a RESUME as a restore that is held; within 10 ns of the trigger it is released, a late one under POLICY 1 dropped; the
job's warps first issue FE_TDELAY after the trigger, or after a late release. -/
def Obligations.TimedPacketsWaitForTheirTrigger : Prop :=
  ∀ (s : State) (part : PartId) (q : QueueNo) (p : List Byte) (x : TimedPkt),
    (Starts s part.val q.val 6 p →
      EventGives s (.timed part q) fun t => (t.queue part.val q.val).ridx = (s.queue part.val q.val).ridx + 1 ∧
        ∃ y, (t.queue part.val q.val).timed = some y ∧ y.trigger = 2 ^ 16 * descNat p 8 8 + descNat p 16 2 ∧
          (y.drop = true ↔ descNat p 18 1 = 1) ∧ y.prep = .waiting) ∧
    (TimedAt s part.val q.val x p → x.prep = .waiting → x.trigger ≤ s.tai + 2 ^ 16 * (s.part part.val).tlead.toNat →
      (descNat p 0 1 = 4 →
        exec (.timedPrepare part q) s = .next (s.setTimed part.val q.val { x with prep := .begun none 0 0 0 })) ∧
      (descNat p 0 1 = 2 → let a := BitVec.ofNat 64 (descNat p 8 8)
        (∀ ctx, s.checkImage part.val q.val a = .ok ctx → EventGives s (.timedPrepare part q) fun t =>
          (t.queue part.val q.val).timed = some { x with prep := .begun none 0 0 0 } ∧
          t.restores = s.restores ++ [{ part := part.val, pk := pktOf q.val (s.queue part.val q.val).ridx.toNat p, addr := a
                                        ctx := ctx, held := true }]) ∧
        (∀ c r d, s.checkImage part.val q.val a = .ends c r d →
          exec (.timedPrepare part q) s = .next (s.setTimed part.val q.val { x with prep := .begun none c r d }))) ∧
      (∀ y u, descNat p 0 1 = 1 → s.launchReads part.val q.val p = .ok (y, u) → u.launchCheck part.val y = none →
        EventGives s (.timedPrepare part q) fun t => (t.job u.nextJob).phase = .prepared ∧ (t.job u.nextJob).gate = .shut ∧
          (t.queue part.val q.val).timed = some { x with prep := .begun (some u.nextJob) 0 0 0 })) ∧
    (∀ j c r d, TimedAt s part.val q.val x p → x.prep = .begun j c r d → s.tai ≤ x.trigger + tenNs →
      c ≠ 0 ∨ (∃ i, j = some i ∧ ∃ e ∈ (s.job i).onDies, (s.placeFor i e).isSome = true) ∨
        (j = none ∧ (descNat p 0 1 = 2 → ∃ y, s.heldRestore part.val q.val = some y ∧ y.map.isSome = true)) →
      EventGives s (.timedPreparationComplete part q) fun t =>
        (t.queue part.val q.val).timed = some { x with prep := .done j c r d }) ∧
    (∀ j r d, TimedAt s part.val q.val x p → x.prep = .done (some j) 0 r d → descNat p 0 1 = 1 → s.jobs.has j = true →
      x.trigger ≤ s.tai + tenNs →
      (s.tai ≤ x.trigger + tenNs →
        EventGives s (.timedRelease part q) fun t => (t.job j).phase = .running ∧ (t.job j).late = 0 ∧
          (t.job j).gate = .from (max s.tai x.trigger + 2 ^ 16 * min 300 (Config.tdelay part.val)) ∧
          (t.queue part.val q.val).timed = none ∧ (t.queue part.val q.val).ridx = (s.queue part.val q.val).ridx + 1) ∧
      (x.trigger + tenNs < s.tai → x.drop = false →
        EventGives s (.timedRelease part q) fun t => (t.job j).phase = .running ∧ (t.job j).late = (s.tai - x.trigger) / 2 ^ 16 ∧
          (t.job j).gate = .from (s.tai + 2 ^ 16 * min 300 (Config.tdelay part.val))) ∧
      (x.trigger + tenNs < s.tai → x.drop = true →
        EventGives s (.timedRelease part q) fun t => t.jobs.look j = none ∧ (t.queue part.val q.val).timed = none ∧
          (t.queue part.val q.val).ridx = (s.queue part.val q.val).ridx + 1)) ∧
    (∀ j jb, s.feLost = false → (s.jobs.find? fun y => y.2.part == part.val && y.2.pk.q == q.val &&
        match y.2.gate with | .from t => decide (t ≤ s.tai + tenNs) | _ => false) = some (j, jb) →
      EventGives s (.timedFirstIssue part q) fun t => (t.job j).gate = .open ∧ (t.job j).pulse = s.tick)

/-- R398, R399: a packet behind a blocked head is parsed ahead; one that is no LAUNCH changes nothing else but the buckets that its
traffic is charged to, and a LAUNCH starts no job and no warp, nor, where no release is recorded and no L2 holds dirty host bytes, changes memory. The queue whose turn it is
takes a free slot, or the slot of a queue whose head is blocked; a queue whose timed packet is being prepared keeps its own (log
115, the model's choice). -/
def Sys2Proof.Slice0.SlotsAndLookAhead : Prop :=
  ∀ (s : State) (part : PartId) (q : QueueNo), let x := s.queue part.val q.val; let qs := s.queuesOf part.val
    let holders := qs.filter fun k => (s.queue part.val k).slot
    (x.en = true → x.stopped = false → x.slot = true → s.headBlocked part.val q.val = true →
      s.feLost = false → let first := if x.waitw.isSome || x.timed.isSome then 0 else 1
      x.look < min 8 ((x.widx - x.ridx).toNat - first) →
      EventGives s (.lookaheadParse part q) fun t =>
        t.queues = (s.setQueue part.val q.val { x with look := x.look + 1 }).queues ∧ t.jobs = s.jobs ∧ t.slots = s.slots ∧
        t.tags = s.tags ∧ (NoReleases s → (∀ d, (s.die d).hdirty = []) → t.mem = s.mem) ∧
        ((∀ z, s.lookPacket part.val q.val (first + x.look) = some z → descNat z.1 0 1 ≠ 1) →
          t = { s.setQueue part.val q.val { x with look := x.look + 1 } with buckets := t.buckets, short := t.short })) ∧
    (s.wantsSlot part.val q.val = true →
      (∀ k ∈ qs, k ≠ q.val → s.wantsSlot part.val k = true → s.slotBefore part.val k q.val = false) →
      (holders.length < 8 →
        EventGives s (.queueSlotAdmit part q) fun t => (t.queue part.val q.val).slot = true ∧
          ∀ k, k ≠ q.val → t.queue part.val k = s.queue part.val k) ∧
      (∀ k, 8 ≤ holders.length → (holders.find? fun k => s.yields part.val k) = some k →
        EventGives s (.queueSlotAdmit part q) fun t => (t.queue part.val q.val).slot = true ∧
          (k ≠ q.val → (t.queue part.val k).slot = false ∧ (t.queue part.val k).had = true)))

/-- R384, R385, R387, R389, R398, R399: queue registers, slots and look-ahead. -/
def Obligations.QueuesTakeWritesAndSlots : Prop :=
  QueueRegistersControlTheirQueue ∧ SlotsAndLookAhead

/-! ## Pre-emption, kill, restore, the watchdog -/

/-- R223, R226 to R230, R359, R386, R393, R441: FE_JCMD begins the pre-emption of a job, or of its part on one die, or kills it, and
says so; the watchdog begins one when the pulses stop. When its context is quiet, and no engine has still to write where its image lies
(log 17), the job is SAVED, its slots are FREE, and its image has the next number; a killed job is gone with its slots and its range entries. -/
def Sys2Proof.Slice0.JobsAreStoppedSavedAndKilled : Prop :=
  ∀ (s : State) (part : PartId) (num : BitVec 32) (d : DieId) (j : Nat), let jb := s.job j; let p := s.part part.val
    (s.jobs.has j = true → jb.runs = true → jb.gate = .open → jb.pulse + jb.r.wdog ≤ s.tick →
      EventGives s (.watchdogExpiry j) fun t =>
        (t.job j).stop = some { reason := 1, info := BitVec.ofNat 64 jb.pulse } ∧ t.slots = s.slots) ∧
    (∀ x, s.jobs.has j = true → jb.phase = .running → jb.stop = some x → s.mayPreempt j none = true →
      EventGives s (.preemptionComplete j) fun t => (t.job j).phase = .saved ∧ (t.job j).stop = none ∧
        (t.part jb.part).imgNum = (s.part jb.part).imgNum + 1 ∧
        (∃ y ∈ t.saves, y.job = j ∧ y.num = (s.part jb.part).imgNum + 1 ∧ y.reason = x.reason ∧ y.die = none) ∧
        ∀ c ∈ jb.cores, ∀ k < 128, (s.warp c k).id.job = j → (s.warp c k).st ≠ .free →
          t.warp c k = { gen := (s.warp c k).gen }) ∧
    (∀ e, s.jobs.has j = true → jb.phase = .running → jb.stop = none → jb.dieStop = some e →
      s.mayPreempt j (some e) = true →
      EventGives s (.preemptionComplete j) fun t => (t.job j).phase = .running ∧ (t.job j).dieStop = none ∧
        (∃ y ∈ t.saves, y.job = j ∧ y.die = some e ∧ y.away = true) ∧
        ∀ c ∈ jb.cores, dieOf c = e → ∀ k < 128, (s.warp c k).id.job = j → (s.warp c k).st ≠ .free →
          t.warp c k = { gen := (s.warp c k).gen }) ∧
    (s.feReady = true → s.feLost = false → p.jbusy = false →
      (s.jobNumbered part.val num.toNat .running = none →
        (EventGives s (.jobPreempt part num) fun t => (t.part part.val).jres = 1 ∧ t.jobs = s.jobs) ∧
        (EventGives s (.jobPreemptDie part num d) fun t => (t.part part.val).jres = 1 ∧ t.jobs = s.jobs)) ∧
      (∀ i, s.jobNumbered part.val num.toNat .running = some i → s.jobs.has i = true →
        ((s.job i).stop = none → EventGives s (.jobPreempt part num) fun t => (t.job i).stop = some { reason := 5 } ∧
          (t.part part.val).jbusy = true ∧ (t.part part.val).jres = 3 ∧ (t.part part.val).jwait = i) ∧
        ((s.job i).stop = none → (∀ m ∈ (s.job i).r.gridMasks, m = 0) → (s.job i).r.taskSlots = 0 →
          EventGives s (.jobPreemptDie part num d) fun t => (t.job i).dieStop = some d.val ∧ (t.job i).stop = none ∧
            (t.part part.val).jbusy = true ∧ (t.part part.val).jwait = i) ∧
        ((s.job i).r.taskSlots ≠ 0 →
          EventGives s (.jobPreemptDie part num d) fun t => (t.part part.val).jres = 2 ∧ t.jobs = s.jobs) ∧
        ((s.job i).stop = none → EventGives s (.jobKill part num) fun t => t.jobs.look i = none ∧
          (t.part part.val).jres = 0 ∧ (∀ r ∈ t.ranges, r.job ≠ i) ∧
          ∀ c ∈ (s.job i).cores, ∀ k < 128, (s.warp c k).id.job = i → (t.warp c k).st = .free)) ∧
      (∀ i, s.jobNumbered part.val num.toNat .running = none → s.jobNumbered part.val num.toNat .saved = some i →
        EventGives s (.jobKill part num) fun t => t.jobs.look i = none ∧ (t.part part.val).jres = 1 ∧
          ∀ r ∈ t.ranges, r.job ≠ i)) ∧
    (s.feReady = false ∨ s.feLost = true ∨ p.jbusy = true → exec (.jobPreempt part num) s = .next s ∧
      exec (.jobPreemptDie part num d) s = .next s ∧ exec (.jobKill part num) s = .next s)

/-- R226, R227, R397, R447: a checked context is placed on free clusters, and then runs again: its job under the packet's number, each
warp with the state, registers, mode and masks that it had, but one that slept in CENTER, which issues it again, in a slot of a new
generation, and its scratchpad bytes in their new places; a die form whose job does not run any more is given up, before it is placed
and after. -/
def Sys2Proof.Slice0.RestoredContextsRunAgain : Prop :=
  ∀ (s : State) (part : PartId) (q : QueueNo) (r : Restore) (m : List (Nat × Nat)),
    (s.restoreOf part.val q.val (fun r => r.map.isNone) = some r → r.ctx.die = none → s.mapClusters r.ctx = some m →
      EventGives s (.restorePlace part q) fun t => { r with map := some m } ∈ t.restores ∧ t.jobs = s.jobs) ∧
    (s.restoreOf part.val q.val (fun r => r.map.isNone) = some r → s.rejoins r.ctx = false →
      EventGives s (.restorePlace part q) fun t => r ∉ t.restores ∧ t.jobs = s.jobs) ∧
    (s.restoreOf part.val q.val (fun r => r.map.isSome && !r.held && r.pages.isEmpty) = some r → s.rejoins r.ctx = false →
      EventGives s (.restoreResume part q) fun t => r ∉ t.restores ∧ t.jobs = s.jobs ∧ t.slots = s.slots) ∧
    (∀ key w place, s.restoreOf part.val q.val (fun r => r.map.isSome && !r.held && r.pages.isEmpty) = some r → r.dead = false →
      r.map = some m → r.ctx.die = none → s.jobs.has r.ctx.job = true → (s.job r.ctx.job).phase = .saved →
      r.ctx.slots = [(key, w)] → r.ctx.mma = [] → FeFree s part.val .write (r.addr + 16) 4 place →
      EventGives s (.restoreResume part q) fun t => let c := newCore m (key / 128); let k := key % 128
        r ∉ t.restores ∧ (t.job r.ctx.job).phase = .running ∧ (t.job r.ctx.job).pk = r.pk ∧ (t.job r.ctx.job).stop = none ∧
        (t.job r.ctx.job).num = r.pk.q + 64 * (r.pk.idx % 2 ^ 26) ∧ (t.warp c k).regs = w.regs ∧
        ((∀ a n, w.wait ≠ .record a n) → (t.warp c k).st = w.st) ∧
        ((∃ a n, w.wait = .record a n) → (t.warp c k).st = .active) ∧
        (t.warp c k).ctl = w.ctl ∧ (t.warp c k).stat = w.stat ∧ (t.warp c k).trap = w.trap ∧
        (t.warp c k).gen = (s.warp c k).gen + 1 ∧ (t.warp c k).id = { w.id with job := r.ctx.job } ∧
        (place + 4 ≤ 2 ^ 58 → readN t.mem place 4 = bytesOf 4 2) ∧ ∀ a v, r.ctx.mem = [(a, v)] → t.mem.getD (newPlace m a) 0 = v)

/-- R223 to R230, R359, R386, R393, R397, R441, R447: contexts. -/
def Obligations.ContextsAreSavedKilledAndRestored : Prop :=
  JobsAreStoppedSavedAndKilled ∧ RestoredContextsRunAgain

/-! ## Time, partitions, the host's registers and windows -/

/-- R285, R286, R386, R400: the tick and the TAI counter never go back, and the discipline changes the counter's rate by at most 1,000
ppm, within 10 µs by at most 100 ppm. A write of FE_TAISET and a sample jump the counter forward when it is far behind and slew it
otherwise; four seconds without a sample end the lock. -/
def Obligations.TheTaiCounterIsDisciplined : Prop :=
  ∀ (s : State) (ns : BitVec 64) (off : Int), let d := s.taiD
    (let u := s.passTime
     let e := taiOfTicks u.tick - taiOfTicks s.tick
     s.tick ≤ u.tick ∧ s.tai ≤ u.tai ∧ u.tai ≤ s.tai + e + e / 1000 ∧ s.tai + e ≤ u.tai + e / 1000 ∧
      (d.slew.natAbs ≤ nsUnits 10000 → u.tai ≤ s.tai + e + e / 10000 ∧ s.tai + e ≤ u.tai + e / 10000)) ∧
    (s.barOpen = true → EventGives s (.taiSet ns) fun t => t.taiD.set = ns ∧
      (s.tai < nsUnits ns.toNat → t.tai = nsUnits ns.toNat ∧ t.taiD.slew = 0) ∧
      (nsUnits ns.toNat ≤ s.tai → t.tai = s.tai ∧ t.taiD.slew = (nsUnits ns.toNat : Int) - s.tai)) ∧
    (s.feRuns = true → s.taiSrc = 1 →
      (d.asked + msTicks (s.part d.part).ptmper.toNat ≤ s.tick →
        exec .ptmRequest s = .next { s with taiD := { d with asked := s.tick, waiting := true } }) ∧
      (d.waiting = true → EventGives s (.ptmSample off) fun t => t.taiD.toff = BitVec.ofInt 64 off ∧
        t.taiD.sampled = s.tick ∧ t.taiD.waiting = false ∧
        (off < -10000 → t.tai = s.tai + nsUnits off.natAbs ∧ t.taiD.slew = 0) ∧
        (-10000 ≤ off → t.tai = s.tai ∧ t.taiD.slew = -(2 ^ 16 * off)) ∧
        (100 < off.natAbs → t.taiLock = false) ∧
        (off.natAbs ≤ 20 → t.taiD.good = min 16 (d.good + 1) ∧ (15 ≤ d.good → t.taiLock = true)))) ∧
    (s.feRuns = true →
      (s.taiSrc ≠ 2 → exec .ppsEdge s = .next { s with taiD := { d with ppssec := d.ppssec + 1 } }) ∧
      (s.taiSrc = 2 → EventGives s .ppsEdge fun t => t.taiD.ppssec = d.ppssec + 1 ∧ t.taiD.sampled = s.tick)) ∧
    (s.taiLock = true → d.sampled + msTicks 4000 ≤ s.tick →
      EventGives s .taiSampleTimeout fun t => t.taiLock = false ∧ t.tai = s.tai)

/-- R410 to R413, R418, R441: a partition is enabled when every check passes, and then shares no cluster or channel group with another
that is enabled, and its clusters are to have its base clock; jobs that run keep it enabled. A reset ends its jobs and its queues, and
when complete its scratchpads read zero, no TLB holds a leaf of it, and its slots are FREE. A bucket is refilled with at least its partition's share when the partition has requests. HD_GROUP is
written only while no partition is enabled; the package's own memory then stands at its new position. -/
def Obligations.PartitionsAreEnabledAndReset : Prop :=
  ∀ (s : State) (p : PartId) (d : DieId) (fn : FuncId) (v : BitVec 64), let x := s.part p.val
    (s.barOpen = true →
      (x.en = false →
        (EventGives s (.partitionEnable p) fun t => (t.part p.val).en = decide (s.enableError p.val = 0) ∧
          (t.part p.val).err.toNat = s.enableError p.val ∧
          (s.enableError p.val = 0 → ∀ k < 128, x.clus.getLsbD k = true →
            t.clockReq.look k = some (min x.step.toNat 18))) ∧
        (s.enableError p.val = 0 → x.clus ≠ 0 ∧ ∀ q < 8, q ≠ p.val → (s.part q).en = true →
          (s.part q).clus &&& x.clus = 0 ∧ (s.part q).chan &&& x.chan = 0 ∧ (s.part q).fn ≠ x.fn)) ∧
      ((∀ y ∈ s.jobs, y.2.part = p.val → y.2.phase = .saved) →
        EventGives s (.partitionDisable p) fun t => (t.part p.val).en = false ∧ t.jobs = s.jobs) ∧
      ((∃ y ∈ s.jobs, y.2.part = p.val ∧ y.2.phase = .running) → exec (.partitionDisable p) s = .next s) ∧
      (x.rstBusy = false →
        (EventGives s (.partitionReset p) fun t => (t.part p.val).rstBusy = true ∧ (∀ y ∈ t.jobs, y.2.part ≠ p.val) ∧
          ∀ q < 64, (t.queue p.val q).en = false) ∧
        (fn.val ≠ 0 → s.partOf fn.val = some p.val →
          EventGives s (.functionLevelReset fn) fun t => (t.part p.val).rstBusy = true ∧ ∀ y ∈ t.jobs, y.2.part ≠ p.val)) ∧
      (fn.val = 0 → EventGives s (.functionLevelReset fn) fun t => ∀ q < 8, (t.part q).rstBusy = true) ∧
      ((∀ q < 8, (s.part q).en = false) →
        (EventGives s (.hdGroupWrite 0 v) fun t => t.group = v &&& 0xFFF7FF ∧ t.hd.unreach = 0 ∧
          ∀ a b, s.mem = [(a, b)] → a < 2 ^ 42 → posOf a = s.groupPos →
            t.mem = [(2 ^ 39 * t.groupPos + a % 2 ^ 39, b)]) ∧
        (EventGives s (.hdGroupWrite 1 v) fun t => t.hd.gmem.extractLsb' 0 64 = v ∧ t.group = s.group) ∧
        (EventGives s (.hdGroupWrite 2 v) fun t => t.hd.gmem.extractLsb' 64 32 = v.truncate 32 ∧
          t.hd.gmem.extractLsb' 0 64 = s.hd.gmem.extractLsb' 0 64)) ∧
      ((∃ q, q < 8 ∧ (s.part q).en = true) → ∀ reg, exec (.hdGroupWrite reg v) s = .next s)) ∧
    (x.rstBusy = true →
      EventGives s (.partitionResetComplete p) fun t => (t.part p.val).rstBusy = false ∧
        (∀ c key, key / 2 ^ 47 = p.val → (t.core c).tlb.look key = none ∧ (t.die c).tlb.look key = none) ∧
        (∀ a, resetPlace p.val x a = true → t.mem.getD a 0 = 0) ∧
        ∀ c, x.clus.getLsbD (c / 4) = true → ∀ k < 128, (t.warp c k).st = .free) ∧
    (s.refills.getD d.val 0 < s.tick / 1024 + 1 →
      EventGives s (.bucketRefill d) fun t => t.refills.getD d.val 0 = s.tick / 1024 + 1 ∧
        ∀ q < 8, let b := t.buckets.getD (8 * d.val + q) 0; let y := s.part q
          (y.en = false ∨ y.share d.val = 0 → b = 0) ∧
          (y.en = true → s.idleOn q d.val = false → 500 * y.share d.val ≤ b))

/-- R10, R11, R421, R422, R427, R444: BAR2 reads and writes device memory where its window leads, and a refused access reads ones,
writes nothing and is counted; a register that the host writes reads back the fields that it may write; the link goes down and comes
up, and in recovery it then raises vector 0, or leaves it pending while it is masked. -/
def Obligations.TheHostReachesTheDevice : Prop :=
  ∀ (s : State) (fn : FuncId) (off n : Nat) (bs : List (BitVec 8)) (v : BitVec 64) (p : PartId),
    (s.pcie = true → off + n ≤ 2 ^ 36 →
      (∀ segs, s.bar2Segs fn.val off n .read = some segs → s.feHeld segs = false →
        EventGives s (.bar2Read fn off n) fun t => t.bar2 = (s.feReads segs).1) ∧
      (s.bar2Segs fn.val off n .read = none → EventGives s (.bar2Read fn off n) fun t =>
        t.bar2 = List.replicate n 0xFF ∧ t.mem = s.mem ∧
        ∀ q, s.partOf fn.val = some q → (t.part q).b2err = (s.part q).b2err + 1)) ∧
    (s.pcie = true → off + bs.length ≤ 2 ^ 36 →
      (∀ a, s.bar2Segs fn.val off bs.length .write = some [(a, bs.length)] → isHostPlace a = false →
        s.owned.has (lineOf a) = false → EventGives s (.bar2Write fn off bs) fun t => readN t.mem a bs.length = bs ∧ t.tags = s.tags) ∧
      (s.bar2Segs fn.val off bs.length .write = none → EventGives s (.bar2Write fn off bs) fun t => t.mem = s.mem ∧
        ∀ q, s.partOf fn.val = some q → (t.part q).b2err = (s.part q).b2err + 1)) ∧
    (s.pcie = true → exec .pcieLinkDown s = .next { s with pcie := false }) ∧
    (s.pcie = false → 2 ≤ s.bt.stage.toNat →
      EventGives s .pcieLinkUp fun t => t.pcie = true ∧
        (s.bt.stage = 5 → s.masked 0 0 = false → t.msix = s.msix ++ [(0, 0)]) ∧
        (s.bt.stage = 5 → s.masked 0 0 = true → t.msix = s.msix ∧ t.msixPba.getD 0 false = true) ∧
        (s.bt.stage ≠ 5 → t.msix = s.msix)) ∧
    (EventGives s (.registerWrite 0 0xA0010 v) fun t => t.readReg 0 0xA0010 = v &&& 0xFFFFFFFF) ∧
    (∀ i < 128, EventGives s (.registerWrite fn (0x80000 + 8 * i) v) fun t => t.readReg fn.val (0x80000 + 8 * i) = v) ∧
    (s.barOpen = true →
      (EventGives s (.registerWrite 0 0x60030 v) fun t => t.readReg 0 0x60030 = v &&& 0x3F) ∧
      (EventGives s (.registerWrite 0 0xC0018 v) fun t => t.readReg 0 0xC0018 = v &&& 0xFFF) ∧
      (EventGives s (.registerWrite 0 0xC0080 v) fun t => t.readReg 0 0xC0080 = s.readReg 0 0xC0080 &&& ~~~v) ∧
      (s.partOf fn.val = some p.val →
        (EventGives s (.registerWrite fn 0x20050 v) fun t => t.readReg fn.val 0x20050 = v &&& 0x01FFFFFFFFFFFFFF) ∧
        ((s.part p.val).en = false →
          EventGives s (.registerWrite fn 0x20000 v) fun t => t.readReg fn.val 0x20000 = v &&& 0x000FFFFFFFFFF000) ∧
        ((s.part p.val).en = true → exec (.registerWrite fn 0x20000 v) s = .next s)) ∧
      (fn.val ≠ 0 → s.partOf fn.val = none → off < 0x40000 → exec (.registerWrite fn off v) s = .next s))

/-! ## The recovery core, power and health -/

namespace Sys2Proof.Slice0

open Sys2Proof.Machine

/-- The recovery core has a BT_CMD in BT_CMD's register (R432). -/
def commanded (s : State) (op : BitVec 4) (key : BitVec 16) : State := { s with bt := { s.bt with op := op, key := key } }

/-- The recovery core works and does nothing (R430, R433). -/
def CoreIdle (s : State) : Prop := s.coreAlive = true ∧ s.bt.busy = .idle

/-- What a package reset leaves: nothing runs, stage 1, and memory, flash and fuses as they were (R427, R428). -/
def IsReset (s t : State) : Prop :=
  t.bt.stage = 1 ∧ t.bt.resets = s.bt.resets + 1 ∧ t.bt.fsvn = s.bt.fsvn ∧ t.bt.rootKey = s.bt.rootKey ∧ t.mem = s.mem ∧ t.slots = [] ∧ t.jobs = [] ∧
  t.queues = [] ∧ t.parts = [] ∧ t.cores = [] ∧ t.feReady = false ∧ t.tick = 0 ∧ t.hm.power = .on ∧
  t.hm.vin = 0 ∧ t.hm.pin = 0 ∧ t.hm.tj = 0

/-- What a host's command does with a bundle (R425, R426, R429, R430): one that passes every check begins to be written, its header
block erased first; the error of one that fails is kept, and the flash stays. -/
def TakesBundle (s : State) (i : Instr) (x : List Byte) : Prop :=
  let b := s.bt
  let e := bundleError b.rootKey b.fsvn x
  (e = 0 → ∃ t, exec i s = .next t ∧ t.bt.busy = .update x ∧ t.bt.res = 3 ∧ t.bt.flash = erased b.flash ∧ t.bt.err = 0) ∧
  (e ≠ 0 → ∃ t, exec i s = .next t ∧ t.bt.busy = .idle ∧ t.bt.res = 2 ∧ t.bt.flash = b.flash ∧ t.bt.err = BitVec.ofNat 8 e)

end Sys2Proof.Slice0

/-- R424 to R428, R430, R439: power and resets begin with the first stage; each boot stage does its work and names the next: the
bundle in flash is checked, the stream loaded, memory zeroed, and the front end starts; a stage that fails leads to recovery. -/
def Sys2Proof.Slice0.TheDeviceBoots : Prop :=
  ∀ (s : State) (key : BitVec 16), let e := bundleError s.bt.rootKey s.bt.fsvn s.bt.flash
    (s.hm.power = .stageOff → EventGives s .powerOn fun t => IsReset s t ∧ t.bt.flash = s.bt.flash) ∧
    (EventGives s .coldReset fun t => IsReset s t ∧ t.bt.flash = s.bt.flash) ∧
    (CoreIdle s →
      (EventGives s (.packageReset 0xA5C3) fun t => IsReset s t ∧ t.bt.flash = s.bt.flash) ∧
      (key ≠ 0xA5C3 → EventGives s (.packageReset key) fun t => t.bt.res = 1 ∧ t.bt.stage = s.bt.stage ∧ t.slots = s.slots)) ∧
    (s.bt.stage = 1 →
      (e = 0 → EventGives s .bootVerify fun t => t.bt.stage = 2 ∧ t.bt.err = 0 ∧
        t.bt.svn = BitVec.ofNat 8 (bundleSvn s.bt.flash)) ∧
      (e ≠ 0 → EventGives s .bootVerify fun t => t.bt.stage = 5 ∧ t.bt.err = BitVec.ofNat 8 e)) ∧
    (s.bt.stage = 2 →
      (EventGives s (.bootLoad true) fun t => t.bt.stage = 3 ∧ t.pcie = true) ∧
      (EventGives s (.bootLoad false) fun t => t.bt.stage = 5)) ∧
    (s.bt.stage = 3 →
      EventGives s .bootClear fun t => t.bt.stage = 4 ∧ t.tags = [] ∧ t.tick = 0 ∧ t.tai = 0 ∧
        ∀ a, t.mem.getD a 0 = if isHostPlace a then s.mem.getD a 0 else 0) ∧
    (s.bt.stage = 4 → s.feReady = false → s.hd.up.getLsbD 0 = true →
      EventGives s .bootReady fun t => t.feReady = true ∧ t.bt = s.bt ∧ t.mem = s.mem)

/-- R425, R426, R429 to R433: a bundle from the host or over I3C is checked first: an accepted one is written to flash, which is then its
content (in recovery a reset follows), a refused one leaves the flash and names the check that failed; a measurement reports the hashes
and the nonce, signed with the identity key under a per-message number that the spec leaves open; the security version only rises, and
only with the key. -/
def Sys2Proof.Slice0.BundlesAndMeasurements : Prop :=
  ∀ (s : State) (key : BitVec 16) (num len : BitVec 32) (nonce : List (BitVec 8)), let b := s.bt
    (CoreIdle s → ∀ x u,
      (b.stage = 4 → (commanded s 1 0).updBytes = (x, u) → TakesBundle s .bundleUpdate x) ∧
      (b.stage = 5 → (commanded s 5 0).updBytes = (x, u) → TakesBundle s .recoveryBundle x)) ∧
    (∀ x, s.coreAlive = true → b.busy = .update x →
      (b.stage ≠ 5 → b.pending = false → EventGives s .updateComplete fun t => t.bt.flash = x ∧ t.bt.busy = .idle ∧
        t.bt.res = 0 ∧ t.slots = s.slots) ∧
      (b.stage = 5 → EventGives s .updateComplete fun t => t.bt.flash = x ∧ IsReset s t)) ∧
    (CoreIdle s →
      (EventGives s .measure fun t => t.bt.busy = .measure (bytesOf 32 b.nonce.toNat) false ∧ t.bt.res = 3) ∧
      (EventGives s (.i3cMeasure nonce) fun t => t.bt.busy = .measure nonce true) ∧
      (b.fsvn < b.svn.toNat → EventGives s (.commitSvn 0xA5C3) fun t => t.bt.fsvn = min 64 b.svn.toNat ∧ t.bt.res = 0) ∧
      (key ≠ 0xA5C3 ∨ b.svn.toNat ≤ b.fsvn → EventGives s (.commitSvn key) fun t => t.bt.fsvn = b.fsvn ∧ t.bt.res = 1) ∧
      (EventGives s (.i3cPackageReset 0xA5C3) fun t => IsReset s t ∧ t.bt.reply = [0]) ∧
      (b.stage = 5 →
        (EventGives s (.i3cImageBlock num nonce) fun t => t.bt.blocks.look num.toNat = some nonce ∧ t.bt.reply = [0]) ∧
        (let x := joinBlocks b.blocks len.toNat
         (∀ i ∈ b.blocks.keys, i < (len.toNat + 4095) / 4096) →
          (bundleError b.rootKey b.fsvn x = 0 → EventGives s (.i3cImageEnd len) fun t => t.bt.busy = .update x ∧ t.bt.reply = [0, 0] ∧
            t.bt.flash = erased b.flash) ∧
          (bundleError b.rootKey b.fsvn x ≠ 0 → EventGives s (.i3cImageEnd len) fun t => t.bt.busy = .idle ∧ t.bt.flash = b.flash ∧
            t.bt.reply = [2, BitVec.ofNat 8 (bundleError b.rootKey b.fsvn x)])))) ∧
    (s.coreAlive = true → EventGives s .i3cStatus fun t => t.bt.reply = 0 :: bytesOf 8 s.btStat.toNat ∧ t.slots = s.slots) ∧
    (s.coreAlive = false → exec .i3cStatus s = .next { s with bt := { b with reply := [] } }) ∧
    (s.coreAlive = true → b.pending = false →
      let body := s.reportBody nonce
      let sig := ecdsaSign b.idKey (Config.freeNat s.freeIdx) body
      (b.busy = .measure nonce false → EventGives s .measurementReport fun t => t.bt.busy = .idle ∧ t.bt.res = 0 ∧
        (∀ a, cuts 128 4 b.maddr.toNat 256 = [(a, 128), (a + 128, 128)] → isHostPlace a = false → isHostPlace (a + 128) = false →
          NoReleases s → readN t.mem a 192 = body.take 192 ∧ (body.length = 192 → sig.length = 64 → readN t.mem a 256 = body ++ sig))) ∧
      (b.busy = .measure nonce true → EventGives s .measurementReport fun t => t.bt.busy = .idle ∧ t.bt.reply = 0 :: (body ++ sig)))

/-- R424 to R433, R439: the recovery core. -/
def Obligations.BootAndBundles : Prop :=
  TheDeviceBoots ∧ BundlesAndMeasurements

/-- R436 to R440: HM_EOL shows, once an hour and from 168 hours of trend on, the least of the hours to a resource's threshold, 0 for one that
has reached it; how the samples extrapolate is open (log 113). Samples set the power status; a package over its cap lowers its fastest cluster, and
takes the steps back once the power is low; supply and temperature outside their ranges lower the cap or turn the power off; a front
end without pulses is reported, and 1 s later reset when AUTORST says so. -/
def Obligations.PowerAndHealthAreWatched : Prop :=
  ∀ (s : State) (ts : List Trend) (vin pin tj : BitVec 16) (d : DieId), let h := s.hm
    (s.coreAlive = true → h.eolAt + hourTicks ≤ s.tick →
      let mine := ts.filter fun t => decide (1 ≤ t.kind.toNat) && decide (t.kind.toNat ≤ 4)
      (∀ n x, 168 ≤ h.trendHours + 1 → leastTrend (s.hoursOf mine).1 = some (n, x) →
        EventGives s (.eolRecompute ts) fun t => t.hm.hours.toNat = n ∧ t.hm.low.toNat ≤ n ∧
          n ≤ t.hm.high.toNat ∧ t.hm.limiter = x.kind ∧ t.hm.limid = x.ident ∧
          t.hm.warned = (h.warned.1 || decide (n < 2000), h.warned.2 || decide (n < 500))) ∧
      (168 ≤ h.trendHours + 1 → (∃ x ∈ mine, trendReached x = true) →
        EventGives s (.eolRecompute ts) fun t => t.hm.hours = 0 ∧ t.hm.low = 0) ∧
      (h.trendHours + 1 < 168 ∨ mine = [] →
        EventGives s (.eolRecompute ts) fun t => t.hm.hours = 0xFFFFFFFF ∧ t.hm.warned = h.warned ∧
          t.hm.trendHours = h.trendHours + 1)) ∧
    (EventGives s (.powerSample vin pin tj) fun t => t.hm.vin = vin ∧ t.hm.pin = pin ∧ t.hm.tj = tj ∧
      (t.hm.overCap = true ↔ h.capNow < pin.toNat) ∧ (vin.toNat < 40000 → t.hm.lowSince = some (h.lowSince.getD s.tick)) ∧
      (40000 ≤ vin.toNat → t.hm.lowSince = none ∧ t.hm.okSince = some (h.okSince.getD s.tick))) ∧
    (s.mayStep = true →
      (∀ k, h.overCap = true → s.fastest (s.clustersWhere false) = some k →
        EventGives s .throttleStep fun t => t.clock k = s.clock k - 1 ∧ t.hm.throt = true ∧ t.hm.lowered = k :: h.lowered ∧
          t.hm.pinlow = h.pinlow) ∧
      (∀ k ks l, h.overCap = false → h.calm = some l → l + msTicks 10 ≤ s.tick → h.lowered = k :: ks →
        EventGives s .throttleStep fun t => t.clock k = min 18 (s.clock k + 1) ∧ t.hm.lowered = ks ∧ t.hm.throt = !ks.isEmpty) ∧
      (∀ k, 1050 ≤ h.tj.toNat → s.fastest ((s.clustersWhere false).filter fun k => k / 32 == d.val) = some k →
        EventGives s (.thermalThrottle d) fun t => t.clock k = s.clock k - 1 ∧ t.hm.throt = true)) ∧
    (1250 ≤ h.tj.toNat → exec .thermalShutdown s = .next { s with hm := { h with power := .railsOff } }) ∧
    (∀ l, h.underv = false → h.lowSince = some l → l + msTicks 1 ≤ s.tick →
      EventGives s .inputUndervoltage fun t => t.hm.underv = true ∧ t.hm.capNow = 700) ∧
    (∀ l, h.underv = true → h.okSince = some l → l + msTicks 1000 ≤ s.tick →
      exec .inputVoltageHeld s = .next { s with hm := { h with underv := false } }) ∧
    (h.lowSince.isSome = true ∨ h.okSince.isSome = true → h.vin.toNat < 36000 ∨ 63000 < h.vin.toNat →
      exec .inputOutOfRange s = .next { s with hm := { h with power := .stageOff } }) ∧
    (s.feRuns = true → h.pulse + msTicks 1 ≤ s.tick →
      exec .feHeartbeat s = .next { s with hm := { h with pulse := s.tick } }) ∧
    (s.coreAlive = true →
      (s.feReady = true → h.fehb = false → h.pulse + msTicks 1000 ≤ s.tick →
        EventGives s .heartbeatTimeout fun t => t.hm.fehb = true ∧ t.hm.fehbAt = s.tick ∧
          (s.pcie = true → s.masked 0 h.vec.toNat = false → s.masked 0 0 = false →
            t.msix = s.msix ++ [(0, h.vec.toNat), (0, 0)])) ∧
      (h.fehb = true → h.autorst = true → h.fehbAt + msTicks 1000 ≤ s.tick →
        (s.bt.busy = .idle → EventGives s .autoReset fun t => IsReset s t) ∧
        (s.bt.busy ≠ .idle → EventGives s .autoReset fun t => t.bt.pending = true ∧ t.slots = s.slots)))

/-! ## Words, steps, reset, and what every step keeps -/

namespace Sys2Proof.Slice0

open Sys2Proof.Machine

/-- The state in which slot k of core c issues when the agenda says so: its turn is taken, and its warp has reconverged (R40). -/
def issuing (s : State) (ts : List Turn) (c k : Nat) : State :=
  let u := { s with turns := ts, cur := (c, k) }
  u.setCw u.cw.reconverge

/-- A fetch of a word leaves the machine as it was, but for the line in the core's instruction cache, the word in the warp and
what a fetch may change besides. -/
def AfterFetch (s u : State) (word : Nat) : Prop :=
  u = { s with cores := u.cores, slots := u.slots, curWord := BitVec.ofNat 32 word, hd := u.hd, touched := u.touched
               buckets := u.buckets, short := u.short } ∧
  u.cw = { s.cw with word := BitVec.ofNat 32 word } ∧
  (∀ key, key ≠ slotKey s.cur.1 s.cur.2 → u.slots.look key = s.slots.look key) ∧
  (∀ c, c ≠ s.cur.1 → u.core c = s.core c) ∧
  ∃ ic, u.core s.cur.1 = { s.core s.cur.1 with l1 := { (s.core s.cur.1).l1 with icache := ic } }

/-- Words written out from the encodings of R245, one or more of each family, with the instructions they stand for. -/
noncomputable def sampleWords : List (Nat × Instr) :=
   [(0x020C0820, .sadd 3 1 2), (0x04FC50B2, .sdiv 63 10 11), (0x06080822, .scmpLt 2 1 2), (0x080C0800, .mode 3 1),
    (0x08080874, .pand 2 1 7), (0x200C0FF0, .vadd 3 1 127), (0x22041030, .vmad 1 2 3), (0x280C0820, .fadd 3 1 2),
    (0x30143001, .fsqrt 5 6), (0x320C0820, .vshuf 3 1 2), (0x41FFFFFF, .bra 0x1ffffff), (0x4A032006, .tres 100),
    (0x180C0010, .crd 3 16), (0x100FFFFF, .ldl 3 0x3ffff), (0x600C0FC9, .ld32 3 1 15 9),
    (0x660C0FC9, .stlGroup 3 1 15 9), (0x74000013, .fence 1 3), (0x7010093F, .vqntE4m3 4 1 2 15),
    (0x800C0FF9, .atomFadd 3 1 15 9), (0x90000107, .bar 1 7), (0xA2000923, .monDie 1 2 3), (0xB00C0824, .spawn 3 1 2 4),
    (0xC23C0F20, .calu 15 1 7 2), (0xDC080834, .shput 2 1 3 4), (0xE1000854, .mma 64 1 2 true 4)]

/-- The events that concern clocks, links, queues, times, registers, the recovery core and power, and no program. -/
noncomputable def quiet : Instr → Bool
  | .clockBalance _ => true
  | .clusterClockChange _ => true
  | .teamRequest _ _ => true
  | .stealProbe _ => true
  | .stealSweepWaitExpiry _ => true
  | .stagingCancelComplete _ => true
  | .overflowSweep => true
  | .directoryRebuildComplete => true
  | .heddleDieLoss _ => true
  | .scaskaxonPortDown _ => true
  | .scaskaxonPortUp _ => true
  | .linkLevelReplay _ _ => true
  | .pageWalk _ _ _ _ _ => true
  | .tlbInvalidate _ _ => true
  | .pageTagInit _ _ => true
  | .queueEnable _ _ _ => true
  | .queueDisable _ _ => true
  | .feQwidxWrite _ _ _ => true
  | .feQridxWrite _ _ _ => true
  | .lookaheadParse _ _ => true
  | .queueSlotAdmit _ _ => true
  | .waitwTimeout _ _ => true
  | .timedFirstIssue _ _ => true
  | .taiSet _ => true
  | .ptmRequest => true
  | .ptmSample _ => true
  | .ppsEdge => true
  | .taiSampleTimeout => true
  | .partitionEnable _ => true
  | .partitionDisable _ => true
  | .bucketRefill _ => true
  | .hdGroupWrite _ _ => true
  | .pcieLinkDown => true
  | .pcieLinkUp => true
  | .commitSvn _ => true
  | .measure => true
  | .bootVerify => true
  | .bootLoad _ => true
  | .bootReady => true
  | .i3cStatus => true
  | .i3cImageBlock _ _ => true
  | .i3cImageEnd _ => true
  | .i3cMeasure _ => true
  | .eolRecompute _ => true
  | .powerSample _ _ _ => true
  | .throttleStep => true
  | .inputUndervoltage => true
  | .inputVoltageHeld => true
  | .inputOutOfRange => true
  | .thermalThrottle _ => true
  | .thermalShutdown => true
  | .feHeartbeat => true
  | .heartbeatTimeout => true
  | .watchdogExpiry _ => true
  | .jobPreempt _ _ => true
  | .jobPreemptDie _ _ _ => true
  | .mmaPass _ => true
  | _ => false

/-- The quiet events that read lines of device memory, or recall them. -/
noncomputable def readsLines : Instr → Bool
  | .directoryRebuildComplete => true
  | .pageWalk _ _ _ _ _ => true
  | .lookaheadParse _ _ => true
  | _ => false

/-- The events that may move the package's memory to another position of its group. -/
noncomputable def regroups : Instr → Bool
  | .hdGroupWrite _ _ => true
  | _ => false

end Sys2Proof.Slice0

/-- R8, R231, R232, R245: these words decode to the instructions whose encodings they are. -/
def Obligations.SampleWordsDecode : Prop :=
  ∀ p ∈ sampleWords, decodeTableWord 32 p.1 = some p.2 ∧ Instr.wf p.2 = true

/-- R231, R235, R236, R245 to R248: decoding an encoded well-formed instruction gives it back, every operand at every value that
its field holds; and a word that decodes to an instruction is the word of that instruction: no bit of it is without a meaning. -/
def Obligations.DecodingAndEncodingAgree : Prop :=
  (∀ i w, Instr.wf i = true → encode i = some w → w < 2 ^ 32 ∧ decodeWord w = .ok i) ∧
  (∀ i w, w < 2 ^ 32 → decodeWord w = .ok i → encode i = some w)

/-- R35, R37, R40, R123, R124, R148, R220, R231, R236, R265, R345: a step in which a ready warp issues that its core has chosen, and whose
MMA is granted an entry, runs the instruction that the word at its program counter decodes to: the step is exec of it, after
reconvergence and the fetch; then the core's other ready warps have waited once more and the step's end settles what has changed (log
2). A word that is no instruction traps, and an instruction that reads an uncorrectable register element stops the context (R124), after the decode check of R236; code that cannot be fetched stops the context, under a reason that the spec leaves open (log
16); a register in the scoreboard or an acquire that is not complete keeps it back, and time passes; a warp whose MMA is not granted
waits once more. A step whose turn is an event is exec of that event; a chunk of a COPY moves, a bank performs a far store, and a level
of storage meets an error, in a step of its own. -/
def Obligations.StepRunsTheDecodedInstruction : Prop :=
  ∀ (s : State) (ts : List Turn), s.hm.power = .on → let s' := { s with turns := ts }
    (∀ (c : CoreId) (k : SlotNo) (v : Nat), s.turns = .issue c k :: ts →
      (s'.chosen c.val k.val = false → step s = .next s'.finishStep) ∧
      (s'.chosen c.val k.val = true → s'.granted c.val k.val = false → step s = .next (s'.notGranted c.val k.val).finishStep) ∧
      (s'.mayIssue c.val k.val = true → s'.warpReady c.val k.val = false → step s = .next s'.finishStep) ∧
      (s'.mayIssue c.val k.val = true → s'.warpReady c.val k.val = true → let u := issuing s ts c.val k.val
        (u.cw.fetchDead.isSome = true → s.short = false →
          step s = .next (s'.othersWait u.fetchStop c.val k.val).finishStep) ∧
        (u.cw.fetchDead = none → u.cw.cap = none → u.cw.bad = [] → Fetches u u.cw.ctl.pc.toNat 4 v →
          (∀ i, decodeWord v = .ok i →
            (u.cw.blocks v i = true → step s = .next s'.finishStep) ∧
            (u.cw.blocks v i = false → ∃ x, AfterFetch u x v ∧
              (∀ t, exec i x = .next t → t.short = false → step s = .next (s'.othersWait t c.val k.val).finishStep) ∧
              (∀ t, exec i x = .next t → t.short = true → step s = .next s'.finishStep) ∧
              (∀ r, exec i x = .refused r → step s = .refused r) ∧ (∀ f, exec i x = .fault f → step s = .fault f))) ∧
          (∀ r, decodeWord v = .bad r → ∃ x, AfterFetch u x v ∧
            (x.short = false → step s = .next (s'.othersWait
              (x.trapNow { cause := ILLEGAL, sub := r.sub.toNat } true (u.cw.ctl.pc + 4)) c.val k.val).finishStep))) ∧
        (u.cw.fetchDead = none → u.cw.cap = none → Fetches u u.cw.ctl.pc.toNat 4 v →
          ∀ i, decodeWord v = .ok i → u.cw.blocks v i = false → ∃ x, AfterFetch u x v ∧
            (∀ key, x.decodeSub i = none → (Instr.elemsRead x.cw i).find? x.cw.bad.has = some key → x.short = false →
              step s = .next (s'.othersWait (x.poisonNow (2 ^ 61 + key)) c.val k.val).finishStep) ∧
            (∀ t, (x.decodeSub i).isSome = true → exec i x = .next t → t.short = false →
              step s = .next (s'.othersWait t c.val k.val).finishStep)))) ∧
    (∀ i, s.turns = .event i :: ts → Instr.isEvent i = true →
      (∀ t, exec i s' = .next t → t.short = false → step s = .next t.finishStep) ∧
      (∀ r, exec i s' = .refused r → step s = .refused r) ∧ (∀ f, exec i s' = .fault f → step s = .fault f)) ∧
    (∀ (c : CoreId) n q, s.turns = .far c n :: ts → (s.core c.val).far[n]? = some q → let x := s.core c.val
      step s = .next ((s'.setCore c.val { x with far := x.far.eraseIdx n }).write q.place q.bytes).finishStep) ∧
    (∀ p q x t, s.turns = .copy p q :: ts → s'.copyOf p.val q.val = some x → x.pos + 4096 < x.len → s'.copyChunk x = some t →
      t.short = false → step s = .next t.finishStep) ∧
    (∀ e t, s.turns = .upset e :: ts → s'.upset e = some t → step s = .next t.finishStep)

/-- R25, R384, R405, R409, R411, R413, R420, R427, R432, R434: the machine after reset is at the first boot stage with nothing
running: every slot FREE, every byte zero and every tag empty, no partition enabled, counters and times zero, and the registers at the
values of their tables. That memory reads as zero before the clear stage is this model's choice (log 6, log 10). -/
def Obligations.ResetLeavesTheFirstStage : Prop :=
  let s := State.reset
  s.bt.stage = 1 ∧ s.hm.power = .on ∧ s.feReady = false ∧ s.jobs = [] ∧ s.tick = 0 ∧ s.tai = 0 ∧ s.hd.up = 3 ∧
  s.hm.hours = 0xFFFFFFFF ∧ s.memoryOk = true ∧ (∀ c k, (s.warp c k).st = .free) ∧
  (∀ c, (s.core c).tlb = [] ∧ (s.die c).tlb = []) ∧
  (∀ p, (s.part p).en = false ∧ (s.part p).ptmper = 16 ∧ (s.part p).tlead = 150000 ∧
    ∀ q, (s.queue p q).en = false) ∧
  (∀ a n, s.read a n = List.replicate n 0) ∧ ∀ a, s.tag a = false

/-- R117, R125, R130, R299, R445: THE MEMORY KEEPS ITS FORM. Bytes, tags, line bits and poison are maps with rising keys that list no
default value, so that equal contents are equal data; from every state with that form a step keeps it. -/
def Obligations.EveryStepKeepsTheMemoryForm : Prop :=
  ∀ s t : State, s.memoryOk = true → step s = .next t → t.memoryOk = true

/-- R7, R46, R79, R82, R220, R385, R400, R413, R418, R427, R434, R437: WHAT LEAVES PROGRAMS ALONE. Events of clocks, links, queues, time,
the recovery core and power change no warp, no byte, tag or line bit, and poison nothing; those that read lines or recall them do so
where no release is recorded that they would drain, and no L2 holds dirty bytes of the host; a write of the group's table does so where
the package's position and the members stay. -/
def Obligations.QuietEventsLeaveProgramsAlone : Prop :=
  ∀ (i : Instr) (s t : State), quiet i = true → (readsLines i = true → NoReleases s ∧ ∀ d, (s.die d).hdirty = []) →
    (regroups i = true → t.groupPos = s.groupPos ∧ t.hd.gmem = s.hd.gmem) → exec i s = .next t →
    t.slots = s.slots ∧ t.mem = s.mem ∧ t.tags = s.tags ∧ t.lineFull = s.lineFull ∧ t.poison = s.poison
end

