-- ==== Sys2Proof/Laws/Dispatch.lean ====
section
/-! SUPPORT. The arms of `exec`, one equation each: no proof unfolds the whole dispatch. -/

namespace Sys2Proof.Machine

@[simp] theorem exec_sadd : ∀ d a b s, exec (.sadd d a b) s = execSadd d a b s := by intros; rfl
@[simp] theorem exec_ssub : ∀ d a b s, exec (.ssub d a b) s = execSsub d a b s := by intros; rfl
@[simp] theorem exec_smul : ∀ d a b s, exec (.smul d a b) s = execSmul d a b s := by intros; rfl
@[simp] theorem exec_smulh : ∀ d a b s, exec (.smulh d a b) s = execSmulh d a b s := by intros; rfl
@[simp] theorem exec_sand : ∀ d a b s, exec (.sand d a b) s = execSand d a b s := by intros; rfl
@[simp] theorem exec_sor : ∀ d a b s, exec (.sor d a b) s = execSor d a b s := by intros; rfl
@[simp] theorem exec_sxor : ∀ d a b s, exec (.sxor d a b) s = execSxor d a b s := by intros; rfl
@[simp] theorem exec_sshl : ∀ d a b s, exec (.sshl d a b) s = execSshl d a b s := by intros; rfl
@[simp] theorem exec_sshr : ∀ d a b s, exec (.sshr d a b) s = execSshr d a b s := by intros; rfl
@[simp] theorem exec_ssra : ∀ d a b s, exec (.ssra d a b) s = execSsra d a b s := by intros; rfl
@[simp] theorem exec_smin : ∀ d a b s, exec (.smin d a b) s = execSmin d a b s := by intros; rfl
@[simp] theorem exec_smax : ∀ d a b s, exec (.smax d a b) s = execSmax d a b s := by intros; rfl
@[simp] theorem exec_sminu : ∀ d a b s, exec (.sminu d a b) s = execSminu d a b s := by intros; rfl
@[simp] theorem exec_smaxu : ∀ d a b s, exec (.smaxu d a b) s = execSmaxu d a b s := by intros; rfl
@[simp] theorem exec_smov : ∀ d a s, exec (.smov d a) s = execSmov d a s := by intros; rfl
@[simp] theorem exec_snot : ∀ d a s, exec (.snot d a) s = execSnot d a s := by intros; rfl
@[simp] theorem exec_sclz : ∀ d a s, exec (.sclz d a) s = execSclz d a s := by intros; rfl
@[simp] theorem exec_spopc : ∀ d a s, exec (.spopc d a) s = execSpopc d a s := by intros; rfl
@[simp] theorem exec_sdiv : ∀ d a b s, exec (.sdiv d a b) s = execSdiv d a b s := by intros; rfl
@[simp] theorem exec_srem : ∀ d a b s, exec (.srem d a b) s = execSrem d a b s := by intros; rfl
@[simp] theorem exec_sdivu : ∀ d a b s, exec (.sdivu d a b) s = execSdivu d a b s := by intros; rfl
@[simp] theorem exec_sremu : ∀ d a b s, exec (.sremu d a b) s = execSremu d a b s := by intros; rfl
@[simp] theorem exec_ssel : ∀ d a b s, exec (.ssel d a b) s = execSsel d a b s := by intros; rfl
@[simp] theorem exec_scmpEq : ∀ d a b s, exec (.scmpEq d a b) s = execScmpEq d a b s := by intros; rfl
@[simp] theorem exec_scmpNe : ∀ d a b s, exec (.scmpNe d a b) s = execScmpNe d a b s := by intros; rfl
@[simp] theorem exec_scmpLt : ∀ d a b s, exec (.scmpLt d a b) s = execScmpLt d a b s := by intros; rfl
@[simp] theorem exec_scmpLe : ∀ d a b s, exec (.scmpLe d a b) s = execScmpLe d a b s := by intros; rfl
@[simp] theorem exec_scmpGt : ∀ d a b s, exec (.scmpGt d a b) s = execScmpGt d a b s := by intros; rfl
@[simp] theorem exec_scmpGe : ∀ d a b s, exec (.scmpGe d a b) s = execScmpGe d a b s := by intros; rfl
@[simp] theorem exec_scmpLtu : ∀ d a b s, exec (.scmpLtu d a b) s = execScmpLtu d a b s := by intros; rfl
@[simp] theorem exec_scmpLeu : ∀ d a b s, exec (.scmpLeu d a b) s = execScmpLeu d a b s := by intros; rfl
@[simp] theorem exec_scmpGtu : ∀ d a b s, exec (.scmpGtu d a b) s = execScmpGtu d a b s := by intros; rfl
@[simp] theorem exec_scmpGeu : ∀ d a b s, exec (.scmpGeu d a b) s = execScmpGeu d a b s := by intros; rfl
@[simp] theorem exec_mode : ∀ d a s, exec (.mode d a) s = execMode d a s := by intros; rfl
@[simp] theorem exec_modex : ∀ d a b s, exec (.modex d a b) s = execModex d a b s := by intros; rfl
@[simp] theorem exec_exrd : ∀ d s, exec (.exrd d) s = execExrd d s := by intros; rfl
@[simp] theorem exec_exwr : ∀ a s, exec (.exwr a) s = execExwr a s := by intros; rfl
@[simp] theorem exec_pand : ∀ d a b s, exec (.pand d a b) s = execPand d a b s := by intros; rfl
@[simp] theorem exec_por : ∀ d a b s, exec (.por d a b) s = execPor d a b s := by intros; rfl
@[simp] theorem exec_pxor : ∀ d a b s, exec (.pxor d a b) s = execPxor d a b s := by intros; rfl
@[simp] theorem exec_pnot : ∀ d a s, exec (.pnot d a) s = execPnot d a s := by intros; rfl
@[simp] theorem exec_pmov : ∀ d a s, exec (.pmov d a) s = execPmov d a s := by intros; rfl
@[simp] theorem exec_ptos : ∀ d a s, exec (.ptos d a) s = execPtos d a s := by intros; rfl
@[simp] theorem exec_stop : ∀ d a s, exec (.stop d a) s = execStop d a s := by intros; rfl
@[simp] theorem exec_ldl : ∀ d xi s, exec (.ldl d xi) s = execLdl d xi s := by intros; rfl
@[simp] theorem exec_ldlq : ∀ d xi s, exec (.ldlq d xi) s = execLdlq d xi s := by intros; rfl
@[simp] theorem exec_ldlv : ∀ d xi s, exec (.ldlv d xi) s = execLdlv d xi s := by intros; rfl
@[simp] theorem exec_crd : ∀ d n s, exec (.crd d n) s = execCrd d n s := by intros; rfl
@[simp] theorem exec_cwr : ∀ a n s, exec (.cwr a n) s = execCwr a n s := by intros; rfl
@[simp] theorem exec_vadd : ∀ d a b s, exec (.vadd d a b) s = execVadd d a b s := by intros; rfl
@[simp] theorem exec_vsub : ∀ d a b s, exec (.vsub d a b) s = execVsub d a b s := by intros; rfl
@[simp] theorem exec_vmul : ∀ d a b s, exec (.vmul d a b) s = execVmul d a b s := by intros; rfl
@[simp] theorem exec_vmulh : ∀ d a b s, exec (.vmulh d a b) s = execVmulh d a b s := by intros; rfl
@[simp] theorem exec_vand : ∀ d a b s, exec (.vand d a b) s = execVand d a b s := by intros; rfl
@[simp] theorem exec_vor : ∀ d a b s, exec (.vor d a b) s = execVor d a b s := by intros; rfl
@[simp] theorem exec_vxor : ∀ d a b s, exec (.vxor d a b) s = execVxor d a b s := by intros; rfl
@[simp] theorem exec_vshl : ∀ d a b s, exec (.vshl d a b) s = execVshl d a b s := by intros; rfl
@[simp] theorem exec_vshr : ∀ d a b s, exec (.vshr d a b) s = execVshr d a b s := by intros; rfl
@[simp] theorem exec_vsra : ∀ d a b s, exec (.vsra d a b) s = execVsra d a b s := by intros; rfl
@[simp] theorem exec_vmin : ∀ d a b s, exec (.vmin d a b) s = execVmin d a b s := by intros; rfl
@[simp] theorem exec_vmax : ∀ d a b s, exec (.vmax d a b) s = execVmax d a b s := by intros; rfl
@[simp] theorem exec_vabs : ∀ d a s, exec (.vabs d a) s = execVabs d a s := by intros; rfl
@[simp] theorem exec_vneg : ∀ d a s, exec (.vneg d a) s = execVneg d a s := by intros; rfl
@[simp] theorem exec_vnot : ∀ d a s, exec (.vnot d a) s = execVnot d a s := by intros; rfl
@[simp] theorem exec_vmov : ∀ d a s, exec (.vmov d a) s = execVmov d a s := by intros; rfl
@[simp] theorem exec_vmad : ∀ d a b s, exec (.vmad d a b) s = execVmad d a b s := by intros; rfl
@[simp] theorem exec_vmsb : ∀ d a b s, exec (.vmsb d a b) s = execVmsb d a b s := by intros; rfl
@[simp] theorem exec_vclz : ∀ d a s, exec (.vclz d a) s = execVclz d a s := by intros; rfl
@[simp] theorem exec_vpopc : ∀ d a s, exec (.vpopc d a) s = execVpopc d a s := by intros; rfl
@[simp] theorem exec_vbrev : ∀ d a s, exec (.vbrev d a) s = execVbrev d a s := by intros; rfl
@[simp] theorem exec_vbfx : ∀ d a b s, exec (.vbfx d a b) s = execVbfx d a b s := by intros; rfl
@[simp] theorem exec_vbfi : ∀ d a b s, exec (.vbfi d a b) s = execVbfi d a b s := by intros; rfl
@[simp] theorem exec_vsel : ∀ d a b s, exec (.vsel d a b) s = execVsel d a b s := by intros; rfl
@[simp] theorem exec_vcmpEq : ∀ d a b s, exec (.vcmpEq d a b) s = execVcmpEq d a b s := by intros; rfl
@[simp] theorem exec_vcmpNe : ∀ d a b s, exec (.vcmpNe d a b) s = execVcmpNe d a b s := by intros; rfl
@[simp] theorem exec_vcmpLt : ∀ d a b s, exec (.vcmpLt d a b) s = execVcmpLt d a b s := by intros; rfl
@[simp] theorem exec_vcmpLe : ∀ d a b s, exec (.vcmpLe d a b) s = execVcmpLe d a b s := by intros; rfl
@[simp] theorem exec_vcmpGt : ∀ d a b s, exec (.vcmpGt d a b) s = execVcmpGt d a b s := by intros; rfl
@[simp] theorem exec_vcmpGe : ∀ d a b s, exec (.vcmpGe d a b) s = execVcmpGe d a b s := by intros; rfl
@[simp] theorem exec_vcmpLtu : ∀ d a b s, exec (.vcmpLtu d a b) s = execVcmpLtu d a b s := by intros; rfl
@[simp] theorem exec_vcmpLeu : ∀ d a b s, exec (.vcmpLeu d a b) s = execVcmpLeu d a b s := by intros; rfl
@[simp] theorem exec_vcmpGtu : ∀ d a b s, exec (.vcmpGtu d a b) s = execVcmpGtu d a b s := by intros; rfl
@[simp] theorem exec_vcmpGeu : ∀ d a b s, exec (.vcmpGeu d a b) s = execVcmpGeu d a b s := by intros; rfl
@[simp] theorem exec_vcmpUnord : ∀ d a b s, exec (.vcmpUnord d a b) s = execVcmpUnord d a b s := by intros; rfl
@[simp] theorem exec_vcmpOrd : ∀ d a b s, exec (.vcmpOrd d a b) s = execVcmpOrd d a b s := by intros; rfl
@[simp] theorem exec_fadd : ∀ d a b s, exec (.fadd d a b) s = execFadd d a b s := by intros; rfl
@[simp] theorem exec_fsub : ∀ d a b s, exec (.fsub d a b) s = execFsub d a b s := by intros; rfl
@[simp] theorem exec_fmul : ∀ d a b s, exec (.fmul d a b) s = execFmul d a b s := by intros; rfl
@[simp] theorem exec_fmin : ∀ d a b s, exec (.fmin d a b) s = execFmin d a b s := by intros; rfl
@[simp] theorem exec_fmax : ∀ d a b s, exec (.fmax d a b) s = execFmax d a b s := by intros; rfl
@[simp] theorem exec_fabs : ∀ d a s, exec (.fabs d a) s = execFabs d a s := by intros; rfl
@[simp] theorem exec_fneg : ∀ d a s, exec (.fneg d a) s = execFneg d a s := by intros; rfl
@[simp] theorem exec_fclass : ∀ d a s, exec (.fclass d a) s = execFclass d a s := by intros; rfl
@[simp] theorem exec_fscale : ∀ d a b s, exec (.fscale d a b) s = execFscale d a b s := by intros; rfl
@[simp] theorem exec_frnd : ∀ d a s, exec (.frnd d a) s = execFrnd d a s := by intros; rfl
@[simp] theorem exec_fcsgn : ∀ d a b s, exec (.fcsgn d a b) s = execFcsgn d a b s := by intros; rfl
@[simp] theorem exec_ffma : ∀ d a b s, exec (.ffma d a b) s = execFfma d a b s := by intros; rfl
@[simp] theorem exec_ffms : ∀ d a b s, exec (.ffms d a b) s = execFfms d a b s := by intros; rfl
@[simp] theorem exec_fnma : ∀ d a b s, exec (.fnma d a b) s = execFnma d a b s := by intros; rfl
@[simp] theorem exec_fcvt : ∀ d a s, exec (.fcvt d a) s = execFcvt d a s := by intros; rfl
@[simp] theorem exec_fcvts : ∀ d a b s, exec (.fcvts d a b) s = execFcvts d a b s := by intros; rfl
@[simp] theorem exec_vpack : ∀ d a b s, exec (.vpack d a b) s = execVpack d a b s := by intros; rfl
@[simp] theorem exec_vunpk : ∀ d a k s, exec (.vunpk d a k) s = execVunpk d a k s := by intros; rfl
@[simp] theorem exec_frcpa : ∀ d a s, exec (.frcpa d a) s = execFrcpa d a s := by intros; rfl
@[simp] theorem exec_frsqa : ∀ d a s, exec (.frsqa d a) s = execFrsqa d a s := by intros; rfl
@[simp] theorem exec_fexp2 : ∀ d a s, exec (.fexp2 d a) s = execFexp2 d a s := by intros; rfl
@[simp] theorem exec_flog2 : ∀ d a s, exec (.flog2 d a) s = execFlog2 d a s := by intros; rfl
@[simp] theorem exec_fsin : ∀ d a s, exec (.fsin d a) s = execFsin d a s := by intros; rfl
@[simp] theorem exec_fcos : ∀ d a s, exec (.fcos d a) s = execFcos d a s := by intros; rfl
@[simp] theorem exec_ftanh : ∀ d a s, exec (.ftanh d a) s = execFtanh d a s := by intros; rfl
@[simp] theorem exec_fdiv : ∀ d a b s, exec (.fdiv d a b) s = execFdiv d a b s := by intros; rfl
@[simp] theorem exec_fsqrt : ∀ d a s, exec (.fsqrt d a) s = execFsqrt d a s := by intros; rfl
@[simp] theorem exec_frsq : ∀ d a s, exec (.frsq d a) s = execFrsq d a s := by intros; rfl
@[simp] theorem exec_fdsqResult : ∀ c slot s, exec (.fdsqResult c slot) s = execFdsqResult c slot s := by intros; rfl
@[simp] theorem exec_vshuf : ∀ d a b s, exec (.vshuf d a b) s = execVshuf d a b s := by intros; rfl
@[simp] theorem exec_vbcast : ∀ d a b s, exec (.vbcast d a b) s = execVbcast d a b s := by intros; rfl
@[simp] theorem exec_vredadd : ∀ d a s, exec (.vredadd d a) s = execVredadd d a s := by intros; rfl
@[simp] theorem exec_vredmin : ∀ d a s, exec (.vredmin d a) s = execVredmin d a s := by intros; rfl
@[simp] theorem exec_vredmax : ∀ d a s, exec (.vredmax d a) s = execVredmax d a s := by intros; rfl
@[simp] theorem exec_vscan : ∀ d a s, exec (.vscan d a) s = execVscan d a s := by intros; rfl
@[simp] theorem exec_vballot : ∀ d a s, exec (.vballot d a) s = execVballot d a s := by intros; rfl
@[simp] theorem exec_vcompact : ∀ d a b s, exec (.vcompact d a b) s = execVcompact d a b s := by intros; rfl
@[simp] theorem exec_vlane : ∀ d a s, exec (.vlane d a) s = execVlane d a s := by intros; rfl
@[simp] theorem exec_movsv : ∀ d a s, exec (.movsv d a) s = execMovsv d a s := by intros; rfl
@[simp] theorem exec_movvs : ∀ d a b s, exec (.movvs d a b) s = execMovvs d a b s := by intros; rfl
@[simp] theorem exec_bra : ∀ xi s, exec (.bra xi) s = execBra xi s := by intros; rfl
@[simp] theorem exec_bdiv : ∀ xi s, exec (.bdiv xi) s = execBdiv xi s := by intros; rfl
@[simp] theorem exec_rcv : ∀ xi s, exec (.rcv xi) s = execRcv xi s := by intros; rfl
@[simp] theorem exec_bsr : ∀ xi s, exec (.bsr xi) s = execBsr xi s := by intros; rfl
@[simp] theorem exec_pool : ∀ xi s, exec (.pool xi) s = execPool xi s := by intros; rfl
@[simp] theorem exec_jmp : ∀ d a s, exec (.jmp d a) s = execJmp d a s := by intros; rfl
@[simp] theorem exec_rets : ∀ a s, exec (.rets a) s = execRets a s := by intros; rfl
@[simp] theorem exec_sels : ∀ a s, exec (.sels a) s = execSels a s := by intros; rfl
@[simp] theorem exec_exit : ∀ s, exec (.exit) s = execExit s := by intros; rfl
@[simp] theorem exec_nop : ∀ s, exec (.nop) s = execNop s := by intros; rfl
@[simp] theorem exec_trap : ∀ c s, exec (.trap c) s = execTrap c s := by intros; rfl
@[simp] theorem exec_tres : ∀ a s, exec (.tres a) s = execTres a s := by intros; rfl
@[simp] theorem exec_trec : ∀ d a b s, exec (.trec d a b) s = execTrec d a b s := by intros; rfl
@[simp] theorem exec_tick : ∀ d s, exec (.tick d) s = execTick d s := by intros; rfl
@[simp] theorem exec_tai : ∀ d s, exec (.tai d) s = execTai d s := by intros; rfl
@[simp] theorem exec_waitt : ∀ a s, exec (.waitt a) s = execWaitt a s := by intros; rfl
@[simp] theorem exec_waittDeadline : ∀ c slot s, exec (.waittDeadline c slot) s = execWaittDeadline c slot s := by intros; rfl
@[simp] theorem exec_ldU8 : ∀ d x b l s, exec (.ldU8 d x b l) s = execLdU8 d x b l s := by intros; rfl
@[simp] theorem exec_ldI8 : ∀ d x b l s, exec (.ldI8 d x b l) s = execLdI8 d x b l s := by intros; rfl
@[simp] theorem exec_ldU16 : ∀ d x b l s, exec (.ldU16 d x b l) s = execLdU16 d x b l s := by intros; rfl
@[simp] theorem exec_ldI16 : ∀ d x b l s, exec (.ldI16 d x b l) s = execLdI16 d x b l s := by intros; rfl
@[simp] theorem exec_ld32 : ∀ d x b l s, exec (.ld32 d x b l) s = execLd32 d x b l s := by intros; rfl
@[simp] theorem exec_ld64 : ∀ d x b l s, exec (.ld64 d x b l) s = execLd64 d x b l s := by intros; rfl
@[simp] theorem exec_ld128 : ∀ d x b l s, exec (.ld128 d x b l) s = execLd128 d x b l s := by intros; rfl
@[simp] theorem exec_st8 : ∀ d x b l s, exec (.st8 d x b l) s = execSt8 d x b l s := by intros; rfl
@[simp] theorem exec_st16 : ∀ d x b l s, exec (.st16 d x b l) s = execSt16 d x b l s := by intros; rfl
@[simp] theorem exec_st32 : ∀ d x b l s, exec (.st32 d x b l) s = execSt32 d x b l s := by intros; rfl
@[simp] theorem exec_st64 : ∀ d x b l s, exec (.st64 d x b l) s = execSt64 d x b l s := by intros; rfl
@[simp] theorem exec_st128 : ∀ d x b l s, exec (.st128 d x b l) s = execSt128 d x b l s := by intros; rfl
@[simp] theorem exec_ldaTeam : ∀ d x b l s, exec (.ldaTeam d x b l) s = execLdaTeam d x b l s := by intros; rfl
@[simp] theorem exec_ldaCluster : ∀ d x b l s, exec (.ldaCluster d x b l) s = execLdaCluster d x b l s := by intros; rfl
@[simp] theorem exec_ldaDie : ∀ d x b l s, exec (.ldaDie d x b l) s = execLdaDie d x b l s := by intros; rfl
@[simp] theorem exec_ldaPackage : ∀ d x b l s, exec (.ldaPackage d x b l) s = execLdaPackage d x b l s := by intros; rfl
@[simp] theorem exec_ldaGroup : ∀ d x b l s, exec (.ldaGroup d x b l) s = execLdaGroup d x b l s := by intros; rfl
@[simp] theorem exec_ldaSystem : ∀ d x b l s, exec (.ldaSystem d x b l) s = execLdaSystem d x b l s := by intros; rfl
@[simp] theorem exec_stlTeam : ∀ d x b l s, exec (.stlTeam d x b l) s = execStlTeam d x b l s := by intros; rfl
@[simp] theorem exec_stlCluster : ∀ d x b l s, exec (.stlCluster d x b l) s = execStlCluster d x b l s := by intros; rfl
@[simp] theorem exec_stlDie : ∀ d x b l s, exec (.stlDie d x b l) s = execStlDie d x b l s := by intros; rfl
@[simp] theorem exec_stlPackage : ∀ d x b l s, exec (.stlPackage d x b l) s = execStlPackage d x b l s := by intros; rfl
@[simp] theorem exec_stlGroup : ∀ d x b l s, exec (.stlGroup d x b l) s = execStlGroup d x b l s := by intros; rfl
@[simp] theorem exec_stlSystem : ∀ d x b l s, exec (.stlSystem d x b l) s = execStlSystem d x b l s := by intros; rfl
@[simp] theorem exec_ldfe : ∀ d x b s, exec (.ldfe d x b) s = execLdfe d x b s := by intros; rfl
@[simp] theorem exec_ldff : ∀ d x b s, exec (.ldff d x b) s = execLdff d x b s := by intros; rfl
@[simp] theorem exec_stfe : ∀ d x b s, exec (.stfe d x b) s = execStfe d x b s := by intros; rfl
@[simp] theorem exec_stff : ∀ d x b s, exec (.stff d x b) s = execStff d x b s := by intros; rfl
@[simp] theorem exec_tagrd : ∀ d x b l s, exec (.tagrd d x b l) s = execTagrd d x b l s := by intros; rfl
@[simp] theorem exec_tagwr : ∀ d x b l s, exec (.tagwr d x b l) s = execTagwr d x b l s := by intros; rfl
@[simp] theorem exec_ldc : ∀ d x b s, exec (.ldc d x b) s = execLdc d x b s := by intros; rfl
@[simp] theorem exec_stp : ∀ d x b s, exec (.stp d x b) s = execStp d x b s := by intros; rfl
@[simp] theorem exec_lnrd : ∀ d x b l s, exec (.lnrd d x b l) s = execLnrd d x b l s := by intros; rfl
@[simp] theorem exec_lnwr : ∀ d x b l s, exec (.lnwr d x b l) s = execLnwr d x b l s := by intros; rfl
@[simp] theorem exec_pref : ∀ x b l s, exec (.pref x b l) s = execPref x b l s := by intros; rfl
@[simp] theorem exec_cwb : ∀ x b l s, exec (.cwb x b l) s = execCwb x b l s := by intros; rfl
@[simp] theorem exec_cinv : ∀ x b l s, exec (.cinv x b l) s = execCinv x b l s := by intros; rfl
@[simp] theorem exec_iinv : ∀ x b l s, exec (.iinv x b l) s = execIinv x b l s := by intros; rfl
@[simp] theorem exec_ldb : ∀ d x l s, exec (.ldb d x l) s = execLdb d x l s := by intros; rfl
@[simp] theorem exec_mkb : ∀ d x b l s, exec (.mkb d x b l) s = execMkb d x b l s := by intros; rfl
@[simp] theorem exec_brd : ∀ d b l s, exec (.brd d b l) s = execBrd d b l s := by intros; rfl
@[simp] theorem exec_vqntSb3 : ∀ d x b l s, exec (.vqntSb3 d x b l) s = execVqntSb3 d x b l s := by intros; rfl
@[simp] theorem exec_vqntSb5 : ∀ d x b l s, exec (.vqntSb5 d x b l) s = execVqntSb5 d x b l s := by intros; rfl
@[simp] theorem exec_vqntSb8 : ∀ d x b l s, exec (.vqntSb8 d x b l) s = execVqntSb8 d x b l s := by intros; rfl
@[simp] theorem exec_vqntE4m3 : ∀ d x b l s, exec (.vqntE4m3 d x b l) s = execVqntE4m3 d x b l s := by intros; rfl
@[simp] theorem exec_vqntE5m2 : ∀ d x b l s, exec (.vqntE5m2 d x b l) s = execVqntE5m2 d x b l s := by intros; rfl
@[simp] theorem exec_vdqSb3 : ∀ d x b l s, exec (.vdqSb3 d x b l) s = execVdqSb3 d x b l s := by intros; rfl
@[simp] theorem exec_vdqSb5 : ∀ d x b l s, exec (.vdqSb5 d x b l) s = execVdqSb5 d x b l s := by intros; rfl
@[simp] theorem exec_vdqSb8 : ∀ d x b l s, exec (.vdqSb8 d x b l) s = execVdqSb8 d x b l s := by intros; rfl
@[simp] theorem exec_vdqE4m3 : ∀ d x b l s, exec (.vdqE4m3 d x b l) s = execVdqE4m3 d x b l s := by intros; rfl
@[simp] theorem exec_vdqE5m2 : ∀ d x b l s, exec (.vdqE5m2 d x b l) s = execVdqE5m2 d x b l s := by intros; rfl
@[simp] theorem exec_fence : ∀ k xs s, exec (.fence k xs) s = execFence k xs s := by intros; rfl
@[simp] theorem exec_fbar : ∀ s, exec (.fbar) s = execFbar s := by intros; rfl
@[simp] theorem exec_atomAdd : ∀ d x b l s, exec (.atomAdd d x b l) s = execAtomAdd d x b l s := by intros; rfl
@[simp] theorem exec_atomMin : ∀ d x b l s, exec (.atomMin d x b l) s = execAtomMin d x b l s := by intros; rfl
@[simp] theorem exec_atomMax : ∀ d x b l s, exec (.atomMax d x b l) s = execAtomMax d x b l s := by intros; rfl
@[simp] theorem exec_atomAnd : ∀ d x b l s, exec (.atomAnd d x b l) s = execAtomAnd d x b l s := by intros; rfl
@[simp] theorem exec_atomOr : ∀ d x b l s, exec (.atomOr d x b l) s = execAtomOr d x b l s := by intros; rfl
@[simp] theorem exec_atomXor : ∀ d x b l s, exec (.atomXor d x b l) s = execAtomXor d x b l s := by intros; rfl
@[simp] theorem exec_atomXchg : ∀ d x b l s, exec (.atomXchg d x b l) s = execAtomXchg d x b l s := by intros; rfl
@[simp] theorem exec_atomFadd : ∀ d x b l s, exec (.atomFadd d x b l) s = execAtomFadd d x b l s := by intros; rfl
@[simp] theorem exec_atomaAdd : ∀ d x b l s, exec (.atomaAdd d x b l) s = execAtomaAdd d x b l s := by intros; rfl
@[simp] theorem exec_atomaMin : ∀ d x b l s, exec (.atomaMin d x b l) s = execAtomaMin d x b l s := by intros; rfl
@[simp] theorem exec_atomaMax : ∀ d x b l s, exec (.atomaMax d x b l) s = execAtomaMax d x b l s := by intros; rfl
@[simp] theorem exec_atomaAnd : ∀ d x b l s, exec (.atomaAnd d x b l) s = execAtomaAnd d x b l s := by intros; rfl
@[simp] theorem exec_atomaOr : ∀ d x b l s, exec (.atomaOr d x b l) s = execAtomaOr d x b l s := by intros; rfl
@[simp] theorem exec_atomaXor : ∀ d x b l s, exec (.atomaXor d x b l) s = execAtomaXor d x b l s := by intros; rfl
@[simp] theorem exec_atomaXchg : ∀ d x b l s, exec (.atomaXchg d x b l) s = execAtomaXchg d x b l s := by intros; rfl
@[simp] theorem exec_atomaFadd : ∀ d x b l s, exec (.atomaFadd d x b l) s = execAtomaFadd d x b l s := by intros; rfl
@[simp] theorem exec_atomlAdd : ∀ d x b l s, exec (.atomlAdd d x b l) s = execAtomlAdd d x b l s := by intros; rfl
@[simp] theorem exec_atomlMin : ∀ d x b l s, exec (.atomlMin d x b l) s = execAtomlMin d x b l s := by intros; rfl
@[simp] theorem exec_atomlMax : ∀ d x b l s, exec (.atomlMax d x b l) s = execAtomlMax d x b l s := by intros; rfl
@[simp] theorem exec_atomlAnd : ∀ d x b l s, exec (.atomlAnd d x b l) s = execAtomlAnd d x b l s := by intros; rfl
@[simp] theorem exec_atomlOr : ∀ d x b l s, exec (.atomlOr d x b l) s = execAtomlOr d x b l s := by intros; rfl
@[simp] theorem exec_atomlXor : ∀ d x b l s, exec (.atomlXor d x b l) s = execAtomlXor d x b l s := by intros; rfl
@[simp] theorem exec_atomlXchg : ∀ d x b l s, exec (.atomlXchg d x b l) s = execAtomlXchg d x b l s := by intros; rfl
@[simp] theorem exec_atomlFadd : ∀ d x b l s, exec (.atomlFadd d x b l) s = execAtomlFadd d x b l s := by intros; rfl
@[simp] theorem exec_acas : ∀ d x b l s, exec (.acas d x b l) s = execAcas d x b l s := by intros; rfl
@[simp] theorem exec_aredAdd : ∀ d x b l s, exec (.aredAdd d x b l) s = execAredAdd d x b l s := by intros; rfl
@[simp] theorem exec_aredMin : ∀ d x b l s, exec (.aredMin d x b l) s = execAredMin d x b l s := by intros; rfl
@[simp] theorem exec_aredMax : ∀ d x b l s, exec (.aredMax d x b l) s = execAredMax d x b l s := by intros; rfl
@[simp] theorem exec_aredAnd : ∀ d x b l s, exec (.aredAnd d x b l) s = execAredAnd d x b l s := by intros; rfl
@[simp] theorem exec_aredOr : ∀ d x b l s, exec (.aredOr d x b l) s = execAredOr d x b l s := by intros; rfl
@[simp] theorem exec_aredXor : ∀ d x b l s, exec (.aredXor d x b l) s = execAredXor d x b l s := by intros; rfl
@[simp] theorem exec_aredXchg : ∀ d x b l s, exec (.aredXchg d x b l) s = execAredXchg d x b l s := by intros; rfl
@[simp] theorem exec_aredFadd : ∀ d x b l s, exec (.aredFadd d x b l) s = execAredFadd d x b l s := by intros; rfl
@[simp] theorem exec_bar : ∀ l k s, exec (.bar l k) s = execBar l k s := by intros; rfl
@[simp] theorem exec_bara : ∀ l k s, exec (.bara l k) s = execBara l k s := by intros; rfl
@[simp] theorem exec_barw : ∀ l k s, exec (.barw l k) s = execBarw l k s := by intros; rfl
@[simp] theorem exec_barx : ∀ a l k s, exec (.barx a l k) s = execBarx a l k s := by intros; rfl
@[simp] theorem exec_barinit : ∀ a l k s, exec (.barinit a l k) s = execBarinit a l k s := by intros; rfl
@[simp] theorem exec_baralloc : ∀ d a s, exec (.baralloc d a) s = execBaralloc d a s := by intros; rfl
@[simp] theorem exec_barfree : ∀ d k s, exec (.barfree d k) s = execBarfree d k s := by intros; rfl
@[simp] theorem exec_barmAw : ∀ a s, exec (.barmAw a) s = execBarmAw a s := by intros; rfl
@[simp] theorem exec_barmArrive : ∀ a s, exec (.barmArrive a) s = execBarmArrive a s := by intros; rfl
@[simp] theorem exec_barmWait : ∀ a s, exec (.barmWait a) s = execBarmWait a s := by intros; rfl
@[simp] theorem exec_barmBytes : ∀ a s, exec (.barmBytes a) s = execBarmBytes a s := by intros; rfl
@[simp] theorem exec_barmInit : ∀ a s, exec (.barmInit a) s = execBarmInit a s := by intros; rfl
@[simp] theorem exec_wsync : ∀ a s, exec (.wsync a) s = execWsync a s := by intros; rfl
@[simp] theorem exec_monTeam : ∀ x b l s, exec (.monTeam x b l) s = execMonTeam x b l s := by intros; rfl
@[simp] theorem exec_monCluster : ∀ x b l s, exec (.monCluster x b l) s = execMonCluster x b l s := by intros; rfl
@[simp] theorem exec_monDie : ∀ x b l s, exec (.monDie x b l) s = execMonDie x b l s := by intros; rfl
@[simp] theorem exec_monPackage : ∀ x b l s, exec (.monPackage x b l) s = execMonPackage x b l s := by intros; rfl
@[simp] theorem exec_monGroup : ∀ x b l s, exec (.monGroup x b l) s = execMonGroup x b l s := by intros; rfl
@[simp] theorem exec_monSystem : ∀ x b l s, exec (.monSystem x b l) s = execMonSystem x b l s := by intros; rfl
@[simp] theorem exec_mwait : ∀ d a s, exec (.mwait d a) s = execMwait d a s := by intros; rfl
@[simp] theorem exec_mwaitDeadline : ∀ c slot s, exec (.mwaitDeadline c slot) s = execMwaitDeadline c slot s := by intros; rfl
@[simp] theorem exec_spawn : ∀ d a c l s, exec (.spawn d a c l) s = execSpawn d a c l s := by intros; rfl
@[simp] theorem exec_join : ∀ d a c s, exec (.join d a c) s = execJoin d a c s := by intros; rfl
@[simp] theorem exec_ftest : ∀ d a c l s, exec (.ftest d a c l) s = execFtest d a c l s := by intros; rfl
@[simp] theorem exec_ffill : ∀ d a c l s, exec (.ffill d a c l) s = execFfill d a c l s := by intros; rfl
@[simp] theorem exec_tret : ∀ a s, exec (.tret a) s = execTret a s := by intros; rfl
@[simp] theorem exec_center : ∀ d a b s, exec (.center d a b) s = execCenter d a b s := by intros; rfl
@[simp] theorem exec_calu : ∀ d a o c s, exec (.calu d a o c) s = execCalu d a o c s := by intros; rfl
@[simp] theorem exec_cmovCs : ∀ d a s, exec (.cmovCs d a) s = execCmovCs d a s := by intros; rfl
@[simp] theorem exec_cmovSc : ∀ d a s, exec (.cmovSc d a) s = execCmovSc d a s := by intros; rfl
@[simp] theorem exec_cmovCc : ∀ d a s, exec (.cmovCc d a) s = execCmovCc d a s := by intros; rfl
@[simp] theorem exec_cmovCi : ∀ d xi j s, exec (.cmovCi d xi j) s = execCmovCi d xi j s := by intros; rfl
@[simp] theorem exec_cld : ∀ d a w s, exec (.cld d a w) s = execCld d a w s := by intros; rfl
@[simp] theorem exec_cst : ∀ a w v s, exec (.cst a w v) s = execCst a w v s := by intros; rfl
@[simp] theorem exec_cbr : ∀ xi s, exec (.cbr xi) s = execCbr xi s := by intros; rfl
@[simp] theorem exec_cstep : ∀ s, exec (.cstep) s = execCstep s := by intros; rfl
@[simp] theorem exec_cend : ∀ s, exec (.cend) s = execCend s := by intros; rfl
@[simp] theorem exec_cabort : ∀ s, exec (.cabort) s = execCabort s := by intros; rfl
@[simp] theorem exec_capsuleAcquire : ∀ c slot rec save s, exec (.capsuleAcquire c slot rec save) s = execCapsuleAcquire c slot rec save s := by intros; rfl
@[simp] theorem exec_capsuleProbe : ∀ c slot s, exec (.capsuleProbe c slot) s = execCapsuleProbe c slot s := by intros; rfl
@[simp] theorem exec_capsuleProbeReply : ∀ c slot s, exec (.capsuleProbeReply c slot) s = execCapsuleProbeReply c slot s := by intros; rfl
@[simp] theorem exec_capsuleAdopt : ∀ c slot s, exec (.capsuleAdopt c slot) s = execCapsuleAdopt c slot s := by intros; rfl
@[simp] theorem exec_capsuleAdoptionComplete : ∀ c slot s, exec (.capsuleAdoptionComplete c slot) s = execCapsuleAdoptionComplete c slot s := by intros; rfl
@[simp] theorem exec_capsuleCommit : ∀ c slot s, exec (.capsuleCommit c slot) s = execCapsuleCommit c slot s := by intros; rfl
@[simp] theorem exec_capsuleEnd : ∀ c slot s, exec (.capsuleEnd c slot) s = execCapsuleEnd c slot s := by intros; rfl
@[simp] theorem exec_capsuleAbortRequest : ∀ c slot s, exec (.capsuleAbortRequest c slot) s = execCapsuleAbortRequest c slot s := by intros; rfl
@[simp] theorem exec_capsuleDepartureNotice : ∀ line s, exec (.capsuleDepartureNotice line) s = execCapsuleDepartureNotice line s := by intros; rfl
@[simp] theorem exec_capsuleKillNotice : ∀ part rec ident s, exec (.capsuleKillNotice part rec ident) s = execCapsuleKillNotice part rec ident s := by intros; rfl
@[simp] theorem exec_capsuleRebind : ∀ c slot s, exec (.capsuleRebind c slot) s = execCapsuleRebind c slot s := by intros; rfl
@[simp] theorem exec_shcopy : ∀ d a c l s, exec (.shcopy d a c l) s = execShcopy d a c l s := by intros; rfl
@[simp] theorem exec_shgath : ∀ d a c l s, exec (.shgath d a c l) s = execShgath d a c l s := by intros; rfl
@[simp] theorem exec_shscat : ∀ d a c l s, exec (.shscat d a c l) s = execShscat d a c l s := by intros; rfl
@[simp] theorem exec_shmcast : ∀ d a c l s, exec (.shmcast d a c l) s = execShmcast d a c l s := by intros; rfl
@[simp] theorem exec_shcan : ∀ d a l s, exec (.shcan d a l) s = execShcan d a l s := by intros; rfl
@[simp] theorem exec_shqry : ∀ d a l s, exec (.shqry d a l) s = execShqry d a l s := by intros; rfl
@[simp] theorem exec_shput : ∀ d a c l s, exec (.shput d a c l) s = execShput d a c l s := by intros; rfl
@[simp] theorem exec_shget : ∀ d a c l s, exec (.shget d a c l) s = execShget d a c l s := by intros; rfl
@[simp] theorem exec_mma : ∀ a f p z l s, exec (.mma a f p z l) s = execMma a f p z l s := by intros; rfl
@[simp] theorem exec_mmaPass : ∀ k s, exec (.mmaPass k) s = execMmaPass k s := by intros; rfl
@[simp] theorem exec_mmaComplete : ∀ k s, exec (.mmaComplete k) s = execMmaComplete k s := by intros; rfl
@[simp] theorem exec_nmv : ∀ d a c l s, exec (.nmv d a c l) s = execNmv d a c l s := by intros; rfl
@[simp] theorem exec_engineChunk : ∀ c e s, exec (.engineChunk c e) s = execEngineChunk c e s := by intros; rfl
@[simp] theorem exec_remoteChunk : ∀ req s, exec (.remoteChunk req) s = execRemoteChunk req s := by intros; rfl
@[simp] theorem exec_promiseExpiry : ∀ c e s, exec (.promiseExpiry c e) s = execPromiseExpiry c e s := by intros; rfl
@[simp] theorem exec_longLatencyComplete : ∀ c n s, exec (.longLatencyComplete c n) s = execLongLatencyComplete c n s := by intros; rfl
@[simp] theorem exec_warpPromotion : ∀ c slot s, exec (.warpPromotion c slot) s = execWarpPromotion c slot s := by intros; rfl
@[simp] theorem exec_clockBalance : ∀ part s, exec (.clockBalance part) s = execClockBalance part s := by intros; rfl
@[simp] theorem exec_clusterClockChange : ∀ k s, exec (.clusterClockChange k) s = execClusterClockChange k s := by intros; rfl
@[simp] theorem exec_distributorStartTeam : ∀ d j s, exec (.distributorStartTeam d j) s = execDistributorStartTeam d j s := by intros; rfl
@[simp] theorem exec_teamRequest : ∀ d j s, exec (.teamRequest d j) s = execTeamRequest d j s := by intros; rfl
@[simp] theorem exec_readinessMonitorRead : ∀ c line s, exec (.readinessMonitorRead c line) s = execReadinessMonitorRead c line s := by intros; rfl
@[simp] theorem exec_taskAdmission : ∀ c n s, exec (.taskAdmission c n) s = execTaskAdmission c n s := by intros; rfl
@[simp] theorem exec_snapshotDrain : ∀ c n s, exec (.snapshotDrain c n) s = execSnapshotDrain c n s := by intros; rfl
@[simp] theorem exec_stagingAllocate : ∀ c n s, exec (.stagingAllocate c n) s = execStagingAllocate c n s := by intros; rfl
@[simp] theorem exec_stagingChunk : ∀ c n s, exec (.stagingChunk c n) s = execStagingChunk c n s := by intros; rfl
@[simp] theorem exec_stagingCancelComplete : ∀ c s, exec (.stagingCancelComplete c) s = execStagingCancelComplete c s := by intros; rfl
@[simp] theorem exec_writebackChunk : ∀ c slot s, exec (.writebackChunk c slot) s = execWritebackChunk c slot s := by intros; rfl
@[simp] theorem exec_bobbinRefill : ∀ c s, exec (.bobbinRefill c) s = execBobbinRefill c s := by intros; rfl
@[simp] theorem exec_taskDispatch : ∀ c s, exec (.taskDispatch c) s = execTaskDispatch c s := by intros; rfl
@[simp] theorem exec_stealProbe : ∀ c s, exec (.stealProbe c) s = execStealProbe c s := by intros; rfl
@[simp] theorem exec_stealRequest : ∀ c s, exec (.stealRequest c) s = execStealRequest c s := by intros; rfl
@[simp] theorem exec_stealReply : ∀ c s, exec (.stealReply c) s = execStealReply c s := by intros; rfl
@[simp] theorem exec_stealSweepWaitExpiry : ∀ c s, exec (.stealSweepWaitExpiry c) s = execStealSweepWaitExpiry c s := by intros; rfl
@[simp] theorem exec_jobEnd : ∀ j s, exec (.jobEnd j) s = execJobEnd j s := by intros; rfl
@[simp] theorem exec_jobEndRecord : ∀ j s, exec (.jobEndRecord j) s = execJobEndRecord j s := by intros; rfl
@[simp] theorem exec_l1Eviction : ∀ c line s, exec (.l1Eviction c line) s = execL1Eviction c line s := by intros; rfl
@[simp] theorem exec_l2Eviction : ∀ d line s, exec (.l2Eviction d line) s = execL2Eviction d line s := by intros; rfl
@[simp] theorem exec_writebackAck : ∀ d line s, exec (.writebackAck d line) s = execWritebackAck d line s := by intros; rfl
@[simp] theorem exec_heddleSnoop : ∀ d line s, exec (.heddleSnoop d line) s = execHeddleSnoop d line s := by intros; rfl
@[simp] theorem exec_directoryRequest : ∀ d line write s, exec (.directoryRequest d line write) s = execDirectoryRequest d line write s := by intros; rfl
@[simp] theorem exec_recallComplete : ∀ h s, exec (.recallComplete h) s = execRecallComplete h s := by intros; rfl
@[simp] theorem exec_recallTimeout : ∀ h s, exec (.recallTimeout h) s = execRecallTimeout h s := by intros; rfl
@[simp] theorem exec_overflowSweep : ∀ s, exec (.overflowSweep) s = execOverflowSweep s := by intros; rfl
@[simp] theorem exec_heddleDieLoss : ∀ h s, exec (.heddleDieLoss h) s = execHeddleDieLoss h s := by intros; rfl
@[simp] theorem exec_requestResend : ∀ d s, exec (.requestResend d) s = execRequestResend d s := by intros; rfl
@[simp] theorem exec_directoryRebuildComplete : ∀ s, exec (.directoryRebuildComplete) s = execDirectoryRebuildComplete s := by intros; rfl
@[simp] theorem exec_scaskaxonPortDown : ∀ port s, exec (.scaskaxonPortDown port) s = execScaskaxonPortDown port s := by intros; rfl
@[simp] theorem exec_memberUnreachable : ∀ pos s, exec (.memberUnreachable pos) s = execMemberUnreachable pos s := by intros; rfl
@[simp] theorem exec_scrubPass : ∀ corrected bad s, exec (.scrubPass corrected bad) s = execScrubPass corrected bad s := by intros; rfl
@[simp] theorem exec_pageWalk : ∀ part host va kind c s, exec (.pageWalk part host va kind c) s = execPageWalk part host va kind c s := by intros; rfl
@[simp] theorem exec_faultRecordSend : ∀ part k s, exec (.faultRecordSend part k) s = execFaultRecordSend part k s := by intros; rfl
@[simp] theorem exec_faultReplyResolved : ∀ part num s, exec (.faultReplyResolved part num) s = execFaultReplyResolved part num s := by intros; rfl
@[simp] theorem exec_faultReplyUnresolvable : ∀ part num s, exec (.faultReplyUnresolvable part num) s = execFaultReplyUnresolvable part num s := by intros; rfl
@[simp] theorem exec_originAgeExpiry : ∀ c s, exec (.originAgeExpiry c) s = execOriginAgeExpiry c s := by intros; rfl
@[simp] theorem exec_watchdogExpiry : ∀ j s, exec (.watchdogExpiry j) s = execWatchdogExpiry j s := by intros; rfl
@[simp] theorem exec_preemptionComplete : ∀ j s, exec (.preemptionComplete j) s = execPreemptionComplete j s := by intros; rfl
@[simp] theorem exec_restorePlace : ∀ part q s, exec (.restorePlace part q) s = execRestorePlace part q s := by intros; rfl
@[simp] theorem exec_restoreResume : ∀ part q s, exec (.restoreResume part q) s = execRestoreResume part q s := by intros; rfl
@[simp] theorem exec_queueEnable : ∀ part q v s, exec (.queueEnable part q v) s = execQueueEnable part q v s := by intros; rfl
@[simp] theorem exec_queueDisable : ∀ part q s, exec (.queueDisable part q) s = execQueueDisable part q s := by intros; rfl
@[simp] theorem exec_feQwidxWrite : ∀ part q n s, exec (.feQwidxWrite part q n) s = execFeQwidxWrite part q n s := by intros; rfl
@[simp] theorem exec_feQridxWrite : ∀ part q n s, exec (.feQridxWrite part q n) s = execFeQridxWrite part q n s := by intros; rfl
@[simp] theorem exec_jobPreempt : ∀ part job s, exec (.jobPreempt part job) s = execJobPreempt part job s := by intros; rfl
@[simp] theorem exec_jobPreemptDie : ∀ part job d s, exec (.jobPreemptDie part job d) s = execJobPreemptDie part job d s := by intros; rfl
@[simp] theorem exec_jobKill : ∀ part job s, exec (.jobKill part job) s = execJobKill part job s := by intros; rfl
@[simp] theorem exec_launch : ∀ part q s, exec (.launch part q) s = execLaunch part q s := by intros; rfl
@[simp] theorem exec_resume : ∀ part q s, exec (.resume part q) s = execResume part q s := by intros; rfl
@[simp] theorem exec_waitw : ∀ part q s, exec (.waitw part q) s = execWaitw part q s := by intros; rfl
@[simp] theorem exec_waitwTimeout : ∀ part q s, exec (.waitwTimeout part q) s = execWaitwTimeout part q s := by intros; rfl
@[simp] theorem exec_signal : ∀ part q s, exec (.signal part q) s = execSignal part q s := by intros; rfl
@[simp] theorem exec_copy : ∀ part q s, exec (.copy part q) s = execCopy part q s := by intros; rfl
@[simp] theorem exec_copyComplete : ∀ part q s, exec (.copyComplete part q) s = execCopyComplete part q s := by intros; rfl
@[simp] theorem exec_timed : ∀ part q s, exec (.timed part q) s = execTimed part q s := by intros; rfl
@[simp] theorem exec_timedPrepare : ∀ part q s, exec (.timedPrepare part q) s = execTimedPrepare part q s := by intros; rfl
@[simp] theorem exec_timedRelease : ∀ part q s, exec (.timedRelease part q) s = execTimedRelease part q s := by intros; rfl
@[simp] theorem exec_timedFirstIssue : ∀ part q s, exec (.timedFirstIssue part q) s = execTimedFirstIssue part q s := by intros; rfl
@[simp] theorem exec_fencePacket : ∀ part q s, exec (.fencePacket part q) s = execFencePacket part q s := by intros; rfl
@[simp] theorem exec_mark : ∀ part q s, exec (.mark part q) s = execMark part q s := by intros; rfl
@[simp] theorem exec_lookaheadParse : ∀ part q s, exec (.lookaheadParse part q) s = execLookaheadParse part q s := by intros; rfl
@[simp] theorem exec_queueSlotAdmit : ∀ part q s, exec (.queueSlotAdmit part q) s = execQueueSlotAdmit part q s := by intros; rfl
@[simp] theorem exec_taiSet : ∀ ns s, exec (.taiSet ns) s = execTaiSet ns s := by intros; rfl
@[simp] theorem exec_ptmRequest : ∀ s, exec (.ptmRequest) s = execPtmRequest s := by intros; rfl
@[simp] theorem exec_ptmSample : ∀ off s, exec (.ptmSample off) s = execPtmSample off s := by intros; rfl
@[simp] theorem exec_ppsEdge : ∀ s, exec (.ppsEdge) s = execPpsEdge s := by intros; rfl
@[simp] theorem exec_taiSampleTimeout : ∀ s, exec (.taiSampleTimeout) s = execTaiSampleTimeout s := by intros; rfl
@[simp] theorem exec_tlbInvalidate : ∀ part v s, exec (.tlbInvalidate part v) s = execTlbInvalidate part v s := by intros; rfl
@[simp] theorem exec_invalidationComplete : ∀ part s, exec (.invalidationComplete part) s = execInvalidationComplete part s := by intros; rfl
@[simp] theorem exec_pageTagInit : ∀ part v s, exec (.pageTagInit part v) s = execPageTagInit part v s := by intros; rfl
@[simp] theorem exec_pageTagInitComplete : ∀ part s, exec (.pageTagInitComplete part) s = execPageTagInitComplete part s := by intros; rfl
@[simp] theorem exec_partitionEnable : ∀ part s, exec (.partitionEnable part) s = execPartitionEnable part s := by intros; rfl
@[simp] theorem exec_partitionDisable : ∀ part s, exec (.partitionDisable part) s = execPartitionDisable part s := by intros; rfl
@[simp] theorem exec_partitionReset : ∀ part s, exec (.partitionReset part) s = execPartitionReset part s := by intros; rfl
@[simp] theorem exec_partitionResetComplete : ∀ part s, exec (.partitionResetComplete part) s = execPartitionResetComplete part s := by intros; rfl
@[simp] theorem exec_bucketRefill : ∀ d s, exec (.bucketRefill d) s = execBucketRefill d s := by intros; rfl
@[simp] theorem exec_hdGroupWrite : ∀ reg v s, exec (.hdGroupWrite reg v) s = execHdGroupWrite reg v s := by intros; rfl
@[simp] theorem exec_bar2Read : ∀ fn off n s, exec (.bar2Read fn off n) s = execBar2Read fn off n s := by intros; rfl
@[simp] theorem exec_bar2Write : ∀ fn off bytes s, exec (.bar2Write fn off bytes) s = execBar2Write fn off bytes s := by intros; rfl
@[simp] theorem exec_functionLevelReset : ∀ fn s, exec (.functionLevelReset fn) s = execFunctionLevelReset fn s := by intros; rfl
@[simp] theorem exec_pcieLinkDown : ∀ s, exec (.pcieLinkDown) s = execPcieLinkDown s := by intros; rfl
@[simp] theorem exec_pcieLinkUp : ∀ s, exec (.pcieLinkUp) s = execPcieLinkUp s := by intros; rfl
@[simp] theorem exec_hostCompletion : ∀ c s, exec (.hostCompletion c) s = execHostCompletion c s := by intros; rfl
@[simp] theorem exec_bundleUpdate : ∀ s, exec (.bundleUpdate) s = execBundleUpdate s := by intros; rfl
@[simp] theorem exec_updateComplete : ∀ s, exec (.updateComplete) s = execUpdateComplete s := by intros; rfl
@[simp] theorem exec_measure : ∀ s, exec (.measure) s = execMeasure s := by intros; rfl
@[simp] theorem exec_measurementReport : ∀ s, exec (.measurementReport) s = execMeasurementReport s := by intros; rfl
@[simp] theorem exec_commitSvn : ∀ key s, exec (.commitSvn key) s = execCommitSvn key s := by intros; rfl
@[simp] theorem exec_packageReset : ∀ key s, exec (.packageReset key) s = execPackageReset key s := by intros; rfl
@[simp] theorem exec_recoveryBundle : ∀ s, exec (.recoveryBundle) s = execRecoveryBundle s := by intros; rfl
@[simp] theorem exec_powerOn : ∀ s, exec (.powerOn) s = execPowerOn s := by intros; rfl
@[simp] theorem exec_coldReset : ∀ s, exec (.coldReset) s = execColdReset s := by intros; rfl
@[simp] theorem exec_bootVerify : ∀ s, exec (.bootVerify) s = execBootVerify s := by intros; rfl
@[simp] theorem exec_bootLoad : ∀ ok s, exec (.bootLoad ok) s = execBootLoad ok s := by intros; rfl
@[simp] theorem exec_bootClear : ∀ s, exec (.bootClear) s = execBootClear s := by intros; rfl
@[simp] theorem exec_bootReady : ∀ s, exec (.bootReady) s = execBootReady s := by intros; rfl
@[simp] theorem exec_i3cStatus : ∀ s, exec (.i3cStatus) s = execI3cStatus s := by intros; rfl
@[simp] theorem exec_i3cImageBlock : ∀ num bytes s, exec (.i3cImageBlock num bytes) s = execI3cImageBlock num bytes s := by intros; rfl
@[simp] theorem exec_i3cImageEnd : ∀ len s, exec (.i3cImageEnd len) s = execI3cImageEnd len s := by intros; rfl
@[simp] theorem exec_i3cMeasure : ∀ nonce s, exec (.i3cMeasure nonce) s = execI3cMeasure nonce s := by intros; rfl
@[simp] theorem exec_i3cPackageReset : ∀ key s, exec (.i3cPackageReset key) s = execI3cPackageReset key s := by intros; rfl
@[simp] theorem exec_eolRecompute : ∀ trend s, exec (.eolRecompute trend) s = execEolRecompute trend s := by intros; rfl
@[simp] theorem exec_powerSample : ∀ vin pin tj s, exec (.powerSample vin pin tj) s = execPowerSample vin pin tj s := by intros; rfl
@[simp] theorem exec_throttleStep : ∀ s, exec (.throttleStep) s = execThrottleStep s := by intros; rfl
@[simp] theorem exec_inputUndervoltage : ∀ s, exec (.inputUndervoltage) s = execInputUndervoltage s := by intros; rfl
@[simp] theorem exec_inputOutOfRange : ∀ s, exec (.inputOutOfRange) s = execInputOutOfRange s := by intros; rfl
@[simp] theorem exec_thermalThrottle : ∀ d s, exec (.thermalThrottle d) s = execThermalThrottle d s := by intros; rfl
@[simp] theorem exec_thermalShutdown : ∀ s, exec (.thermalShutdown) s = execThermalShutdown s := by intros; rfl
@[simp] theorem exec_feHeartbeat : ∀ s, exec (.feHeartbeat) s = execFeHeartbeat s := by intros; rfl
@[simp] theorem exec_heartbeatTimeout : ∀ s, exec (.heartbeatTimeout) s = execHeartbeatTimeout s := by intros; rfl
@[simp] theorem exec_autoReset : ∀ s, exec (.autoReset) s = execAutoReset s := by intros; rfl
@[simp] theorem exec_registerWrite : ∀ fn off v s, exec (.registerWrite fn off v) s = execRegisterWrite fn off v s := by intros; rfl
@[simp] theorem exec_scaskaxonPortUp : ∀ port s, exec (.scaskaxonPortUp port) s =
    execScaskaxonPortUp port s := by intros; rfl
@[simp] theorem exec_linkLevelReplay : ∀ port ok s, exec (.linkLevelReplay port ok) s = execLinkLevelReplay port ok s := by intros; rfl
@[simp] theorem exec_inputVoltageHeld : ∀ s, exec (.inputVoltageHeld) s = execInputVoltageHeld s := by intros; rfl
@[simp] theorem exec_timedPreparationComplete : ∀ part q s, exec (.timedPreparationComplete part q) s = execTimedPreparationComplete part q s := by intros; rfl

end Sys2Proof.Machine
end

