-- ==== Sys2Proof/Laws/Map.lean ====
section
/-! SUPPORT. Maps: what each operation lists, and that every one keeps the canonical form. -/

namespace Sys2Proof.Machine.FMap

variable {α : Type}

/-! ## What an operation lists -/

@[simp] theorem look_nil (x : Nat) : look ([] : FMap α) x = none := rfl
@[simp] theorem getD_nil (x : Nat) (d : α) : getD ([] : FMap α) x d = d := rfl

theorem look_ins (m : FMap α) (x y : Nat) (v : α) : look (ins m x v) y = if y = x then some v else look m y := by
  induction m with
  | nil => rfl
  | cons p m ih =>
    obtain ⟨k, w⟩ := p
    simp only [ins]
    split
    · simp [look]
    · split
      · subst_vars
        by_cases h : y = k <;> simp [look, h]
      · by_cases h : y = k
        · have : y ≠ x := by omega
          simp [look, h]
          intro hx
          omega
        · simp [look, h, ih]

@[simp] theorem look_ins_self (m : FMap α) (x : Nat) (v : α) : look (ins m x v) x = some v := by simp [look_ins]

theorem look_ins_ne (m : FMap α) {x y : Nat} (v : α) (h : y ≠ x) : look (ins m x v) y = look m y := by simp [look_ins, h]

theorem look_del (m : FMap α) (x y : Nat) : look (del m x) y = if y = x then none else look m y := by
  induction m with
  | nil => simp [del]
  | cons p m ih =>
    obtain ⟨k, w⟩ := p
    simp only [del]
    split
    · subst_vars
      rw [ih]
      by_cases h : y = k <;> simp [look, h]
    · by_cases h : y = k
      · have : y ≠ x := by omega
        simp [look, h]
        intro hx
        omega
      · simp [look, h, ih]

@[simp] theorem look_del_self (m : FMap α) (x : Nat) : look (del m x) x = none := by simp [look_del]

theorem look_del_ne (m : FMap α) {x y : Nat} (h : y ≠ x) : look (del m x) y = look m y := by simp [look_del, h]

theorem getD_ins (m : FMap α) (x y : Nat) (v d : α) : getD (ins m x v) y d = if y = x then v else getD m y d := by
  simp only [getD, look_ins]
  split <;> rfl

@[simp] theorem getD_ins_self (m : FMap α) (x : Nat) (v d : α) : getD (ins m x v) x d = v := by simp [getD_ins]

theorem getD_put [DecidableEq α] (m : FMap α) (d : α) (x y : Nat) (v : α) :
    getD (put m d x v) y d = if y = x then v else getD m y d := by
  unfold put
  split
  · subst_vars
    simp only [getD, look_del]
    split <;> rfl
  · exact getD_ins m x y v d

/-- What is written reads back. -/
@[simp] theorem getD_put_self [DecidableEq α] (m : FMap α) (d : α) (x : Nat) (v : α) : getD (put m d x v) x d = v := by
  simp [getD_put]

/-- A write leaves every other key alone. -/
theorem getD_put_ne [DecidableEq α] (m : FMap α) (d : α) {x y : Nat} (v : α) (h : y ≠ x) :
    getD (put m d x v) y d = getD m y d := by
  simp [getD_put, h]

/-- A test of the keys alone. -/
theorem look_keep (m : FMap α) (g : Nat → Bool) (x : Nat) :
    look (keep m fun a _ => g a) x = if g x then look m x else none := by
  induction m with
  | nil => simp [keep]
  | cons p m ih =>
    obtain ⟨k, w⟩ := p
    simp only [keep, List.filter] at ih ⊢
    by_cases hk : x = k
    · subst hk
      cases hg : g x
      · simp only [hg] at ih
        simpa using ih
      · simp [look]
    · cases hg : g k
      · simp [look, hk, ih]
      · simp [look, hk, ih]

@[simp] theorem look_mapV {β : Type} (m : FMap α) (f : Nat → α → β) (x : Nat) :
    look (mapV m f) x = (look m x).map (f x) := by
  induction m with
  | nil => rfl
  | cons p m ih =>
    obtain ⟨k, w⟩ := p
    simp only [mapV, List.map, look]
    split
    · subst_vars
      rfl
    · exact ih

/-! ## The canonical form -/

/-- A bound that is lower still bounds. -/
theorem risingFrom_mono {a b : Nat} (h : a ≤ b) : ∀ m : FMap α, risingFrom (some b) m = true → risingFrom (some a) m = true
  | [], _ => rfl
  | (k, _) :: m, hm => by
    simp only [risingFrom, Bool.and_eq_true, decide_eq_true_eq] at hm ⊢
    exact ⟨by omega, hm.2⟩

theorem risingFrom_none {m : FMap α} {a : Nat} (h : risingFrom (some a) m = true) : risingFrom none m = true := by
  cases m with
  | nil => rfl
  | cons p m =>
    simp only [risingFrom, Bool.and_eq_true] at h ⊢
    exact h.2

theorem risingFrom_ins (lo : Option Nat) (m : FMap α) (x : Nat) (v : α) (hx : ∀ a, lo = some a → a < x)
    (h : risingFrom lo m = true) : risingFrom lo (ins m x v) = true := by
  induction m generalizing lo with
  | nil =>
    cases lo with
    | none => rfl
    | some a => simp [ins, risingFrom, hx a rfl]
  | cons p m ih =>
    obtain ⟨k, w⟩ := p
    have hk : risingFrom (some k) m = true := by
      cases lo with
      | none => exact h
      | some a =>
        simp only [risingFrom, Bool.and_eq_true] at h
        exact h.2
    have hlo : ∀ a, lo = some a → a < k := by
      intro a ha
      subst ha
      simp only [risingFrom, Bool.and_eq_true, decide_eq_true_eq] at h
      exact h.1
    simp only [ins]
    split
    · rename_i hlt
      cases lo with
      | none => simp [risingFrom, hlt, hk]
      | some a => simp [risingFrom, hlt, hk, hx a rfl]
    · split
      · subst_vars
        cases lo with
        | none => exact hk
        | some a => simp [risingFrom, hk, hx a rfl]
      · have hkx : k < x := by omega
        have := ih (some k) (by intro a ha; cases ha; exact hkx) hk
        cases lo with
        | none => exact this
        | some a => simp [risingFrom, this, hlo a rfl]

/-- Pairs dropped from a rising list leave it rising. -/
theorem risingFrom_filter (lo : Option Nat) (m : FMap α) (f : Nat × α → Bool) (h : risingFrom lo m = true) :
    risingFrom lo (m.filter f) = true := by
  induction m generalizing lo with
  | nil => exact h
  | cons p m ih =>
    obtain ⟨k, w⟩ := p
    have hk : risingFrom (some k) m = true := by
      cases lo with
      | none => exact h
      | some a =>
        simp only [risingFrom, Bool.and_eq_true] at h
        exact h.2
    simp only [List.filter]
    split
    · cases lo with
      | none => exact ih (some k) hk
      | some a =>
        simp only [risingFrom, Bool.and_eq_true] at h ⊢
        exact ⟨h.1, ih (some k) hk⟩
    · cases lo with
      | none => exact ih none (risingFrom_none hk)
      | some a =>
        simp only [risingFrom, Bool.and_eq_true, decide_eq_true_eq] at h
        exact ih (some a) (risingFrom_mono (by omega) m hk)

theorem del_eq_filter (m : FMap α) (x : Nat) : del m x = m.filter fun p => decide (x ≠ p.1) := by
  induction m with
  | nil => rfl
  | cons p m ih =>
    obtain ⟨k, w⟩ := p
    simp only [del, List.filter]
    split <;> simp_all

theorem mem_ins {m : FMap α} {x : Nat} {v : α} {p : Nat × α} (h : p ∈ ins m x v) : p = (x, v) ∨ p ∈ m := by
  induction m with
  | nil => exact .inl (by simpa [ins] using h)
  | cons q m ih =>
    obtain ⟨k, w⟩ := q
    simp only [ins] at h
    split at h
    · rcases List.mem_cons.mp h with h | h
      · exact .inl h
      · exact .inr h
    · split at h
      · rcases List.mem_cons.mp h with h | h
        · exact .inl h
        · exact .inr (List.mem_cons_of_mem _ h)
      · rcases List.mem_cons.mp h with h | h
        · exact .inr (h ▸ List.mem_cons_self ..)
        · rcases ih h with h | h
          · exact .inl h
          · exact .inr (List.mem_cons_of_mem _ h)

variable [DecidableEq α]

@[simp] theorem wf_nil (d : α) : wf ([] : FMap α) d = true := rfl

theorem wf_filter {m : FMap α} {d : α} (f : Nat × α → Bool) (h : wf m d = true) : wf (m.filter f) d = true := by
  simp only [wf, Bool.and_eq_true, List.all_eq_true] at h ⊢
  exact ⟨risingFrom_filter none m f h.1, fun p hp => h.2 p ((List.mem_filter.mp hp).1)⟩

theorem wf_keep {m : FMap α} {d : α} (f : Nat → α → Bool) (h : wf m d = true) : wf (keep m f) d = true := wf_filter _ h

theorem wf_del {m : FMap α} {d : α} (x : Nat) (h : wf m d = true) : wf (del m x) d = true := by
  rw [del_eq_filter]
  exact wf_filter _ h

/-- Every write keeps the canonical form. -/
theorem wf_put {m : FMap α} {d : α} (x : Nat) (v : α) (h : wf m d = true) : wf (put m d x v) d = true := by
  unfold put
  split
  · exact wf_del x h
  · rename_i hv
    simp only [wf, Bool.and_eq_true, List.all_eq_true, decide_eq_true_eq] at h ⊢
    refine ⟨risingFrom_ins none m x v (by intro a ha; cases ha) h.1, fun p hp => ?_⟩
    rcases mem_ins hp with rfl | hp
    · exact hv
    · exact h.2 p hp

/-- A list of writes keeps it. -/
theorem wf_foldl_put {β : Type} {d : α} (k : β → Nat) (v : β → α) : ∀ (xs : List β) {m : FMap α}, wf m d = true →
    wf (xs.foldl (fun m x => put m d (k x) (v x)) m) d = true
  | [], _, h => h
  | x :: xs, _, h => wf_foldl_put k v xs (wf_put (k x) (v x) h)

theorem wf_foldl_del {d : α} : ∀ (xs : List Nat) {m : FMap α}, wf m d = true → wf (xs.foldl del m) d = true
  | [], _, h => h
  | x :: xs, _, h => wf_foldl_del xs (wf_del x h)

end Sys2Proof.Machine.FMap
end

