-- ==== Sys2Proof/Laws/Memory.lean ====
section
/-! SUPPORT. Memory: reads after writes, and that every operation on memory keeps its canonical form. -/

namespace Sys2Proof.Machine

open FMap

/-! ## Bytes -/

theorem getD_writeN (m : FMap Byte) (a x : Nat) (bs : List Byte) :
    (writeN m a bs).getD x 0 = if a ≤ x ∧ x < a + bs.length then bs.getD (x - a) 0 else m.getD x 0 := by
  induction bs generalizing m a with
  | nil =>
    simp only [writeN, List.length_nil]
    rw [if_neg (by omega)]
  | cons b bs ih =>
    simp only [writeN, ih, getD_put, List.length_cons]
    by_cases h1 : a + 1 ≤ x ∧ x < a + 1 + bs.length
    · rw [if_pos h1, if_pos (by omega), show x - a = (x - (a + 1)) + 1 by omega]
      simp
    · rw [if_neg h1]
      by_cases h2 : x = a
      · subst h2
        rw [if_pos rfl, if_pos (by omega)]
        simp
      · rw [if_neg h2, if_neg (by omega)]

/-- A write leaves every byte outside it alone. -/
theorem getD_writeN_out (m : FMap Byte) {a x : Nat} (bs : List Byte) (h : x < a ∨ a + bs.length ≤ x) :
    (writeN m a bs).getD x 0 = m.getD x 0 := by
  rw [getD_writeN, if_neg (by omega)]

theorem wf_writeN (m : FMap Byte) (a : Nat) (bs : List Byte) (h : m.wf 0 = true) : (writeN m a bs).wf 0 = true := by
  induction bs generalizing m a with
  | nil => exact h
  | cons b bs ih => exact ih _ _ (wf_put a b h)

@[simp] theorem readN_length (m : FMap Byte) (a n : Nat) : (readN m a n).length = n := by
  induction n generalizing a with
  | zero => rfl
  | succ n ih => simp [readN, ih]

theorem readN_congr {m m' : FMap Byte} (n a : Nat) (h : ∀ x, a ≤ x → x < a + n → m.getD x 0 = m'.getD x 0) :
    readN m a n = readN m' a n := by
  induction n generalizing a with
  | zero => rfl
  | succ n ih =>
    simp only [readN]
    rw [h a (by omega) (by omega), ih (a + 1) fun x h1 h2 => h x (by omega) (by omega)]

/-- Bytes that a write does not touch read as before. -/
theorem readN_writeN_out (m : FMap Byte) {a b n : Nat} (bs : List Byte) (h : b + n ≤ a ∨ a + bs.length ≤ b) :
    readN (writeN m a bs) b n = readN m b n :=
  readN_congr n b fun x _ _ => getD_writeN_out m bs (by omega)

@[simp] theorem natOf_bytesOf (n x : Nat) : natOf (bytesOf n x) = x % 256 ^ n := by
  induction n generalizing x with
  | zero => simp [bytesOf, natOf, Nat.mod_one]
  | succ n ih =>
    simp only [bytesOf, natOf, ih, BitVec.toNat_ofNat]
    rw [show 256 ^ (n + 1) = 256 * 256 ^ n by rw [Nat.pow_succ, Nat.mul_comm], Nat.mod_mul]

@[simp] theorem bytesOf_length (n x : Nat) : (bytesOf n x).length = n := by
  induction n generalizing x with
  | zero => rfl
  | succ n ih => simp [bytesOf, ih]

/-! ## The canonical form -/

/-- Two states with the same memory have the form alike. -/
theorem memoryOk_congr {s t : State} (h1 : t.mem = s.mem) (h2 : t.tags = s.tags) (h3 : t.lineFull = s.lineFull)
    (h4 : t.poison = s.poison) : t.memoryOk = s.memoryOk := by
  simp only [State.memoryOk, h1, h2, h3, h4]

theorem reset_memoryOk : State.reset.memoryOk = true := rfl

theorem write_memoryOk {s : State} (a : Nat) (bs : List Byte) (h : s.memoryOk = true) : (s.write a bs).memoryOk = true := by
  simp only [State.memoryOk, Bool.and_eq_true] at h ⊢
  exact ⟨⟨⟨wf_writeN _ _ _ h.1.1.1, h.1.1.2⟩, h.1.2⟩, wf_foldl_del _ h.2⟩

theorem setTag_memoryOk {s : State} (a : Nat) (b : Bool) (h : s.memoryOk = true) : (s.setTag a b).memoryOk = true := by
  simp only [State.memoryOk, Bool.and_eq_true] at h ⊢
  exact ⟨⟨⟨h.1.1.1, wf_put _ _ h.1.1.2⟩, h.1.2⟩, h.2⟩

theorem setCore_memoryOk {s : State} (c : Nat) (x : Core) (h : s.memoryOk = true) : (s.setCore c x).memoryOk = true := h
theorem setDie_memoryOk {s : State} (d : Nat) (x : Die) (h : s.memoryOk = true) : (s.setDie d x).memoryOk = true := h
theorem setPart_memoryOk {s : State} (p : Nat) (x : Partition) (h : s.memoryOk = true) : (s.setPart p x).memoryOk = true := h
theorem setWarp_memoryOk {s : State} (c k : Nat) (w : Warp) (h : s.memoryOk = true) : (s.setWarp c k w).memoryOk = true := h
theorem setCw_memoryOk {s : State} (w : Warp) (h : s.memoryOk = true) : (s.setCw w).memoryOk = true := h

/-- What holds of a state and is kept by every step of a fold holds at its end. -/
theorem foldl_keeps {β : Type} (P : State → Prop) (f : State → β → State) (hf : ∀ s x, P s → P (f s x)) :
    ∀ (xs : List β) (s : State), P s → P (xs.foldl f s)
  | [], _, h => h
  | x :: xs, s, h => foldl_keeps P f hf xs (f s x) (hf s x h)

theorem hostWrite_memoryOk {s : State} (a : Nat) (bs : List Byte) (h : s.memoryOk = true) : (s.hostWrite a bs).memoryOk = true := by
  unfold State.hostWrite
  split
  · exact write_memoryOk a bs h
  · exact h

theorem setHd_memoryOk {s : State} (x : Heddle) (h : s.memoryOk = true) : ({ s with hd := x } : State).memoryOk = true := h

theorem takeTokens_memoryOk {s : State} (d p n : Nat) (h : s.memoryOk = true) : (s.takeTokens d p n).memoryOk = true := by
  unfold State.takeTokens
  dsimp only
  split <;> exact h

theorem charge_memoryOk {s : State} (c n : Nat) (h : s.memoryOk = true) : (s.charge c n).memoryOk = true := by
  unfold State.charge
  split
  · exact h
  · exact takeTokens_memoryOk _ _ n h

theorem chargeAt_memoryOk {s : State} (c a n : Nat) (h : s.memoryOk = true) : (s.chargeAt c a n).memoryOk = true := by
  unfold State.chargeAt
  split
  · exact h
  · exact charge_memoryOk c n h

theorem hostFlush_memoryOk {s : State} (line : Nat) (h : s.memoryOk = true) : (s.hostFlush line).memoryOk = true := by
  unfold State.hostFlush
  have k := foldl_keeps (·.memoryOk = true) (fun (s : State) (r : Nat × List Byte) => s.hostWrite r.1 r.2)
    (fun s r h => hostWrite_memoryOk r.1 r.2 h) (runsOf ((s.die (homeDie line)).hdirty.keep fun a _ => lineOf a == line)) s h
  simp only [State.memoryOk, Bool.and_eq_true] at h k ⊢
  exact ⟨k.1, h.2⟩

theorem l2Room_memoryOk {s : State} (p line : Nat) (h : s.memoryOk = true) : (s.l2Room p line).memoryOk = true := by
  unfold State.l2Room
  dsimp only
  repeat' split
  all_goals first
    | exact h
    | exact setDie_memoryOk _ _ h
    | exact setDie_memoryOk _ _ (hostFlush_memoryOk _ h)

theorem l2Keep_memoryOk {s : State} (p line : Nat) (h : s.memoryOk = true) : (s.l2Keep p line).memoryOk = true := by
  unfold State.l2Keep
  split
  · dsimp only
    split
    · exact l2Room_memoryOk p line h
    · exact setDie_memoryOk _ _ (l2Room_memoryOk p line h)
  · exact h

theorem writtenOver_wf {poison : FMap Bool} (fresh : FMap Bool) (a n : Nat) (h : poison.wf false = true) :
    (writtenOver poison fresh a n).1.wf false = true := by
  unfold writtenOver
  split
  · exact h
  · dsimp only
    exact wf_keep _ h

theorem slicePut_memoryOk {s : State} (p a : Nat) (bs : List Byte) (h : s.memoryOk = true) :
    (s.slicePut p a bs).memoryOk = true := by
  unfold State.slicePut
  split
  · have k := l2Room_memoryOk p (lineOf a) h
    revert k
    generalize s.l2Room p (lineOf a) = t
    intro k
    dsimp only
    split
    · have e : ∀ (u : State) (m : FMap Bool) (ls : List Nat), u.memoryOk = true → m.wf false = true →
          ({ u with poison := m, touched := ls } : State).memoryOk = true := fun u m ls hu hm => by
        simp only [State.memoryOk, Bool.and_eq_true] at hu ⊢
        exact ⟨hu.1, hm⟩
      refine e _ _ _ (setDie_memoryOk _ _ k) (writtenOver_wf _ _ _ ?_)
      simp only [State.memoryOk, Bool.and_eq_true] at k
      exact k.2
    · exact hostWrite_memoryOk a bs k
  · exact write_memoryOk a bs h

theorem takeDirty_memoryOk {s : State} (c : Nat) (f : Nat → Bool) (h : s.memoryOk = true) :
    (s.takeDirty c f).2.2.memoryOk = true := h

theorem poisonAt_memoryOk {s : State} (us : List Nat) (h : s.memoryOk = true) : (s.poisonAt us).memoryOk = true := by
  simp only [State.memoryOk, Bool.and_eq_true] at h ⊢
  exact ⟨h.1, wf_foldl_put id (fun _ => true) us h.2⟩

/-! ### Drains: what one drain keeps, every set of drains keeps -/

section Drains

variable {dr : State → Nat → State} (hd : ∀ s x, s.memoryOk = true → (dr s x).memoryOk = true)
include hd

theorem drainSome_memoryOk {s : State} (d line : Nat) (f : Nat × Nat → Option Bool) (h : s.memoryOk = true) :
    (s.drainSome dr d line f).memoryOk = true := by
  unfold State.drainSome
  refine foldl_keeps (·.memoryOk = true) _ (fun s p h => ?_) _ s h
  cases f p with
  | none =>
    dsimp only
    split
    · exact setDie_memoryOk _ _ (hd _ _ h)
    · exact h
  | some b =>
    dsimp only
    split
    · exact setDie_memoryOk _ _ (hd _ _ h)
    · exact h

theorem gatherBy_memoryOk {s : State} (line except scope : Nat) (h : s.memoryOk = true) :
    (s.gatherBy dr line except scope).memoryOk = true :=
  foldl_keeps (·.memoryOk = true) _ (fun _ d h => drainSome_memoryOk hd d line _ h) _ s h

theorem direct_memoryOk {s : State} (d line : Nat) (write : Bool) (h : s.memoryOk = true) :
    (s.direct dr d line write).memoryOk = true := by
  unfold State.direct
  dsimp only
  split
  · exact h
  · split
    · exact h
    · split
      · rename_i v _
        have k := foldl_keeps (·.memoryOk = true) (fun (s : State) e => s.drainSome dr e v.line fun _ => some true)
          (fun _ e h => drainSome_memoryOk hd e v.line _ h) (List.range 4) s h
        revert k
        generalize (List.range 4).foldl (fun (s : State) e => s.drainSome dr e v.line fun _ => some true) s = u
        intro k
        exact k
      · exact h

theorem request_memoryOk {s : State} (q line : Nat) (write : Bool) (h : s.memoryOk = true) :
    (s.request dr q line write).memoryOk = true := by
  have k := direct_memoryOk hd q line write (setHd_memoryOk (s.hd.nextSeq q).2 h)
  revert k
  unfold State.request
  dsimp only
  generalize State.direct _ dr q line write = u
  exact fun k => k

theorem obtainBy_memoryOk {s : State} (d line scope : Nat) (write : Bool) (h : s.memoryOk = true) :
    (s.obtainBy dr d line scope write).memoryOk = true := by
  have hg := request_memoryOk hd d line write (gatherBy_memoryOk hd line d scope h)
  unfold State.obtainBy
  split
  · exact h
  · cases s.hd.entry line <;>
    · dsimp only
      repeat' split
      all_goals first
        | exact h
        | exact hg

end Drains

theorem writeBackN_memoryOk : ∀ (n : Nat) {s : State} (c : Nat) (f : Nat → Bool), s.memoryOk = true →
    (State.writeBackN n s c f).memoryOk = true
  | 0, _, _, _, h => h
  | n + 1, s, c, f, h => by
    have step : ∀ t : State, t.memoryOk = true → ∀ rs : List (Nat × List Byte), (rs.foldl (fun (u : State) r =>
        (u.obtainBy (fun s x => State.writeBackN n s x fun _ => true) (dieOf c) (lineOf r.1) 3 true).slicePut
          (s.corePart c) r.1 r.2) t).memoryOk = true := fun t ht rs =>
      foldl_keeps (·.memoryOk = true) _ (fun u r h =>
        slicePut_memoryOk _ _ _ (obtainBy_memoryOk (fun _ x h => writeBackN_memoryOk n x _ h) _ _ _ _ h)) rs t ht
    have ht := takeDirty_memoryOk c f h
    simp only [State.writeBackN]
    generalize s.takeDirty c f = x at ht ⊢
    have hu : ∀ k, (if x.1.isEmpty then x.2.2 else x.2.2.spend (dieOf c) (s.corePart c) k).memoryOk = true := fun k => by
      split <;> exact ht
    split
    · exact step _ (hu _) _
    · exact poisonAt_memoryOk _ (step _ (hu _) _)

theorem writeBack_memoryOk {s : State} (c : Nat) (f : Nat → Bool) (h : s.memoryOk = true) : (s.writeBack c f).memoryOk = true :=
  writeBackN_memoryOk _ c f h

theorem drain_memoryOk {s : State} (c : Nat) (h : s.memoryOk = true) : (s.drain c).memoryOk = true := writeBack_memoryOk c _ h

theorem writeBackLine_memoryOk {s : State} (c line : Nat) (h : s.memoryOk = true) : (s.writeBackLine c line).memoryOk = true :=
  writeBack_memoryOk c _ h

theorem selfInvalidate_memoryOk {s : State} (c : Nat) (h : s.memoryOk = true) : (s.selfInvalidate c).memoryOk = true := h

theorem l1Drop_memoryOk {s : State} (c line : Nat) (h : s.memoryOk = true) : (s.l1Drop c line).memoryOk = true :=
  setCore_memoryOk _ _ (writeBackLine_memoryOk c line h)

theorem drains_keep : ∀ (s : State) (x : Nat), s.memoryOk = true → (s.drain x).memoryOk = true := fun _ x h => drain_memoryOk x h

theorem drainRecorded_memoryOk {s : State} (d line : Nat) (keep : Option Nat) (h : s.memoryOk = true) :
    (s.drainRecorded d line keep).memoryOk = true := drainSome_memoryOk drains_keep d line _ h

theorem gather_memoryOk {s : State} (line except : Nat) (h : s.memoryOk = true) : (s.gather line except).memoryOk = true :=
  gatherBy_memoryOk drains_keep line except 3 h

theorem obtain_memoryOk {s : State} (d line : Nat) (write : Bool) (h : s.memoryOk = true) :
    (s.obtain d line write).memoryOk = true := obtainBy_memoryOk drains_keep d line 3 write h

theorem obtainHome_memoryOk {s : State} (line : Nat) (h : s.memoryOk = true) : (s.obtainHome line).memoryOk = true := by
  unfold State.obtainHome
  have h0 : (if (s.hd.entry line).any fun e => e.beyond s.groupPos then { s with touched := addNew s.touched line } else s).memoryOk =
      true := by split <;> exact h
  revert h0
  dsimp only
  generalize (if ((s.hd.entry line).any fun e => e.beyond s.groupPos) = true then
    ({ s with touched := addNew s.touched line } : State) else s) = u
  intro hu
  split
  · exact gather_memoryOk _ _ hu
  · split
    · exact obtain_memoryOk _ _ _ hu
    · split
      · exact hu
      · exact setHd_memoryOk _ (gather_memoryOk _ _ hu)

theorem sliceWrite_memoryOk {s : State} (c a : Nat) (bs : List Byte) (h : s.memoryOk = true) :
    (s.sliceWrite c a bs).memoryOk = true := slicePut_memoryOk _ _ _ (obtain_memoryOk _ _ _ h)

/-! ### L1 -/

theorem l1Room_memoryOk {s : State} (c line : Nat) (h : s.memoryOk = true) : (s.l1Room c line).memoryOk = true := by
  unfold State.l1Room
  dsimp only
  repeat' split
  all_goals first
    | exact h
    | exact l1Drop_memoryOk _ _ h

theorem l1Fill_memoryOk {s : State} (c line : Nat) (h : s.memoryOk = true) : (s.l1Fill c line).memoryOk = true :=
  setCore_memoryOk _ _ (l1Room_memoryOk c line h)

theorem l1Read_memoryOk {s : State} (c a n : Nat) (noalloc : Bool) (h : s.memoryOk = true) :
    (s.l1Read c a n noalloc).2.memoryOk = true := by
  have h' := l2Keep_memoryOk (s.corePart c) (lineOf a)
    (obtain_memoryOk (dieOf c) (lineOf a) false (charge_memoryOk c n h))
  unfold State.l1Read
  dsimp only
  split
  · exact h
  · dsimp only
    split
    · exact h'
    · exact l1Fill_memoryOk _ _ h'

theorem l1Write_memoryOk {s : State} (c a : Nat) (bs : List Byte) (h : s.memoryOk = true) : (s.l1Write c a bs).memoryOk = true :=
  l1Room_memoryOk c (lineOf a) h

theorem l1Update_memoryOk {s : State} (c a : Nat) (bs : List Byte) (h : s.memoryOk = true) : (s.l1Update c a bs).memoryOk = true := h

/-! ### Releases and acquires -/

theorem releaseRecord_memoryOk {s : State} (c line scope : Nat) (h : s.memoryOk = true) :
    (s.releaseRecord c line scope).memoryOk = true := by
  unfold State.releaseRecord
  dsimp only
  split
  · exact h
  · repeat' split
    all_goals first
      | exact h
      | exact drain_memoryOk c h

theorem acquireLine_memoryOk {s : State} (c line scope : Nat) (h : s.memoryOk = true) :
    (s.acquireLine c line scope).memoryOk = true :=
  drainSome_memoryOk drains_keep _ _ _ (gatherBy_memoryOk drains_keep _ _ _
    (obtainBy_memoryOk drains_keep _ _ _ _ (writeBackLine_memoryOk c line (charge_memoryOk c 128 h))))

theorem packageReset_memoryOk {s : State} (h : s.memoryOk = true) : s.packageReset.memoryOk = true := by
  simp only [State.memoryOk, Bool.and_eq_true] at h ⊢
  exact ⟨⟨h.1.1, rfl⟩, h.2⟩

theorem finishReset_parts_memoryOk {s : State} (g : Nat → Bool) (h : s.memoryOk = true) :
    ({ s with mem := s.mem.keep fun a _ => g a, lineFull := s.lineFull.keep fun a _ => g a
              poison := s.poison.keep fun a _ => g a } : State).memoryOk = true := by
  simp only [State.memoryOk, Bool.and_eq_true] at h ⊢
  exact ⟨⟨⟨wf_keep _ h.1.1.1, h.1.1.2⟩, wf_keep _ h.1.2⟩, wf_keep _ h.2⟩

theorem addAll_wf {α : Type} [DecidableEq α] {d : α} {m : FMap α} (z : FMap α) (h : m.wf d = true) : (addAll d m z).wf d = true :=
  wf_foldl_put Prod.fst Prod.snd z h

end Sys2Proof.Machine
end

