-- ==== Sys2Proof/Laws/State.lean ====
section
/-! SUPPORT. Each update of the state and of a warp, field by field: no proof unfolds a record update. -/

namespace Sys2Proof.Machine

/-! ## One part of the machine -/

@[simp] theorem State.setWarp_slots (s : State) (c k : Nat) (w : Warp) : (s.setWarp c k w).slots = s.slots.ins (slotKey c k) w := rfl
@[simp] theorem State.setWarp_cur (s : State) (c k : Nat) (w : Warp) : (s.setWarp c k w).cur = s.cur := rfl
@[simp] theorem State.setWarp_curWord (s : State) (c k : Nat) (w : Warp) : (s.setWarp c k w).curWord = s.curWord := rfl
@[simp] theorem State.setWarp_cores (s : State) (c k : Nat) (w : Warp) : (s.setWarp c k w).cores = s.cores := rfl
@[simp] theorem State.setWarp_dies (s : State) (c k : Nat) (w : Warp) : (s.setWarp c k w).dies = s.dies := rfl
@[simp] theorem State.setWarp_parts (s : State) (c k : Nat) (w : Warp) : (s.setWarp c k w).parts = s.parts := rfl
@[simp] theorem State.setWarp_mem (s : State) (c k : Nat) (w : Warp) : (s.setWarp c k w).mem = s.mem := rfl
@[simp] theorem State.setWarp_tags (s : State) (c k : Nat) (w : Warp) : (s.setWarp c k w).tags = s.tags := rfl
@[simp] theorem State.setWarp_lineFull (s : State) (c k : Nat) (w : Warp) : (s.setWarp c k w).lineFull = s.lineFull := rfl
@[simp] theorem State.setWarp_poison (s : State) (c k : Nat) (w : Warp) : (s.setWarp c k w).poison = s.poison := rfl
@[simp] theorem State.setWarp_owned (s : State) (c k : Nat) (w : Warp) : (s.setWarp c k w).owned = s.owned := rfl
@[simp] theorem State.setWarp_mma (s : State) (c k : Nat) (w : Warp) : (s.setWarp c k w).mma = s.mma := rfl
@[simp] theorem State.setWarp_ranges (s : State) (c k : Nat) (w : Warp) : (s.setWarp c k w).ranges = s.ranges := rfl
@[simp] theorem State.setWarp_fills (s : State) (c k : Nat) (w : Warp) : (s.setWarp c k w).fills = s.fills := rfl
@[simp] theorem State.setWarp_notices (s : State) (c k : Nat) (w : Warp) : (s.setWarp c k w).notices = s.notices := rfl
@[simp] theorem State.setWarp_kills (s : State) (c k : Nat) (w : Warp) : (s.setWarp c k w).kills = s.kills := rfl
@[simp] theorem State.setWarp_capJobs (s : State) (c k : Nat) (w : Warp) : (s.setWarp c k w).capJobs = s.capJobs := rfl
@[simp] theorem State.setWarp_taskSeq (s : State) (c k : Nat) (w : Warp) : (s.setWarp c k w).taskSeq = s.taskSeq := rfl
@[simp] theorem State.setWarp_group (s : State) (c k : Nat) (w : Warp) : (s.setWarp c k w).group = s.group := rfl
@[simp] theorem State.setWarp_sent (s : State) (c k : Nat) (w : Warp) : (s.setWarp c k w).sent = s.sent := rfl
@[simp] theorem State.setWarp_answers (s : State) (c k : Nat) (w : Warp) : (s.setWarp c k w).answers = s.answers := rfl
@[simp] theorem State.setWarp_msix (s : State) (c k : Nat) (w : Warp) : (s.setWarp c k w).msix = s.msix := rfl
@[simp] theorem State.setWarp_faults (s : State) (c k : Nat) (w : Warp) : (s.setWarp c k w).faults = s.faults := rfl
@[simp] theorem State.setWarp_touched (s : State) (c k : Nat) (w : Warp) : (s.setWarp c k w).touched = s.touched := rfl
@[simp] theorem State.setWarp_touchedBits (s : State) (c k : Nat) (w : Warp) : (s.setWarp c k w).touchedBits = s.touchedBits := rfl
@[simp] theorem State.setWarp_touchedL1 (s : State) (c k : Nat) (w : Warp) : (s.setWarp c k w).touchedL1 = s.touchedL1 := rfl
@[simp] theorem State.setWarp_jobs (s : State) (c k : Nat) (w : Warp) : (s.setWarp c k w).jobs = s.jobs := rfl
@[simp] theorem State.setWarp_tick (s : State) (c k : Nat) (w : Warp) : (s.setWarp c k w).tick = s.tick := rfl
@[simp] theorem State.setWarp_tai (s : State) (c k : Nat) (w : Warp) : (s.setWarp c k w).tai = s.tai := rfl
@[simp] theorem State.setWarp_taiLock (s : State) (c k : Nat) (w : Warp) : (s.setWarp c k w).taiLock = s.taiLock := rfl
@[simp] theorem State.setWarp_taiD (s : State) (c k : Nat) (w : Warp) : (s.setWarp c k w).taiD = s.taiD := rfl
@[simp] theorem State.setWarp_feReady (s : State) (c k : Nat) (w : Warp) : (s.setWarp c k w).feReady = s.feReady := rfl
@[simp] theorem State.setWarp_feLost (s : State) (c k : Nat) (w : Warp) : (s.setWarp c k w).feLost = s.feLost := rfl
@[simp] theorem State.setWarp_queues (s : State) (c k : Nat) (w : Warp) : (s.setWarp c k w).queues = s.queues := rfl
@[simp] theorem State.setWarp_copies (s : State) (c k : Nat) (w : Warp) : (s.setWarp c k w).copies = s.copies := rfl
@[simp] theorem State.setWarp_feOps (s : State) (c k : Nat) (w : Warp) : (s.setWarp c k w).feOps = s.feOps := rfl
@[simp] theorem State.setWarp_saves (s : State) (c k : Nat) (w : Warp) : (s.setWarp c k w).saves = s.saves := rfl
@[simp] theorem State.setWarp_restores (s : State) (c k : Nat) (w : Warp) : (s.setWarp c k w).restores = s.restores := rfl
@[simp] theorem State.setWarp_nextJob (s : State) (c k : Nat) (w : Warp) : (s.setWarp c k w).nextJob = s.nextJob := rfl
@[simp] theorem State.setWarp_clocks (s : State) (c k : Nat) (w : Warp) : (s.setWarp c k w).clocks = s.clocks := rfl
@[simp] theorem State.setWarp_clockReq (s : State) (c k : Nat) (w : Warp) : (s.setWarp c k w).clockReq = s.clockReq := rfl
@[simp] theorem State.setWarp_scores (s : State) (c k : Nat) (w : Warp) : (s.setWarp c k w).scores = s.scores := rfl
@[simp] theorem State.setWarp_buckets (s : State) (c k : Nat) (w : Warp) : (s.setWarp c k w).buckets = s.buckets := rfl
@[simp] theorem State.setWarp_refills (s : State) (c k : Nat) (w : Warp) : (s.setWarp c k w).refills = s.refills := rfl
@[simp] theorem State.setWarp_short (s : State) (c k : Nat) (w : Warp) : (s.setWarp c k w).short = s.short := rfl
@[simp] theorem State.setWarp_pcie (s : State) (c k : Nat) (w : Warp) : (s.setWarp c k w).pcie = s.pcie := rfl
@[simp] theorem State.setWarp_bar2 (s : State) (c k : Nat) (w : Warp) : (s.setWarp c k w).bar2 = s.bar2 := rfl
@[simp] theorem State.setWarp_hd (s : State) (c k : Nat) (w : Warp) : (s.setWarp c k w).hd = s.hd := rfl
@[simp] theorem State.setWarp_bt (s : State) (c k : Nat) (w : Warp) : (s.setWarp c k w).bt = s.bt := rfl
@[simp] theorem State.setWarp_hm (s : State) (c k : Nat) (w : Warp) : (s.setWarp c k w).hm = s.hm := rfl
@[simp] theorem State.setWarp_msixTab (s : State) (c k : Nat) (w : Warp) : (s.setWarp c k w).msixTab = s.msixTab := rfl
@[simp] theorem State.setWarp_msixPba (s : State) (c k : Nat) (w : Warp) : (s.setWarp c k w).msixPba = s.msixPba := rfl
@[simp] theorem State.setWarp_dts (s : State) (c k : Nat) (w : Warp) : (s.setWarp c k w).dts = s.dts := rfl
@[simp] theorem State.setWarp_eventTurn (s : State) (c k : Nat) (w : Warp) : (s.setWarp c k w).eventTurn = s.eventTurn := rfl
@[simp] theorem State.setWarp_freeIdx (s : State) (c k : Nat) (w : Warp) : (s.setWarp c k w).freeIdx = s.freeIdx := rfl
@[simp] theorem State.setWarp_waitSeq (s : State) (c k : Nat) (w : Warp) : (s.setWarp c k w).waitSeq = s.waitSeq := rfl
@[simp] theorem State.setWarp_cycle (s : State) (c k : Nat) (w : Warp) : (s.setWarp c k w).cycle = s.cycle := rfl
@[simp] theorem State.setWarp_turns (s : State) (c k : Nat) (w : Warp) : (s.setWarp c k w).turns = s.turns := rfl
@[simp] theorem State.setWarp_late (s : State) (c k : Nat) (w : Warp) : (s.setWarp c k w).late = s.late := rfl
@[simp] theorem State.setWarp_lags (s : State) (c k : Nat) (w : Warp) : (s.setWarp c k w).lags = s.lags := rfl
@[simp] theorem State.setCw_slots (s : State) (w : Warp) : (s.setCw w).slots = s.slots.ins (slotKey s.cur.1 s.cur.2) w := rfl
@[simp] theorem State.setCw_cur (s : State) (w : Warp) : (s.setCw w).cur = s.cur := rfl
@[simp] theorem State.setCw_curWord (s : State) (w : Warp) : (s.setCw w).curWord = s.curWord := rfl
@[simp] theorem State.setCw_cores (s : State) (w : Warp) : (s.setCw w).cores = s.cores := rfl
@[simp] theorem State.setCw_dies (s : State) (w : Warp) : (s.setCw w).dies = s.dies := rfl
@[simp] theorem State.setCw_parts (s : State) (w : Warp) : (s.setCw w).parts = s.parts := rfl
@[simp] theorem State.setCw_mem (s : State) (w : Warp) : (s.setCw w).mem = s.mem := rfl
@[simp] theorem State.setCw_tags (s : State) (w : Warp) : (s.setCw w).tags = s.tags := rfl
@[simp] theorem State.setCw_lineFull (s : State) (w : Warp) : (s.setCw w).lineFull = s.lineFull := rfl
@[simp] theorem State.setCw_poison (s : State) (w : Warp) : (s.setCw w).poison = s.poison := rfl
@[simp] theorem State.setCw_owned (s : State) (w : Warp) : (s.setCw w).owned = s.owned := rfl
@[simp] theorem State.setCw_mma (s : State) (w : Warp) : (s.setCw w).mma = s.mma := rfl
@[simp] theorem State.setCw_ranges (s : State) (w : Warp) : (s.setCw w).ranges = s.ranges := rfl
@[simp] theorem State.setCw_fills (s : State) (w : Warp) : (s.setCw w).fills = s.fills := rfl
@[simp] theorem State.setCw_notices (s : State) (w : Warp) : (s.setCw w).notices = s.notices := rfl
@[simp] theorem State.setCw_kills (s : State) (w : Warp) : (s.setCw w).kills = s.kills := rfl
@[simp] theorem State.setCw_capJobs (s : State) (w : Warp) : (s.setCw w).capJobs = s.capJobs := rfl
@[simp] theorem State.setCw_taskSeq (s : State) (w : Warp) : (s.setCw w).taskSeq = s.taskSeq := rfl
@[simp] theorem State.setCw_group (s : State) (w : Warp) : (s.setCw w).group = s.group := rfl
@[simp] theorem State.setCw_sent (s : State) (w : Warp) : (s.setCw w).sent = s.sent := rfl
@[simp] theorem State.setCw_answers (s : State) (w : Warp) : (s.setCw w).answers = s.answers := rfl
@[simp] theorem State.setCw_msix (s : State) (w : Warp) : (s.setCw w).msix = s.msix := rfl
@[simp] theorem State.setCw_faults (s : State) (w : Warp) : (s.setCw w).faults = s.faults := rfl
@[simp] theorem State.setCw_touched (s : State) (w : Warp) : (s.setCw w).touched = s.touched := rfl
@[simp] theorem State.setCw_touchedBits (s : State) (w : Warp) : (s.setCw w).touchedBits = s.touchedBits := rfl
@[simp] theorem State.setCw_touchedL1 (s : State) (w : Warp) : (s.setCw w).touchedL1 = s.touchedL1 := rfl
@[simp] theorem State.setCw_jobs (s : State) (w : Warp) : (s.setCw w).jobs = s.jobs := rfl
@[simp] theorem State.setCw_tick (s : State) (w : Warp) : (s.setCw w).tick = s.tick := rfl
@[simp] theorem State.setCw_tai (s : State) (w : Warp) : (s.setCw w).tai = s.tai := rfl
@[simp] theorem State.setCw_taiLock (s : State) (w : Warp) : (s.setCw w).taiLock = s.taiLock := rfl
@[simp] theorem State.setCw_taiD (s : State) (w : Warp) : (s.setCw w).taiD = s.taiD := rfl
@[simp] theorem State.setCw_feReady (s : State) (w : Warp) : (s.setCw w).feReady = s.feReady := rfl
@[simp] theorem State.setCw_feLost (s : State) (w : Warp) : (s.setCw w).feLost = s.feLost := rfl
@[simp] theorem State.setCw_queues (s : State) (w : Warp) : (s.setCw w).queues = s.queues := rfl
@[simp] theorem State.setCw_copies (s : State) (w : Warp) : (s.setCw w).copies = s.copies := rfl
@[simp] theorem State.setCw_feOps (s : State) (w : Warp) : (s.setCw w).feOps = s.feOps := rfl
@[simp] theorem State.setCw_saves (s : State) (w : Warp) : (s.setCw w).saves = s.saves := rfl
@[simp] theorem State.setCw_restores (s : State) (w : Warp) : (s.setCw w).restores = s.restores := rfl
@[simp] theorem State.setCw_nextJob (s : State) (w : Warp) : (s.setCw w).nextJob = s.nextJob := rfl
@[simp] theorem State.setCw_clocks (s : State) (w : Warp) : (s.setCw w).clocks = s.clocks := rfl
@[simp] theorem State.setCw_clockReq (s : State) (w : Warp) : (s.setCw w).clockReq = s.clockReq := rfl
@[simp] theorem State.setCw_scores (s : State) (w : Warp) : (s.setCw w).scores = s.scores := rfl
@[simp] theorem State.setCw_buckets (s : State) (w : Warp) : (s.setCw w).buckets = s.buckets := rfl
@[simp] theorem State.setCw_refills (s : State) (w : Warp) : (s.setCw w).refills = s.refills := rfl
@[simp] theorem State.setCw_short (s : State) (w : Warp) : (s.setCw w).short = s.short := rfl
@[simp] theorem State.setCw_pcie (s : State) (w : Warp) : (s.setCw w).pcie = s.pcie := rfl
@[simp] theorem State.setCw_bar2 (s : State) (w : Warp) : (s.setCw w).bar2 = s.bar2 := rfl
@[simp] theorem State.setCw_hd (s : State) (w : Warp) : (s.setCw w).hd = s.hd := rfl
@[simp] theorem State.setCw_bt (s : State) (w : Warp) : (s.setCw w).bt = s.bt := rfl
@[simp] theorem State.setCw_hm (s : State) (w : Warp) : (s.setCw w).hm = s.hm := rfl
@[simp] theorem State.setCw_msixTab (s : State) (w : Warp) : (s.setCw w).msixTab = s.msixTab := rfl
@[simp] theorem State.setCw_msixPba (s : State) (w : Warp) : (s.setCw w).msixPba = s.msixPba := rfl
@[simp] theorem State.setCw_dts (s : State) (w : Warp) : (s.setCw w).dts = s.dts := rfl
@[simp] theorem State.setCw_eventTurn (s : State) (w : Warp) : (s.setCw w).eventTurn = s.eventTurn := rfl
@[simp] theorem State.setCw_freeIdx (s : State) (w : Warp) : (s.setCw w).freeIdx = s.freeIdx := rfl
@[simp] theorem State.setCw_waitSeq (s : State) (w : Warp) : (s.setCw w).waitSeq = s.waitSeq := rfl
@[simp] theorem State.setCw_cycle (s : State) (w : Warp) : (s.setCw w).cycle = s.cycle := rfl
@[simp] theorem State.setCw_turns (s : State) (w : Warp) : (s.setCw w).turns = s.turns := rfl
@[simp] theorem State.setCw_late (s : State) (w : Warp) : (s.setCw w).late = s.late := rfl
@[simp] theorem State.setCw_lags (s : State) (w : Warp) : (s.setCw w).lags = s.lags := rfl
@[simp] theorem State.setCore_slots (s : State) (c : Nat) (x : Core) : (s.setCore c x).slots = s.slots := rfl
@[simp] theorem State.setCore_cur (s : State) (c : Nat) (x : Core) : (s.setCore c x).cur = s.cur := rfl
@[simp] theorem State.setCore_curWord (s : State) (c : Nat) (x : Core) : (s.setCore c x).curWord = s.curWord := rfl
@[simp] theorem State.setCore_cores (s : State) (c : Nat) (x : Core) : (s.setCore c x).cores = s.cores.ins c x := rfl
@[simp] theorem State.setCore_dies (s : State) (c : Nat) (x : Core) : (s.setCore c x).dies = s.dies := rfl
@[simp] theorem State.setCore_parts (s : State) (c : Nat) (x : Core) : (s.setCore c x).parts = s.parts := rfl
@[simp] theorem State.setCore_mem (s : State) (c : Nat) (x : Core) : (s.setCore c x).mem = s.mem := rfl
@[simp] theorem State.setCore_tags (s : State) (c : Nat) (x : Core) : (s.setCore c x).tags = s.tags := rfl
@[simp] theorem State.setCore_lineFull (s : State) (c : Nat) (x : Core) : (s.setCore c x).lineFull = s.lineFull := rfl
@[simp] theorem State.setCore_poison (s : State) (c : Nat) (x : Core) : (s.setCore c x).poison = s.poison := rfl
@[simp] theorem State.setCore_owned (s : State) (c : Nat) (x : Core) : (s.setCore c x).owned = s.owned := rfl
@[simp] theorem State.setCore_mma (s : State) (c : Nat) (x : Core) : (s.setCore c x).mma = s.mma := rfl
@[simp] theorem State.setCore_ranges (s : State) (c : Nat) (x : Core) : (s.setCore c x).ranges = s.ranges := rfl
@[simp] theorem State.setCore_fills (s : State) (c : Nat) (x : Core) : (s.setCore c x).fills = s.fills := rfl
@[simp] theorem State.setCore_notices (s : State) (c : Nat) (x : Core) : (s.setCore c x).notices = s.notices := rfl
@[simp] theorem State.setCore_kills (s : State) (c : Nat) (x : Core) : (s.setCore c x).kills = s.kills := rfl
@[simp] theorem State.setCore_capJobs (s : State) (c : Nat) (x : Core) : (s.setCore c x).capJobs = s.capJobs := rfl
@[simp] theorem State.setCore_taskSeq (s : State) (c : Nat) (x : Core) : (s.setCore c x).taskSeq = s.taskSeq := rfl
@[simp] theorem State.setCore_group (s : State) (c : Nat) (x : Core) : (s.setCore c x).group = s.group := rfl
@[simp] theorem State.setCore_sent (s : State) (c : Nat) (x : Core) : (s.setCore c x).sent = s.sent := rfl
@[simp] theorem State.setCore_answers (s : State) (c : Nat) (x : Core) : (s.setCore c x).answers = s.answers := rfl
@[simp] theorem State.setCore_msix (s : State) (c : Nat) (x : Core) : (s.setCore c x).msix = s.msix := rfl
@[simp] theorem State.setCore_faults (s : State) (c : Nat) (x : Core) : (s.setCore c x).faults = s.faults := rfl
@[simp] theorem State.setCore_touched (s : State) (c : Nat) (x : Core) : (s.setCore c x).touched = s.touched := rfl
@[simp] theorem State.setCore_touchedBits (s : State) (c : Nat) (x : Core) : (s.setCore c x).touchedBits = s.touchedBits := rfl
@[simp] theorem State.setCore_touchedL1 (s : State) (c : Nat) (x : Core) : (s.setCore c x).touchedL1 = s.touchedL1 := rfl
@[simp] theorem State.setCore_jobs (s : State) (c : Nat) (x : Core) : (s.setCore c x).jobs = s.jobs := rfl
@[simp] theorem State.setCore_tick (s : State) (c : Nat) (x : Core) : (s.setCore c x).tick = s.tick := rfl
@[simp] theorem State.setCore_tai (s : State) (c : Nat) (x : Core) : (s.setCore c x).tai = s.tai := rfl
@[simp] theorem State.setCore_taiLock (s : State) (c : Nat) (x : Core) : (s.setCore c x).taiLock = s.taiLock := rfl
@[simp] theorem State.setCore_taiD (s : State) (c : Nat) (x : Core) : (s.setCore c x).taiD = s.taiD := rfl
@[simp] theorem State.setCore_feReady (s : State) (c : Nat) (x : Core) : (s.setCore c x).feReady = s.feReady := rfl
@[simp] theorem State.setCore_feLost (s : State) (c : Nat) (x : Core) : (s.setCore c x).feLost = s.feLost := rfl
@[simp] theorem State.setCore_queues (s : State) (c : Nat) (x : Core) : (s.setCore c x).queues = s.queues := rfl
@[simp] theorem State.setCore_copies (s : State) (c : Nat) (x : Core) : (s.setCore c x).copies = s.copies := rfl
@[simp] theorem State.setCore_feOps (s : State) (c : Nat) (x : Core) : (s.setCore c x).feOps = s.feOps := rfl
@[simp] theorem State.setCore_saves (s : State) (c : Nat) (x : Core) : (s.setCore c x).saves = s.saves := rfl
@[simp] theorem State.setCore_restores (s : State) (c : Nat) (x : Core) : (s.setCore c x).restores = s.restores := rfl
@[simp] theorem State.setCore_nextJob (s : State) (c : Nat) (x : Core) : (s.setCore c x).nextJob = s.nextJob := rfl
@[simp] theorem State.setCore_clocks (s : State) (c : Nat) (x : Core) : (s.setCore c x).clocks = s.clocks := rfl
@[simp] theorem State.setCore_clockReq (s : State) (c : Nat) (x : Core) : (s.setCore c x).clockReq = s.clockReq := rfl
@[simp] theorem State.setCore_scores (s : State) (c : Nat) (x : Core) : (s.setCore c x).scores = s.scores := rfl
@[simp] theorem State.setCore_buckets (s : State) (c : Nat) (x : Core) : (s.setCore c x).buckets = s.buckets := rfl
@[simp] theorem State.setCore_refills (s : State) (c : Nat) (x : Core) : (s.setCore c x).refills = s.refills := rfl
@[simp] theorem State.setCore_short (s : State) (c : Nat) (x : Core) : (s.setCore c x).short = s.short := rfl
@[simp] theorem State.setCore_pcie (s : State) (c : Nat) (x : Core) : (s.setCore c x).pcie = s.pcie := rfl
@[simp] theorem State.setCore_bar2 (s : State) (c : Nat) (x : Core) : (s.setCore c x).bar2 = s.bar2 := rfl
@[simp] theorem State.setCore_hd (s : State) (c : Nat) (x : Core) : (s.setCore c x).hd = s.hd := rfl
@[simp] theorem State.setCore_bt (s : State) (c : Nat) (x : Core) : (s.setCore c x).bt = s.bt := rfl
@[simp] theorem State.setCore_hm (s : State) (c : Nat) (x : Core) : (s.setCore c x).hm = s.hm := rfl
@[simp] theorem State.setCore_msixTab (s : State) (c : Nat) (x : Core) : (s.setCore c x).msixTab = s.msixTab := rfl
@[simp] theorem State.setCore_msixPba (s : State) (c : Nat) (x : Core) : (s.setCore c x).msixPba = s.msixPba := rfl
@[simp] theorem State.setCore_dts (s : State) (c : Nat) (x : Core) : (s.setCore c x).dts = s.dts := rfl
@[simp] theorem State.setCore_eventTurn (s : State) (c : Nat) (x : Core) : (s.setCore c x).eventTurn = s.eventTurn := rfl
@[simp] theorem State.setCore_freeIdx (s : State) (c : Nat) (x : Core) : (s.setCore c x).freeIdx = s.freeIdx := rfl
@[simp] theorem State.setCore_waitSeq (s : State) (c : Nat) (x : Core) : (s.setCore c x).waitSeq = s.waitSeq := rfl
@[simp] theorem State.setCore_cycle (s : State) (c : Nat) (x : Core) : (s.setCore c x).cycle = s.cycle := rfl
@[simp] theorem State.setCore_turns (s : State) (c : Nat) (x : Core) : (s.setCore c x).turns = s.turns := rfl
@[simp] theorem State.setCore_late (s : State) (c : Nat) (x : Core) : (s.setCore c x).late = s.late := rfl
@[simp] theorem State.setCore_lags (s : State) (c : Nat) (x : Core) : (s.setCore c x).lags = s.lags := rfl
@[simp] theorem State.setDie_slots (s : State) (d : Nat) (x : Die) : (s.setDie d x).slots = s.slots := rfl
@[simp] theorem State.setDie_cur (s : State) (d : Nat) (x : Die) : (s.setDie d x).cur = s.cur := rfl
@[simp] theorem State.setDie_curWord (s : State) (d : Nat) (x : Die) : (s.setDie d x).curWord = s.curWord := rfl
@[simp] theorem State.setDie_cores (s : State) (d : Nat) (x : Die) : (s.setDie d x).cores = s.cores := rfl
@[simp] theorem State.setDie_dies (s : State) (d : Nat) (x : Die) : (s.setDie d x).dies = s.dies.ins d x := rfl
@[simp] theorem State.setDie_parts (s : State) (d : Nat) (x : Die) : (s.setDie d x).parts = s.parts := rfl
@[simp] theorem State.setDie_mem (s : State) (d : Nat) (x : Die) : (s.setDie d x).mem = s.mem := rfl
@[simp] theorem State.setDie_tags (s : State) (d : Nat) (x : Die) : (s.setDie d x).tags = s.tags := rfl
@[simp] theorem State.setDie_lineFull (s : State) (d : Nat) (x : Die) : (s.setDie d x).lineFull = s.lineFull := rfl
@[simp] theorem State.setDie_poison (s : State) (d : Nat) (x : Die) : (s.setDie d x).poison = s.poison := rfl
@[simp] theorem State.setDie_owned (s : State) (d : Nat) (x : Die) : (s.setDie d x).owned = s.owned := rfl
@[simp] theorem State.setDie_mma (s : State) (d : Nat) (x : Die) : (s.setDie d x).mma = s.mma := rfl
@[simp] theorem State.setDie_ranges (s : State) (d : Nat) (x : Die) : (s.setDie d x).ranges = s.ranges := rfl
@[simp] theorem State.setDie_fills (s : State) (d : Nat) (x : Die) : (s.setDie d x).fills = s.fills := rfl
@[simp] theorem State.setDie_notices (s : State) (d : Nat) (x : Die) : (s.setDie d x).notices = s.notices := rfl
@[simp] theorem State.setDie_kills (s : State) (d : Nat) (x : Die) : (s.setDie d x).kills = s.kills := rfl
@[simp] theorem State.setDie_capJobs (s : State) (d : Nat) (x : Die) : (s.setDie d x).capJobs = s.capJobs := rfl
@[simp] theorem State.setDie_taskSeq (s : State) (d : Nat) (x : Die) : (s.setDie d x).taskSeq = s.taskSeq := rfl
@[simp] theorem State.setDie_group (s : State) (d : Nat) (x : Die) : (s.setDie d x).group = s.group := rfl
@[simp] theorem State.setDie_sent (s : State) (d : Nat) (x : Die) : (s.setDie d x).sent = s.sent := rfl
@[simp] theorem State.setDie_answers (s : State) (d : Nat) (x : Die) : (s.setDie d x).answers = s.answers := rfl
@[simp] theorem State.setDie_msix (s : State) (d : Nat) (x : Die) : (s.setDie d x).msix = s.msix := rfl
@[simp] theorem State.setDie_faults (s : State) (d : Nat) (x : Die) : (s.setDie d x).faults = s.faults := rfl
@[simp] theorem State.setDie_touched (s : State) (d : Nat) (x : Die) : (s.setDie d x).touched = s.touched := rfl
@[simp] theorem State.setDie_touchedBits (s : State) (d : Nat) (x : Die) : (s.setDie d x).touchedBits = s.touchedBits := rfl
@[simp] theorem State.setDie_touchedL1 (s : State) (d : Nat) (x : Die) : (s.setDie d x).touchedL1 = s.touchedL1 := rfl
@[simp] theorem State.setDie_jobs (s : State) (d : Nat) (x : Die) : (s.setDie d x).jobs = s.jobs := rfl
@[simp] theorem State.setDie_tick (s : State) (d : Nat) (x : Die) : (s.setDie d x).tick = s.tick := rfl
@[simp] theorem State.setDie_tai (s : State) (d : Nat) (x : Die) : (s.setDie d x).tai = s.tai := rfl
@[simp] theorem State.setDie_taiLock (s : State) (d : Nat) (x : Die) : (s.setDie d x).taiLock = s.taiLock := rfl
@[simp] theorem State.setDie_taiD (s : State) (d : Nat) (x : Die) : (s.setDie d x).taiD = s.taiD := rfl
@[simp] theorem State.setDie_feReady (s : State) (d : Nat) (x : Die) : (s.setDie d x).feReady = s.feReady := rfl
@[simp] theorem State.setDie_feLost (s : State) (d : Nat) (x : Die) : (s.setDie d x).feLost = s.feLost := rfl
@[simp] theorem State.setDie_queues (s : State) (d : Nat) (x : Die) : (s.setDie d x).queues = s.queues := rfl
@[simp] theorem State.setDie_copies (s : State) (d : Nat) (x : Die) : (s.setDie d x).copies = s.copies := rfl
@[simp] theorem State.setDie_feOps (s : State) (d : Nat) (x : Die) : (s.setDie d x).feOps = s.feOps := rfl
@[simp] theorem State.setDie_saves (s : State) (d : Nat) (x : Die) : (s.setDie d x).saves = s.saves := rfl
@[simp] theorem State.setDie_restores (s : State) (d : Nat) (x : Die) : (s.setDie d x).restores = s.restores := rfl
@[simp] theorem State.setDie_nextJob (s : State) (d : Nat) (x : Die) : (s.setDie d x).nextJob = s.nextJob := rfl
@[simp] theorem State.setDie_clocks (s : State) (d : Nat) (x : Die) : (s.setDie d x).clocks = s.clocks := rfl
@[simp] theorem State.setDie_clockReq (s : State) (d : Nat) (x : Die) : (s.setDie d x).clockReq = s.clockReq := rfl
@[simp] theorem State.setDie_scores (s : State) (d : Nat) (x : Die) : (s.setDie d x).scores = s.scores := rfl
@[simp] theorem State.setDie_buckets (s : State) (d : Nat) (x : Die) : (s.setDie d x).buckets = s.buckets := rfl
@[simp] theorem State.setDie_refills (s : State) (d : Nat) (x : Die) : (s.setDie d x).refills = s.refills := rfl
@[simp] theorem State.setDie_short (s : State) (d : Nat) (x : Die) : (s.setDie d x).short = s.short := rfl
@[simp] theorem State.setDie_pcie (s : State) (d : Nat) (x : Die) : (s.setDie d x).pcie = s.pcie := rfl
@[simp] theorem State.setDie_bar2 (s : State) (d : Nat) (x : Die) : (s.setDie d x).bar2 = s.bar2 := rfl
@[simp] theorem State.setDie_hd (s : State) (d : Nat) (x : Die) : (s.setDie d x).hd = s.hd := rfl
@[simp] theorem State.setDie_bt (s : State) (d : Nat) (x : Die) : (s.setDie d x).bt = s.bt := rfl
@[simp] theorem State.setDie_hm (s : State) (d : Nat) (x : Die) : (s.setDie d x).hm = s.hm := rfl
@[simp] theorem State.setDie_msixTab (s : State) (d : Nat) (x : Die) : (s.setDie d x).msixTab = s.msixTab := rfl
@[simp] theorem State.setDie_msixPba (s : State) (d : Nat) (x : Die) : (s.setDie d x).msixPba = s.msixPba := rfl
@[simp] theorem State.setDie_dts (s : State) (d : Nat) (x : Die) : (s.setDie d x).dts = s.dts := rfl
@[simp] theorem State.setDie_eventTurn (s : State) (d : Nat) (x : Die) : (s.setDie d x).eventTurn = s.eventTurn := rfl
@[simp] theorem State.setDie_freeIdx (s : State) (d : Nat) (x : Die) : (s.setDie d x).freeIdx = s.freeIdx := rfl
@[simp] theorem State.setDie_waitSeq (s : State) (d : Nat) (x : Die) : (s.setDie d x).waitSeq = s.waitSeq := rfl
@[simp] theorem State.setDie_cycle (s : State) (d : Nat) (x : Die) : (s.setDie d x).cycle = s.cycle := rfl
@[simp] theorem State.setDie_turns (s : State) (d : Nat) (x : Die) : (s.setDie d x).turns = s.turns := rfl
@[simp] theorem State.setDie_late (s : State) (d : Nat) (x : Die) : (s.setDie d x).late = s.late := rfl
@[simp] theorem State.setDie_lags (s : State) (d : Nat) (x : Die) : (s.setDie d x).lags = s.lags := rfl
@[simp] theorem State.setPart_slots (s : State) (p : Nat) (x : Partition) : (s.setPart p x).slots = s.slots := rfl
@[simp] theorem State.setPart_cur (s : State) (p : Nat) (x : Partition) : (s.setPart p x).cur = s.cur := rfl
@[simp] theorem State.setPart_curWord (s : State) (p : Nat) (x : Partition) : (s.setPart p x).curWord = s.curWord := rfl
@[simp] theorem State.setPart_cores (s : State) (p : Nat) (x : Partition) : (s.setPart p x).cores = s.cores := rfl
@[simp] theorem State.setPart_dies (s : State) (p : Nat) (x : Partition) : (s.setPart p x).dies = s.dies := rfl
@[simp] theorem State.setPart_parts (s : State) (p : Nat) (x : Partition) : (s.setPart p x).parts = s.parts.ins p x := rfl
@[simp] theorem State.setPart_mem (s : State) (p : Nat) (x : Partition) : (s.setPart p x).mem = s.mem := rfl
@[simp] theorem State.setPart_tags (s : State) (p : Nat) (x : Partition) : (s.setPart p x).tags = s.tags := rfl
@[simp] theorem State.setPart_lineFull (s : State) (p : Nat) (x : Partition) : (s.setPart p x).lineFull = s.lineFull := rfl
@[simp] theorem State.setPart_poison (s : State) (p : Nat) (x : Partition) : (s.setPart p x).poison = s.poison := rfl
@[simp] theorem State.setPart_owned (s : State) (p : Nat) (x : Partition) : (s.setPart p x).owned = s.owned := rfl
@[simp] theorem State.setPart_mma (s : State) (p : Nat) (x : Partition) : (s.setPart p x).mma = s.mma := rfl
@[simp] theorem State.setPart_ranges (s : State) (p : Nat) (x : Partition) : (s.setPart p x).ranges = s.ranges := rfl
@[simp] theorem State.setPart_fills (s : State) (p : Nat) (x : Partition) : (s.setPart p x).fills = s.fills := rfl
@[simp] theorem State.setPart_notices (s : State) (p : Nat) (x : Partition) : (s.setPart p x).notices = s.notices := rfl
@[simp] theorem State.setPart_kills (s : State) (p : Nat) (x : Partition) : (s.setPart p x).kills = s.kills := rfl
@[simp] theorem State.setPart_capJobs (s : State) (p : Nat) (x : Partition) : (s.setPart p x).capJobs = s.capJobs := rfl
@[simp] theorem State.setPart_taskSeq (s : State) (p : Nat) (x : Partition) : (s.setPart p x).taskSeq = s.taskSeq := rfl
@[simp] theorem State.setPart_group (s : State) (p : Nat) (x : Partition) : (s.setPart p x).group = s.group := rfl
@[simp] theorem State.setPart_sent (s : State) (p : Nat) (x : Partition) : (s.setPart p x).sent = s.sent := rfl
@[simp] theorem State.setPart_answers (s : State) (p : Nat) (x : Partition) : (s.setPart p x).answers = s.answers := rfl
@[simp] theorem State.setPart_msix (s : State) (p : Nat) (x : Partition) : (s.setPart p x).msix = s.msix := rfl
@[simp] theorem State.setPart_faults (s : State) (p : Nat) (x : Partition) : (s.setPart p x).faults = s.faults := rfl
@[simp] theorem State.setPart_touched (s : State) (p : Nat) (x : Partition) : (s.setPart p x).touched = s.touched := rfl
@[simp] theorem State.setPart_touchedBits (s : State) (p : Nat) (x : Partition) : (s.setPart p x).touchedBits = s.touchedBits := rfl
@[simp] theorem State.setPart_touchedL1 (s : State) (p : Nat) (x : Partition) : (s.setPart p x).touchedL1 = s.touchedL1 := rfl
@[simp] theorem State.setPart_jobs (s : State) (p : Nat) (x : Partition) : (s.setPart p x).jobs = s.jobs := rfl
@[simp] theorem State.setPart_tick (s : State) (p : Nat) (x : Partition) : (s.setPart p x).tick = s.tick := rfl
@[simp] theorem State.setPart_tai (s : State) (p : Nat) (x : Partition) : (s.setPart p x).tai = s.tai := rfl
@[simp] theorem State.setPart_taiLock (s : State) (p : Nat) (x : Partition) : (s.setPart p x).taiLock = s.taiLock := rfl
@[simp] theorem State.setPart_taiD (s : State) (p : Nat) (x : Partition) : (s.setPart p x).taiD = s.taiD := rfl
@[simp] theorem State.setPart_feReady (s : State) (p : Nat) (x : Partition) : (s.setPart p x).feReady = s.feReady := rfl
@[simp] theorem State.setPart_feLost (s : State) (p : Nat) (x : Partition) : (s.setPart p x).feLost = s.feLost := rfl
@[simp] theorem State.setPart_queues (s : State) (p : Nat) (x : Partition) : (s.setPart p x).queues = s.queues := rfl
@[simp] theorem State.setPart_copies (s : State) (p : Nat) (x : Partition) : (s.setPart p x).copies = s.copies := rfl
@[simp] theorem State.setPart_feOps (s : State) (p : Nat) (x : Partition) : (s.setPart p x).feOps = s.feOps := rfl
@[simp] theorem State.setPart_saves (s : State) (p : Nat) (x : Partition) : (s.setPart p x).saves = s.saves := rfl
@[simp] theorem State.setPart_restores (s : State) (p : Nat) (x : Partition) : (s.setPart p x).restores = s.restores := rfl
@[simp] theorem State.setPart_nextJob (s : State) (p : Nat) (x : Partition) : (s.setPart p x).nextJob = s.nextJob := rfl
@[simp] theorem State.setPart_clocks (s : State) (p : Nat) (x : Partition) : (s.setPart p x).clocks = s.clocks := rfl
@[simp] theorem State.setPart_clockReq (s : State) (p : Nat) (x : Partition) : (s.setPart p x).clockReq = s.clockReq := rfl
@[simp] theorem State.setPart_scores (s : State) (p : Nat) (x : Partition) : (s.setPart p x).scores = s.scores := rfl
@[simp] theorem State.setPart_buckets (s : State) (p : Nat) (x : Partition) : (s.setPart p x).buckets = s.buckets := rfl
@[simp] theorem State.setPart_refills (s : State) (p : Nat) (x : Partition) : (s.setPart p x).refills = s.refills := rfl
@[simp] theorem State.setPart_short (s : State) (p : Nat) (x : Partition) : (s.setPart p x).short = s.short := rfl
@[simp] theorem State.setPart_pcie (s : State) (p : Nat) (x : Partition) : (s.setPart p x).pcie = s.pcie := rfl
@[simp] theorem State.setPart_bar2 (s : State) (p : Nat) (x : Partition) : (s.setPart p x).bar2 = s.bar2 := rfl
@[simp] theorem State.setPart_hd (s : State) (p : Nat) (x : Partition) : (s.setPart p x).hd = s.hd := rfl
@[simp] theorem State.setPart_bt (s : State) (p : Nat) (x : Partition) : (s.setPart p x).bt = s.bt := rfl
@[simp] theorem State.setPart_hm (s : State) (p : Nat) (x : Partition) : (s.setPart p x).hm = s.hm := rfl
@[simp] theorem State.setPart_msixTab (s : State) (p : Nat) (x : Partition) : (s.setPart p x).msixTab = s.msixTab := rfl
@[simp] theorem State.setPart_msixPba (s : State) (p : Nat) (x : Partition) : (s.setPart p x).msixPba = s.msixPba := rfl
@[simp] theorem State.setPart_dts (s : State) (p : Nat) (x : Partition) : (s.setPart p x).dts = s.dts := rfl
@[simp] theorem State.setPart_eventTurn (s : State) (p : Nat) (x : Partition) : (s.setPart p x).eventTurn = s.eventTurn := rfl
@[simp] theorem State.setPart_freeIdx (s : State) (p : Nat) (x : Partition) : (s.setPart p x).freeIdx = s.freeIdx := rfl
@[simp] theorem State.setPart_waitSeq (s : State) (p : Nat) (x : Partition) : (s.setPart p x).waitSeq = s.waitSeq := rfl
@[simp] theorem State.setPart_cycle (s : State) (p : Nat) (x : Partition) : (s.setPart p x).cycle = s.cycle := rfl
@[simp] theorem State.setPart_turns (s : State) (p : Nat) (x : Partition) : (s.setPart p x).turns = s.turns := rfl
@[simp] theorem State.setPart_late (s : State) (p : Nat) (x : Partition) : (s.setPart p x).late = s.late := rfl
@[simp] theorem State.setPart_lags (s : State) (p : Nat) (x : Partition) : (s.setPart p x).lags = s.lags := rfl
@[simp] theorem State.setQueue_slots (s : State) (p q : Nat) (x : Queue) : (s.setQueue p q x).slots = s.slots := rfl
@[simp] theorem State.setQueue_cur (s : State) (p q : Nat) (x : Queue) : (s.setQueue p q x).cur = s.cur := rfl
@[simp] theorem State.setQueue_curWord (s : State) (p q : Nat) (x : Queue) : (s.setQueue p q x).curWord = s.curWord := rfl
@[simp] theorem State.setQueue_cores (s : State) (p q : Nat) (x : Queue) : (s.setQueue p q x).cores = s.cores := rfl
@[simp] theorem State.setQueue_dies (s : State) (p q : Nat) (x : Queue) : (s.setQueue p q x).dies = s.dies := rfl
@[simp] theorem State.setQueue_parts (s : State) (p q : Nat) (x : Queue) : (s.setQueue p q x).parts = s.parts := rfl
@[simp] theorem State.setQueue_mem (s : State) (p q : Nat) (x : Queue) : (s.setQueue p q x).mem = s.mem := rfl
@[simp] theorem State.setQueue_tags (s : State) (p q : Nat) (x : Queue) : (s.setQueue p q x).tags = s.tags := rfl
@[simp] theorem State.setQueue_lineFull (s : State) (p q : Nat) (x : Queue) : (s.setQueue p q x).lineFull = s.lineFull := rfl
@[simp] theorem State.setQueue_poison (s : State) (p q : Nat) (x : Queue) : (s.setQueue p q x).poison = s.poison := rfl
@[simp] theorem State.setQueue_owned (s : State) (p q : Nat) (x : Queue) : (s.setQueue p q x).owned = s.owned := rfl
@[simp] theorem State.setQueue_mma (s : State) (p q : Nat) (x : Queue) : (s.setQueue p q x).mma = s.mma := rfl
@[simp] theorem State.setQueue_ranges (s : State) (p q : Nat) (x : Queue) : (s.setQueue p q x).ranges = s.ranges := rfl
@[simp] theorem State.setQueue_fills (s : State) (p q : Nat) (x : Queue) : (s.setQueue p q x).fills = s.fills := rfl
@[simp] theorem State.setQueue_notices (s : State) (p q : Nat) (x : Queue) : (s.setQueue p q x).notices = s.notices := rfl
@[simp] theorem State.setQueue_kills (s : State) (p q : Nat) (x : Queue) : (s.setQueue p q x).kills = s.kills := rfl
@[simp] theorem State.setQueue_capJobs (s : State) (p q : Nat) (x : Queue) : (s.setQueue p q x).capJobs = s.capJobs := rfl
@[simp] theorem State.setQueue_taskSeq (s : State) (p q : Nat) (x : Queue) : (s.setQueue p q x).taskSeq = s.taskSeq := rfl
@[simp] theorem State.setQueue_group (s : State) (p q : Nat) (x : Queue) : (s.setQueue p q x).group = s.group := rfl
@[simp] theorem State.setQueue_sent (s : State) (p q : Nat) (x : Queue) : (s.setQueue p q x).sent = s.sent := rfl
@[simp] theorem State.setQueue_answers (s : State) (p q : Nat) (x : Queue) : (s.setQueue p q x).answers = s.answers := rfl
@[simp] theorem State.setQueue_msix (s : State) (p q : Nat) (x : Queue) : (s.setQueue p q x).msix = s.msix := rfl
@[simp] theorem State.setQueue_faults (s : State) (p q : Nat) (x : Queue) : (s.setQueue p q x).faults = s.faults := rfl
@[simp] theorem State.setQueue_touched (s : State) (p q : Nat) (x : Queue) : (s.setQueue p q x).touched = s.touched := rfl
@[simp] theorem State.setQueue_touchedBits (s : State) (p q : Nat) (x : Queue) : (s.setQueue p q x).touchedBits = s.touchedBits := rfl
@[simp] theorem State.setQueue_touchedL1 (s : State) (p q : Nat) (x : Queue) : (s.setQueue p q x).touchedL1 = s.touchedL1 := rfl
@[simp] theorem State.setQueue_jobs (s : State) (p q : Nat) (x : Queue) : (s.setQueue p q x).jobs = s.jobs := rfl
@[simp] theorem State.setQueue_tick (s : State) (p q : Nat) (x : Queue) : (s.setQueue p q x).tick = s.tick := rfl
@[simp] theorem State.setQueue_tai (s : State) (p q : Nat) (x : Queue) : (s.setQueue p q x).tai = s.tai := rfl
@[simp] theorem State.setQueue_taiLock (s : State) (p q : Nat) (x : Queue) : (s.setQueue p q x).taiLock = s.taiLock := rfl
@[simp] theorem State.setQueue_taiD (s : State) (p q : Nat) (x : Queue) : (s.setQueue p q x).taiD = s.taiD := rfl
@[simp] theorem State.setQueue_feReady (s : State) (p q : Nat) (x : Queue) : (s.setQueue p q x).feReady = s.feReady := rfl
@[simp] theorem State.setQueue_feLost (s : State) (p q : Nat) (x : Queue) : (s.setQueue p q x).feLost = s.feLost := rfl
@[simp] theorem State.setQueue_queues (s : State) (p q : Nat) (x : Queue) : (s.setQueue p q x).queues = s.queues.ins (queueKey p q) x := rfl
@[simp] theorem State.setQueue_copies (s : State) (p q : Nat) (x : Queue) : (s.setQueue p q x).copies = s.copies := rfl
@[simp] theorem State.setQueue_feOps (s : State) (p q : Nat) (x : Queue) : (s.setQueue p q x).feOps = s.feOps := rfl
@[simp] theorem State.setQueue_saves (s : State) (p q : Nat) (x : Queue) : (s.setQueue p q x).saves = s.saves := rfl
@[simp] theorem State.setQueue_restores (s : State) (p q : Nat) (x : Queue) : (s.setQueue p q x).restores = s.restores := rfl
@[simp] theorem State.setQueue_nextJob (s : State) (p q : Nat) (x : Queue) : (s.setQueue p q x).nextJob = s.nextJob := rfl
@[simp] theorem State.setQueue_clocks (s : State) (p q : Nat) (x : Queue) : (s.setQueue p q x).clocks = s.clocks := rfl
@[simp] theorem State.setQueue_clockReq (s : State) (p q : Nat) (x : Queue) : (s.setQueue p q x).clockReq = s.clockReq := rfl
@[simp] theorem State.setQueue_scores (s : State) (p q : Nat) (x : Queue) : (s.setQueue p q x).scores = s.scores := rfl
@[simp] theorem State.setQueue_buckets (s : State) (p q : Nat) (x : Queue) : (s.setQueue p q x).buckets = s.buckets := rfl
@[simp] theorem State.setQueue_refills (s : State) (p q : Nat) (x : Queue) : (s.setQueue p q x).refills = s.refills := rfl
@[simp] theorem State.setQueue_short (s : State) (p q : Nat) (x : Queue) : (s.setQueue p q x).short = s.short := rfl
@[simp] theorem State.setQueue_pcie (s : State) (p q : Nat) (x : Queue) : (s.setQueue p q x).pcie = s.pcie := rfl
@[simp] theorem State.setQueue_bar2 (s : State) (p q : Nat) (x : Queue) : (s.setQueue p q x).bar2 = s.bar2 := rfl
@[simp] theorem State.setQueue_hd (s : State) (p q : Nat) (x : Queue) : (s.setQueue p q x).hd = s.hd := rfl
@[simp] theorem State.setQueue_bt (s : State) (p q : Nat) (x : Queue) : (s.setQueue p q x).bt = s.bt := rfl
@[simp] theorem State.setQueue_hm (s : State) (p q : Nat) (x : Queue) : (s.setQueue p q x).hm = s.hm := rfl
@[simp] theorem State.setQueue_msixTab (s : State) (p q : Nat) (x : Queue) : (s.setQueue p q x).msixTab = s.msixTab := rfl
@[simp] theorem State.setQueue_msixPba (s : State) (p q : Nat) (x : Queue) : (s.setQueue p q x).msixPba = s.msixPba := rfl
@[simp] theorem State.setQueue_dts (s : State) (p q : Nat) (x : Queue) : (s.setQueue p q x).dts = s.dts := rfl
@[simp] theorem State.setQueue_eventTurn (s : State) (p q : Nat) (x : Queue) : (s.setQueue p q x).eventTurn = s.eventTurn := rfl
@[simp] theorem State.setQueue_freeIdx (s : State) (p q : Nat) (x : Queue) : (s.setQueue p q x).freeIdx = s.freeIdx := rfl
@[simp] theorem State.setQueue_waitSeq (s : State) (p q : Nat) (x : Queue) : (s.setQueue p q x).waitSeq = s.waitSeq := rfl
@[simp] theorem State.setQueue_cycle (s : State) (p q : Nat) (x : Queue) : (s.setQueue p q x).cycle = s.cycle := rfl
@[simp] theorem State.setQueue_turns (s : State) (p q : Nat) (x : Queue) : (s.setQueue p q x).turns = s.turns := rfl
@[simp] theorem State.setQueue_late (s : State) (p q : Nat) (x : Queue) : (s.setQueue p q x).late = s.late := rfl
@[simp] theorem State.setQueue_lags (s : State) (p q : Nat) (x : Queue) : (s.setQueue p q x).lags = s.lags := rfl

/-! ## Memory -/

@[simp] theorem State.write_slots (s : State) (a : Nat) (bs : List Byte) : (s.write a bs).slots = s.slots := rfl
@[simp] theorem State.write_cur (s : State) (a : Nat) (bs : List Byte) : (s.write a bs).cur = s.cur := rfl
@[simp] theorem State.write_curWord (s : State) (a : Nat) (bs : List Byte) : (s.write a bs).curWord = s.curWord := rfl
@[simp] theorem State.write_cores (s : State) (a : Nat) (bs : List Byte) : (s.write a bs).cores = s.cores := rfl
@[simp] theorem State.write_dies (s : State) (a : Nat) (bs : List Byte) : (s.write a bs).dies = s.dies := rfl
@[simp] theorem State.write_parts (s : State) (a : Nat) (bs : List Byte) : (s.write a bs).parts = s.parts := rfl
@[simp] theorem State.write_tags (s : State) (a : Nat) (bs : List Byte) : (s.write a bs).tags = s.tags := rfl
@[simp] theorem State.write_lineFull (s : State) (a : Nat) (bs : List Byte) : (s.write a bs).lineFull = s.lineFull := rfl
@[simp] theorem State.write_owned (s : State) (a : Nat) (bs : List Byte) : (s.write a bs).owned = s.owned := rfl
@[simp] theorem State.write_mma (s : State) (a : Nat) (bs : List Byte) : (s.write a bs).mma = s.mma := rfl
@[simp] theorem State.write_ranges (s : State) (a : Nat) (bs : List Byte) : (s.write a bs).ranges = s.ranges := rfl
@[simp] theorem State.write_fills (s : State) (a : Nat) (bs : List Byte) : (s.write a bs).fills = s.fills := rfl
@[simp] theorem State.write_notices (s : State) (a : Nat) (bs : List Byte) : (s.write a bs).notices = s.notices := rfl
@[simp] theorem State.write_kills (s : State) (a : Nat) (bs : List Byte) : (s.write a bs).kills = s.kills := rfl
@[simp] theorem State.write_capJobs (s : State) (a : Nat) (bs : List Byte) : (s.write a bs).capJobs = s.capJobs := rfl
@[simp] theorem State.write_taskSeq (s : State) (a : Nat) (bs : List Byte) : (s.write a bs).taskSeq = s.taskSeq := rfl
@[simp] theorem State.write_group (s : State) (a : Nat) (bs : List Byte) : (s.write a bs).group = s.group := rfl
@[simp] theorem State.write_sent (s : State) (a : Nat) (bs : List Byte) : (s.write a bs).sent = s.sent := rfl
@[simp] theorem State.write_answers (s : State) (a : Nat) (bs : List Byte) : (s.write a bs).answers = s.answers := rfl
@[simp] theorem State.write_msix (s : State) (a : Nat) (bs : List Byte) : (s.write a bs).msix = s.msix := rfl
@[simp] theorem State.write_faults (s : State) (a : Nat) (bs : List Byte) : (s.write a bs).faults = s.faults := rfl
@[simp] theorem State.write_touchedBits (s : State) (a : Nat) (bs : List Byte) : (s.write a bs).touchedBits = s.touchedBits := rfl
@[simp] theorem State.write_touchedL1 (s : State) (a : Nat) (bs : List Byte) : (s.write a bs).touchedL1 = s.touchedL1 := rfl
@[simp] theorem State.write_jobs (s : State) (a : Nat) (bs : List Byte) : (s.write a bs).jobs = s.jobs := rfl
@[simp] theorem State.write_tick (s : State) (a : Nat) (bs : List Byte) : (s.write a bs).tick = s.tick := rfl
@[simp] theorem State.write_tai (s : State) (a : Nat) (bs : List Byte) : (s.write a bs).tai = s.tai := rfl
@[simp] theorem State.write_taiLock (s : State) (a : Nat) (bs : List Byte) : (s.write a bs).taiLock = s.taiLock := rfl
@[simp] theorem State.write_taiD (s : State) (a : Nat) (bs : List Byte) : (s.write a bs).taiD = s.taiD := rfl
@[simp] theorem State.write_feReady (s : State) (a : Nat) (bs : List Byte) : (s.write a bs).feReady = s.feReady := rfl
@[simp] theorem State.write_feLost (s : State) (a : Nat) (bs : List Byte) : (s.write a bs).feLost = s.feLost := rfl
@[simp] theorem State.write_queues (s : State) (a : Nat) (bs : List Byte) : (s.write a bs).queues = s.queues := rfl
@[simp] theorem State.write_copies (s : State) (a : Nat) (bs : List Byte) : (s.write a bs).copies = s.copies := rfl
@[simp] theorem State.write_feOps (s : State) (a : Nat) (bs : List Byte) : (s.write a bs).feOps = s.feOps := rfl
@[simp] theorem State.write_saves (s : State) (a : Nat) (bs : List Byte) : (s.write a bs).saves = s.saves := rfl
@[simp] theorem State.write_restores (s : State) (a : Nat) (bs : List Byte) : (s.write a bs).restores = s.restores := rfl
@[simp] theorem State.write_nextJob (s : State) (a : Nat) (bs : List Byte) : (s.write a bs).nextJob = s.nextJob := rfl
@[simp] theorem State.write_clocks (s : State) (a : Nat) (bs : List Byte) : (s.write a bs).clocks = s.clocks := rfl
@[simp] theorem State.write_clockReq (s : State) (a : Nat) (bs : List Byte) : (s.write a bs).clockReq = s.clockReq := rfl
@[simp] theorem State.write_scores (s : State) (a : Nat) (bs : List Byte) : (s.write a bs).scores = s.scores := rfl
@[simp] theorem State.write_buckets (s : State) (a : Nat) (bs : List Byte) : (s.write a bs).buckets = s.buckets := rfl
@[simp] theorem State.write_refills (s : State) (a : Nat) (bs : List Byte) : (s.write a bs).refills = s.refills := rfl
@[simp] theorem State.write_short (s : State) (a : Nat) (bs : List Byte) : (s.write a bs).short = s.short := rfl
@[simp] theorem State.write_pcie (s : State) (a : Nat) (bs : List Byte) : (s.write a bs).pcie = s.pcie := rfl
@[simp] theorem State.write_bar2 (s : State) (a : Nat) (bs : List Byte) : (s.write a bs).bar2 = s.bar2 := rfl
@[simp] theorem State.write_hd (s : State) (a : Nat) (bs : List Byte) : (s.write a bs).hd = s.hd := rfl
@[simp] theorem State.write_bt (s : State) (a : Nat) (bs : List Byte) : (s.write a bs).bt = s.bt := rfl
@[simp] theorem State.write_hm (s : State) (a : Nat) (bs : List Byte) : (s.write a bs).hm = s.hm := rfl
@[simp] theorem State.write_msixTab (s : State) (a : Nat) (bs : List Byte) : (s.write a bs).msixTab = s.msixTab := rfl
@[simp] theorem State.write_msixPba (s : State) (a : Nat) (bs : List Byte) : (s.write a bs).msixPba = s.msixPba := rfl
@[simp] theorem State.write_dts (s : State) (a : Nat) (bs : List Byte) : (s.write a bs).dts = s.dts := rfl
@[simp] theorem State.write_eventTurn (s : State) (a : Nat) (bs : List Byte) : (s.write a bs).eventTurn = s.eventTurn := rfl
@[simp] theorem State.write_freeIdx (s : State) (a : Nat) (bs : List Byte) : (s.write a bs).freeIdx = s.freeIdx := rfl
@[simp] theorem State.write_waitSeq (s : State) (a : Nat) (bs : List Byte) : (s.write a bs).waitSeq = s.waitSeq := rfl
@[simp] theorem State.write_cycle (s : State) (a : Nat) (bs : List Byte) : (s.write a bs).cycle = s.cycle := rfl
@[simp] theorem State.write_turns (s : State) (a : Nat) (bs : List Byte) : (s.write a bs).turns = s.turns := rfl
@[simp] theorem State.write_late (s : State) (a : Nat) (bs : List Byte) : (s.write a bs).late = s.late := rfl
@[simp] theorem State.write_lags (s : State) (a : Nat) (bs : List Byte) : (s.write a bs).lags = s.lags := rfl
@[simp] theorem State.write_mem (s : State) (a : Nat) (bs : List Byte) : (s.write a bs).mem = writeN s.mem a bs := rfl
@[simp] theorem State.setTag_slots (s : State) (a : Nat) (b : Bool) : (s.setTag a b).slots = s.slots := rfl
@[simp] theorem State.setTag_cur (s : State) (a : Nat) (b : Bool) : (s.setTag a b).cur = s.cur := rfl
@[simp] theorem State.setTag_curWord (s : State) (a : Nat) (b : Bool) : (s.setTag a b).curWord = s.curWord := rfl
@[simp] theorem State.setTag_cores (s : State) (a : Nat) (b : Bool) : (s.setTag a b).cores = s.cores := rfl
@[simp] theorem State.setTag_dies (s : State) (a : Nat) (b : Bool) : (s.setTag a b).dies = s.dies := rfl
@[simp] theorem State.setTag_parts (s : State) (a : Nat) (b : Bool) : (s.setTag a b).parts = s.parts := rfl
@[simp] theorem State.setTag_mem (s : State) (a : Nat) (b : Bool) : (s.setTag a b).mem = s.mem := rfl
@[simp] theorem State.setTag_lineFull (s : State) (a : Nat) (b : Bool) : (s.setTag a b).lineFull = s.lineFull := rfl
@[simp] theorem State.setTag_poison (s : State) (a : Nat) (b : Bool) : (s.setTag a b).poison = s.poison := rfl
@[simp] theorem State.setTag_owned (s : State) (a : Nat) (b : Bool) : (s.setTag a b).owned = s.owned := rfl
@[simp] theorem State.setTag_mma (s : State) (a : Nat) (b : Bool) : (s.setTag a b).mma = s.mma := rfl
@[simp] theorem State.setTag_ranges (s : State) (a : Nat) (b : Bool) : (s.setTag a b).ranges = s.ranges := rfl
@[simp] theorem State.setTag_fills (s : State) (a : Nat) (b : Bool) : (s.setTag a b).fills = s.fills := rfl
@[simp] theorem State.setTag_notices (s : State) (a : Nat) (b : Bool) : (s.setTag a b).notices = s.notices := rfl
@[simp] theorem State.setTag_kills (s : State) (a : Nat) (b : Bool) : (s.setTag a b).kills = s.kills := rfl
@[simp] theorem State.setTag_capJobs (s : State) (a : Nat) (b : Bool) : (s.setTag a b).capJobs = s.capJobs := rfl
@[simp] theorem State.setTag_taskSeq (s : State) (a : Nat) (b : Bool) : (s.setTag a b).taskSeq = s.taskSeq := rfl
@[simp] theorem State.setTag_group (s : State) (a : Nat) (b : Bool) : (s.setTag a b).group = s.group := rfl
@[simp] theorem State.setTag_sent (s : State) (a : Nat) (b : Bool) : (s.setTag a b).sent = s.sent := rfl
@[simp] theorem State.setTag_answers (s : State) (a : Nat) (b : Bool) : (s.setTag a b).answers = s.answers := rfl
@[simp] theorem State.setTag_msix (s : State) (a : Nat) (b : Bool) : (s.setTag a b).msix = s.msix := rfl
@[simp] theorem State.setTag_faults (s : State) (a : Nat) (b : Bool) : (s.setTag a b).faults = s.faults := rfl
@[simp] theorem State.setTag_touchedBits (s : State) (a : Nat) (b : Bool) : (s.setTag a b).touchedBits = s.touchedBits := rfl
@[simp] theorem State.setTag_touchedL1 (s : State) (a : Nat) (b : Bool) : (s.setTag a b).touchedL1 = s.touchedL1 := rfl
@[simp] theorem State.setTag_jobs (s : State) (a : Nat) (b : Bool) : (s.setTag a b).jobs = s.jobs := rfl
@[simp] theorem State.setTag_tick (s : State) (a : Nat) (b : Bool) : (s.setTag a b).tick = s.tick := rfl
@[simp] theorem State.setTag_tai (s : State) (a : Nat) (b : Bool) : (s.setTag a b).tai = s.tai := rfl
@[simp] theorem State.setTag_taiLock (s : State) (a : Nat) (b : Bool) : (s.setTag a b).taiLock = s.taiLock := rfl
@[simp] theorem State.setTag_taiD (s : State) (a : Nat) (b : Bool) : (s.setTag a b).taiD = s.taiD := rfl
@[simp] theorem State.setTag_feReady (s : State) (a : Nat) (b : Bool) : (s.setTag a b).feReady = s.feReady := rfl
@[simp] theorem State.setTag_feLost (s : State) (a : Nat) (b : Bool) : (s.setTag a b).feLost = s.feLost := rfl
@[simp] theorem State.setTag_queues (s : State) (a : Nat) (b : Bool) : (s.setTag a b).queues = s.queues := rfl
@[simp] theorem State.setTag_copies (s : State) (a : Nat) (b : Bool) : (s.setTag a b).copies = s.copies := rfl
@[simp] theorem State.setTag_feOps (s : State) (a : Nat) (b : Bool) : (s.setTag a b).feOps = s.feOps := rfl
@[simp] theorem State.setTag_saves (s : State) (a : Nat) (b : Bool) : (s.setTag a b).saves = s.saves := rfl
@[simp] theorem State.setTag_restores (s : State) (a : Nat) (b : Bool) : (s.setTag a b).restores = s.restores := rfl
@[simp] theorem State.setTag_nextJob (s : State) (a : Nat) (b : Bool) : (s.setTag a b).nextJob = s.nextJob := rfl
@[simp] theorem State.setTag_clocks (s : State) (a : Nat) (b : Bool) : (s.setTag a b).clocks = s.clocks := rfl
@[simp] theorem State.setTag_clockReq (s : State) (a : Nat) (b : Bool) : (s.setTag a b).clockReq = s.clockReq := rfl
@[simp] theorem State.setTag_scores (s : State) (a : Nat) (b : Bool) : (s.setTag a b).scores = s.scores := rfl
@[simp] theorem State.setTag_buckets (s : State) (a : Nat) (b : Bool) : (s.setTag a b).buckets = s.buckets := rfl
@[simp] theorem State.setTag_refills (s : State) (a : Nat) (b : Bool) : (s.setTag a b).refills = s.refills := rfl
@[simp] theorem State.setTag_short (s : State) (a : Nat) (b : Bool) : (s.setTag a b).short = s.short := rfl
@[simp] theorem State.setTag_pcie (s : State) (a : Nat) (b : Bool) : (s.setTag a b).pcie = s.pcie := rfl
@[simp] theorem State.setTag_bar2 (s : State) (a : Nat) (b : Bool) : (s.setTag a b).bar2 = s.bar2 := rfl
@[simp] theorem State.setTag_hd (s : State) (a : Nat) (b : Bool) : (s.setTag a b).hd = s.hd := rfl
@[simp] theorem State.setTag_bt (s : State) (a : Nat) (b : Bool) : (s.setTag a b).bt = s.bt := rfl
@[simp] theorem State.setTag_hm (s : State) (a : Nat) (b : Bool) : (s.setTag a b).hm = s.hm := rfl
@[simp] theorem State.setTag_msixTab (s : State) (a : Nat) (b : Bool) : (s.setTag a b).msixTab = s.msixTab := rfl
@[simp] theorem State.setTag_msixPba (s : State) (a : Nat) (b : Bool) : (s.setTag a b).msixPba = s.msixPba := rfl
@[simp] theorem State.setTag_dts (s : State) (a : Nat) (b : Bool) : (s.setTag a b).dts = s.dts := rfl
@[simp] theorem State.setTag_eventTurn (s : State) (a : Nat) (b : Bool) : (s.setTag a b).eventTurn = s.eventTurn := rfl
@[simp] theorem State.setTag_freeIdx (s : State) (a : Nat) (b : Bool) : (s.setTag a b).freeIdx = s.freeIdx := rfl
@[simp] theorem State.setTag_waitSeq (s : State) (a : Nat) (b : Bool) : (s.setTag a b).waitSeq = s.waitSeq := rfl
@[simp] theorem State.setTag_cycle (s : State) (a : Nat) (b : Bool) : (s.setTag a b).cycle = s.cycle := rfl
@[simp] theorem State.setTag_turns (s : State) (a : Nat) (b : Bool) : (s.setTag a b).turns = s.turns := rfl
@[simp] theorem State.setTag_late (s : State) (a : Nat) (b : Bool) : (s.setTag a b).late = s.late := rfl
@[simp] theorem State.setTag_lags (s : State) (a : Nat) (b : Bool) : (s.setTag a b).lags = s.lags := rfl
@[simp] theorem State.setTag_tags (s : State) (a : Nat) (b : Bool) : (s.setTag a b).tags = s.tags.put false (a / 8 * 8) b := rfl

/-! ## One part of a warp -/

@[simp] theorem Warp.wrS_st (w : Warp) (k : Nat) (v : W64) : (w.wrS k v).st = w.st := rfl
@[simp] theorem Warp.wrS_gen (w : Warp) (k : Nat) (v : W64) : (w.wrS k v).gen = w.gen := rfl
@[simp] theorem Warp.wrS_id (w : Warp) (k : Nat) (v : W64) : (w.wrS k v).id = w.id := rfl
@[simp] theorem Warp.wrS_regs (w : Warp) (k : Nat) (v : W64) : (w.wrS k v).regs = w.regs.wrS k v := rfl
@[simp] theorem Warp.wrS_ctl (w : Warp) (k : Nat) (v : W64) : (w.wrS k v).ctl = w.ctl := rfl
@[simp] theorem Warp.wrS_stat (w : Warp) (k : Nat) (v : W64) : (w.wrS k v).stat = w.stat := rfl
@[simp] theorem Warp.wrS_trap (w : Warp) (k : Nat) (v : W64) : (w.wrS k v).trap = w.trap := rfl
@[simp] theorem Warp.wrS_wait (w : Warp) (k : Nat) (v : W64) : (w.wrS k v).wait = w.wait := rfl
@[simp] theorem Warp.wrS_word (w : Warp) (k : Nat) (v : W64) : (w.wrS k v).word = w.word := rfl
@[simp] theorem Warp.wrS_watch (w : Warp) (k : Nat) (v : W64) : (w.wrS k v).watch = w.watch := rfl
@[simp] theorem Warp.wrS_arrC (w : Warp) (k : Nat) (v : W64) : (w.wrS k v).arrC = w.arrC := rfl
@[simp] theorem Warp.wrS_arrG (w : Warp) (k : Nat) (v : W64) : (w.wrS k v).arrG = w.arrG := rfl
@[simp] theorem Warp.wrS_lateC (w : Warp) (k : Nat) (v : W64) : (w.wrS k v).lateC = w.lateC := rfl
@[simp] theorem Warp.wrS_lateG (w : Warp) (k : Nat) (v : W64) : (w.wrS k v).lateG = w.lateG := rfl
@[simp] theorem Warp.wrS_task (w : Warp) (k : Nat) (v : W64) : (w.wrS k v).task = w.task := rfl
@[simp] theorem Warp.wrS_cap (w : Warp) (k : Nat) (v : W64) : (w.wrS k v).cap = w.cap := rfl
@[simp] theorem Warp.wrS_adopted (w : Warp) (k : Nat) (v : W64) : (w.wrS k v).adopted = w.adopted := rfl
@[simp] theorem Warp.wrS_hist (w : Warp) (k : Nat) (v : W64) : (w.wrS k v).hist = w.hist := rfl
@[simp] theorem Warp.wrS_shstat (w : Warp) (k : Nat) (v : W64) : (w.wrS k v).shstat = w.shstat := rfl
@[simp] theorem Warp.wrS_mxrpl (w : Warp) (k : Nat) (v : W64) : (w.wrS k v).mxrpl = w.mxrpl := rfl
@[simp] theorem Warp.wrS_lastMma (w : Warp) (k : Nat) (v : W64) : (w.wrS k v).lastMma = w.lastMma := rfl
@[simp] theorem Warp.wrS_nmvStack (w : Warp) (k : Nat) (v : W64) : (w.wrS k v).nmvStack = w.nmvStack := rfl
@[simp] theorem Warp.wrS_cells (w : Warp) (k : Nat) (v : W64) : (w.wrS k v).cells = w.cells := rfl
@[simp] theorem Warp.wrS_fbuf (w : Warp) (k : Nat) (v : W64) : (w.wrS k v).fbuf = w.fbuf := rfl
@[simp] theorem Warp.wrS_stale (w : Warp) (k : Nat) (v : W64) : (w.wrS k v).stale = w.stale := rfl
@[simp] theorem Warp.wrS_fetch (w : Warp) (k : Nat) (v : W64) : (w.wrS k v).fetch = w.fetch := rfl
@[simp] theorem Warp.wrS_fetchDead (w : Warp) (k : Nat) (v : W64) : (w.wrS k v).fetchDead = w.fetchDead := rfl
@[simp] theorem Warp.wrS_log (w : Warp) (k : Nat) (v : W64) : (w.wrS k v).log = w.log := rfl
@[simp] theorem Warp.wrS_logNum (w : Warp) (k : Nat) (v : W64) : (w.wrS k v).logNum = w.logNum := rfl
@[simp] theorem Warp.wrS_fdsq (w : Warp) (k : Nat) (v : W64) : (w.wrS k v).fdsq = w.fdsq := rfl
@[simp] theorem Warp.wrS_origins (w : Warp) (k : Nat) (v : W64) : (w.wrS k v).origins = w.origins := rfl
@[simp] theorem Warp.wrS_bad (w : Warp) (k : Nat) (v : W64) : (w.wrS k v).bad = w.bad := rfl
@[simp] theorem Warp.wrV_st (w : Warp) (k l : Nat) (v : W32) : (w.wrV k l v).st = w.st := rfl
@[simp] theorem Warp.wrV_gen (w : Warp) (k l : Nat) (v : W32) : (w.wrV k l v).gen = w.gen := rfl
@[simp] theorem Warp.wrV_id (w : Warp) (k l : Nat) (v : W32) : (w.wrV k l v).id = w.id := rfl
@[simp] theorem Warp.wrV_regs (w : Warp) (k l : Nat) (v : W32) : (w.wrV k l v).regs = w.regs.wrV k l v := rfl
@[simp] theorem Warp.wrV_ctl (w : Warp) (k l : Nat) (v : W32) : (w.wrV k l v).ctl = w.ctl := rfl
@[simp] theorem Warp.wrV_stat (w : Warp) (k l : Nat) (v : W32) : (w.wrV k l v).stat = w.stat := rfl
@[simp] theorem Warp.wrV_trap (w : Warp) (k l : Nat) (v : W32) : (w.wrV k l v).trap = w.trap := rfl
@[simp] theorem Warp.wrV_wait (w : Warp) (k l : Nat) (v : W32) : (w.wrV k l v).wait = w.wait := rfl
@[simp] theorem Warp.wrV_word (w : Warp) (k l : Nat) (v : W32) : (w.wrV k l v).word = w.word := rfl
@[simp] theorem Warp.wrV_watch (w : Warp) (k l : Nat) (v : W32) : (w.wrV k l v).watch = w.watch := rfl
@[simp] theorem Warp.wrV_arrC (w : Warp) (k l : Nat) (v : W32) : (w.wrV k l v).arrC = w.arrC := rfl
@[simp] theorem Warp.wrV_arrG (w : Warp) (k l : Nat) (v : W32) : (w.wrV k l v).arrG = w.arrG := rfl
@[simp] theorem Warp.wrV_lateC (w : Warp) (k l : Nat) (v : W32) : (w.wrV k l v).lateC = w.lateC := rfl
@[simp] theorem Warp.wrV_lateG (w : Warp) (k l : Nat) (v : W32) : (w.wrV k l v).lateG = w.lateG := rfl
@[simp] theorem Warp.wrV_task (w : Warp) (k l : Nat) (v : W32) : (w.wrV k l v).task = w.task := rfl
@[simp] theorem Warp.wrV_cap (w : Warp) (k l : Nat) (v : W32) : (w.wrV k l v).cap = w.cap := rfl
@[simp] theorem Warp.wrV_adopted (w : Warp) (k l : Nat) (v : W32) : (w.wrV k l v).adopted = w.adopted := rfl
@[simp] theorem Warp.wrV_hist (w : Warp) (k l : Nat) (v : W32) : (w.wrV k l v).hist = w.hist := rfl
@[simp] theorem Warp.wrV_shstat (w : Warp) (k l : Nat) (v : W32) : (w.wrV k l v).shstat = w.shstat := rfl
@[simp] theorem Warp.wrV_mxrpl (w : Warp) (k l : Nat) (v : W32) : (w.wrV k l v).mxrpl = w.mxrpl := rfl
@[simp] theorem Warp.wrV_lastMma (w : Warp) (k l : Nat) (v : W32) : (w.wrV k l v).lastMma = w.lastMma := rfl
@[simp] theorem Warp.wrV_nmvStack (w : Warp) (k l : Nat) (v : W32) : (w.wrV k l v).nmvStack = w.nmvStack := rfl
@[simp] theorem Warp.wrV_cells (w : Warp) (k l : Nat) (v : W32) : (w.wrV k l v).cells = w.cells := rfl
@[simp] theorem Warp.wrV_fbuf (w : Warp) (k l : Nat) (v : W32) : (w.wrV k l v).fbuf = w.fbuf := rfl
@[simp] theorem Warp.wrV_stale (w : Warp) (k l : Nat) (v : W32) : (w.wrV k l v).stale = w.stale := rfl
@[simp] theorem Warp.wrV_fetch (w : Warp) (k l : Nat) (v : W32) : (w.wrV k l v).fetch = w.fetch := rfl
@[simp] theorem Warp.wrV_fetchDead (w : Warp) (k l : Nat) (v : W32) : (w.wrV k l v).fetchDead = w.fetchDead := rfl
@[simp] theorem Warp.wrV_log (w : Warp) (k l : Nat) (v : W32) : (w.wrV k l v).log = w.log := rfl
@[simp] theorem Warp.wrV_logNum (w : Warp) (k l : Nat) (v : W32) : (w.wrV k l v).logNum = w.logNum := rfl
@[simp] theorem Warp.wrV_fdsq (w : Warp) (k l : Nat) (v : W32) : (w.wrV k l v).fdsq = w.fdsq := rfl
@[simp] theorem Warp.wrV_origins (w : Warp) (k l : Nat) (v : W32) : (w.wrV k l v).origins = w.origins := rfl
@[simp] theorem Warp.wrV_bad (w : Warp) (k l : Nat) (v : W32) : (w.wrV k l v).bad = w.bad := rfl
@[simp] theorem Warp.wrP_st (w : Warp) (k : Nat) (m v : W64) : (w.wrP k m v).st = w.st := rfl
@[simp] theorem Warp.wrP_gen (w : Warp) (k : Nat) (m v : W64) : (w.wrP k m v).gen = w.gen := rfl
@[simp] theorem Warp.wrP_id (w : Warp) (k : Nat) (m v : W64) : (w.wrP k m v).id = w.id := rfl
@[simp] theorem Warp.wrP_regs (w : Warp) (k : Nat) (m v : W64) : (w.wrP k m v).regs = w.regs.wrP k m v := rfl
@[simp] theorem Warp.wrP_ctl (w : Warp) (k : Nat) (m v : W64) : (w.wrP k m v).ctl = w.ctl := rfl
@[simp] theorem Warp.wrP_stat (w : Warp) (k : Nat) (m v : W64) : (w.wrP k m v).stat = w.stat := rfl
@[simp] theorem Warp.wrP_trap (w : Warp) (k : Nat) (m v : W64) : (w.wrP k m v).trap = w.trap := rfl
@[simp] theorem Warp.wrP_wait (w : Warp) (k : Nat) (m v : W64) : (w.wrP k m v).wait = w.wait := rfl
@[simp] theorem Warp.wrP_word (w : Warp) (k : Nat) (m v : W64) : (w.wrP k m v).word = w.word := rfl
@[simp] theorem Warp.wrP_watch (w : Warp) (k : Nat) (m v : W64) : (w.wrP k m v).watch = w.watch := rfl
@[simp] theorem Warp.wrP_arrC (w : Warp) (k : Nat) (m v : W64) : (w.wrP k m v).arrC = w.arrC := rfl
@[simp] theorem Warp.wrP_arrG (w : Warp) (k : Nat) (m v : W64) : (w.wrP k m v).arrG = w.arrG := rfl
@[simp] theorem Warp.wrP_lateC (w : Warp) (k : Nat) (m v : W64) : (w.wrP k m v).lateC = w.lateC := rfl
@[simp] theorem Warp.wrP_lateG (w : Warp) (k : Nat) (m v : W64) : (w.wrP k m v).lateG = w.lateG := rfl
@[simp] theorem Warp.wrP_task (w : Warp) (k : Nat) (m v : W64) : (w.wrP k m v).task = w.task := rfl
@[simp] theorem Warp.wrP_cap (w : Warp) (k : Nat) (m v : W64) : (w.wrP k m v).cap = w.cap := rfl
@[simp] theorem Warp.wrP_adopted (w : Warp) (k : Nat) (m v : W64) : (w.wrP k m v).adopted = w.adopted := rfl
@[simp] theorem Warp.wrP_hist (w : Warp) (k : Nat) (m v : W64) : (w.wrP k m v).hist = w.hist := rfl
@[simp] theorem Warp.wrP_shstat (w : Warp) (k : Nat) (m v : W64) : (w.wrP k m v).shstat = w.shstat := rfl
@[simp] theorem Warp.wrP_mxrpl (w : Warp) (k : Nat) (m v : W64) : (w.wrP k m v).mxrpl = w.mxrpl := rfl
@[simp] theorem Warp.wrP_lastMma (w : Warp) (k : Nat) (m v : W64) : (w.wrP k m v).lastMma = w.lastMma := rfl
@[simp] theorem Warp.wrP_nmvStack (w : Warp) (k : Nat) (m v : W64) : (w.wrP k m v).nmvStack = w.nmvStack := rfl
@[simp] theorem Warp.wrP_cells (w : Warp) (k : Nat) (m v : W64) : (w.wrP k m v).cells = w.cells := rfl
@[simp] theorem Warp.wrP_fbuf (w : Warp) (k : Nat) (m v : W64) : (w.wrP k m v).fbuf = w.fbuf := rfl
@[simp] theorem Warp.wrP_stale (w : Warp) (k : Nat) (m v : W64) : (w.wrP k m v).stale = w.stale := rfl
@[simp] theorem Warp.wrP_fetch (w : Warp) (k : Nat) (m v : W64) : (w.wrP k m v).fetch = w.fetch := rfl
@[simp] theorem Warp.wrP_fetchDead (w : Warp) (k : Nat) (m v : W64) : (w.wrP k m v).fetchDead = w.fetchDead := rfl
@[simp] theorem Warp.wrP_log (w : Warp) (k : Nat) (m v : W64) : (w.wrP k m v).log = w.log := rfl
@[simp] theorem Warp.wrP_logNum (w : Warp) (k : Nat) (m v : W64) : (w.wrP k m v).logNum = w.logNum := rfl
@[simp] theorem Warp.wrP_fdsq (w : Warp) (k : Nat) (m v : W64) : (w.wrP k m v).fdsq = w.fdsq := rfl
@[simp] theorem Warp.wrP_origins (w : Warp) (k : Nat) (m v : W64) : (w.wrP k m v).origins = w.origins := rfl
@[simp] theorem Warp.wrP_bad (w : Warp) (k : Nat) (m v : W64) : (w.wrP k m v).bad = w.bad := rfl
@[simp] theorem Warp.setPc_st (w : Warp) (v : W64) : (w.setPc v).st = w.st := rfl
@[simp] theorem Warp.setPc_gen (w : Warp) (v : W64) : (w.setPc v).gen = w.gen := rfl
@[simp] theorem Warp.setPc_id (w : Warp) (v : W64) : (w.setPc v).id = w.id := rfl
@[simp] theorem Warp.setPc_regs (w : Warp) (v : W64) : (w.setPc v).regs = w.regs := rfl
@[simp] theorem Warp.setPc_stat (w : Warp) (v : W64) : (w.setPc v).stat = w.stat := rfl
@[simp] theorem Warp.setPc_trap (w : Warp) (v : W64) : (w.setPc v).trap = w.trap := rfl
@[simp] theorem Warp.setPc_wait (w : Warp) (v : W64) : (w.setPc v).wait = w.wait := rfl
@[simp] theorem Warp.setPc_word (w : Warp) (v : W64) : (w.setPc v).word = w.word := rfl
@[simp] theorem Warp.setPc_watch (w : Warp) (v : W64) : (w.setPc v).watch = w.watch := rfl
@[simp] theorem Warp.setPc_arrC (w : Warp) (v : W64) : (w.setPc v).arrC = w.arrC := rfl
@[simp] theorem Warp.setPc_arrG (w : Warp) (v : W64) : (w.setPc v).arrG = w.arrG := rfl
@[simp] theorem Warp.setPc_lateC (w : Warp) (v : W64) : (w.setPc v).lateC = w.lateC := rfl
@[simp] theorem Warp.setPc_lateG (w : Warp) (v : W64) : (w.setPc v).lateG = w.lateG := rfl
@[simp] theorem Warp.setPc_task (w : Warp) (v : W64) : (w.setPc v).task = w.task := rfl
@[simp] theorem Warp.setPc_cap (w : Warp) (v : W64) : (w.setPc v).cap = w.cap := rfl
@[simp] theorem Warp.setPc_adopted (w : Warp) (v : W64) : (w.setPc v).adopted = w.adopted := rfl
@[simp] theorem Warp.setPc_hist (w : Warp) (v : W64) : (w.setPc v).hist = w.hist := rfl
@[simp] theorem Warp.setPc_shstat (w : Warp) (v : W64) : (w.setPc v).shstat = w.shstat := rfl
@[simp] theorem Warp.setPc_mxrpl (w : Warp) (v : W64) : (w.setPc v).mxrpl = w.mxrpl := rfl
@[simp] theorem Warp.setPc_lastMma (w : Warp) (v : W64) : (w.setPc v).lastMma = w.lastMma := rfl
@[simp] theorem Warp.setPc_nmvStack (w : Warp) (v : W64) : (w.setPc v).nmvStack = w.nmvStack := rfl
@[simp] theorem Warp.setPc_cells (w : Warp) (v : W64) : (w.setPc v).cells = w.cells := rfl
@[simp] theorem Warp.setPc_fbuf (w : Warp) (v : W64) : (w.setPc v).fbuf = w.fbuf := rfl
@[simp] theorem Warp.setPc_stale (w : Warp) (v : W64) : (w.setPc v).stale = w.stale := rfl
@[simp] theorem Warp.setPc_fetch (w : Warp) (v : W64) : (w.setPc v).fetch = w.fetch := rfl
@[simp] theorem Warp.setPc_fetchDead (w : Warp) (v : W64) : (w.setPc v).fetchDead = w.fetchDead := rfl
@[simp] theorem Warp.setPc_log (w : Warp) (v : W64) : (w.setPc v).log = w.log := rfl
@[simp] theorem Warp.setPc_logNum (w : Warp) (v : W64) : (w.setPc v).logNum = w.logNum := rfl
@[simp] theorem Warp.setPc_fdsq (w : Warp) (v : W64) : (w.setPc v).fdsq = w.fdsq := rfl
@[simp] theorem Warp.setPc_origins (w : Warp) (v : W64) : (w.setPc v).origins = w.origins := rfl
@[simp] theorem Warp.setPc_bad (w : Warp) (v : W64) : (w.setPc v).bad = w.bad := rfl
@[simp] theorem Warp.setPc_ctl_pc (w : Warp) (v : W64) : (w.setPc v).ctl.pc = v := rfl
@[simp] theorem Warp.setPc_ctl_wmode (w : Warp) (v : W64) : (w.setPc v).ctl.wmode = w.ctl.wmode := rfl
@[simp] theorem Warp.setPc_ctl_exec (w : Warp) (v : W64) : (w.setPc v).ctl.exec = w.ctl.exec := rfl
@[simp] theorem Warp.setPc_ctl_live (w : Warp) (v : W64) : (w.setPc v).ctl.live = w.ctl.live := rfl
@[simp] theorem Warp.setPc_ctl_path (w : Warp) (v : W64) : (w.setPc v).ctl.path = w.ctl.path := rfl
@[simp] theorem Warp.setPc_ctl_stk (w : Warp) (v : W64) : (w.setPc v).ctl.stk = w.ctl.stk := rfl
@[simp] theorem Warp.setPc_ctl_reexec (w : Warp) (v : W64) : (w.setPc v).ctl.reexec = w.ctl.reexec := rfl
@[simp] theorem Warp.setPc_ctl_done (w : Warp) (v : W64) : (w.setPc v).ctl.done = w.ctl.done := rfl
@[simp] theorem Warp.setPc_ctl_wait (w : Warp) (v : W64) : (w.setPc v).ctl.wait = w.ctl.wait := rfl
@[simp] theorem Warp.setPc_ctl_promo (w : Warp) (v : W64) : (w.setPc v).ctl.promo = w.ctl.promo := rfl
@[simp] theorem Warp.setMode_st (w : Warp) (v : W64) : (w.setMode v).st = w.st := rfl
@[simp] theorem Warp.setMode_gen (w : Warp) (v : W64) : (w.setMode v).gen = w.gen := rfl
@[simp] theorem Warp.setMode_id (w : Warp) (v : W64) : (w.setMode v).id = w.id := rfl
@[simp] theorem Warp.setMode_regs (w : Warp) (v : W64) : (w.setMode v).regs = w.regs := rfl
@[simp] theorem Warp.setMode_stat (w : Warp) (v : W64) : (w.setMode v).stat = w.stat := rfl
@[simp] theorem Warp.setMode_trap (w : Warp) (v : W64) : (w.setMode v).trap = w.trap := rfl
@[simp] theorem Warp.setMode_wait (w : Warp) (v : W64) : (w.setMode v).wait = w.wait := rfl
@[simp] theorem Warp.setMode_word (w : Warp) (v : W64) : (w.setMode v).word = w.word := rfl
@[simp] theorem Warp.setMode_watch (w : Warp) (v : W64) : (w.setMode v).watch = w.watch := rfl
@[simp] theorem Warp.setMode_arrC (w : Warp) (v : W64) : (w.setMode v).arrC = w.arrC := rfl
@[simp] theorem Warp.setMode_arrG (w : Warp) (v : W64) : (w.setMode v).arrG = w.arrG := rfl
@[simp] theorem Warp.setMode_lateC (w : Warp) (v : W64) : (w.setMode v).lateC = w.lateC := rfl
@[simp] theorem Warp.setMode_lateG (w : Warp) (v : W64) : (w.setMode v).lateG = w.lateG := rfl
@[simp] theorem Warp.setMode_task (w : Warp) (v : W64) : (w.setMode v).task = w.task := rfl
@[simp] theorem Warp.setMode_cap (w : Warp) (v : W64) : (w.setMode v).cap = w.cap := rfl
@[simp] theorem Warp.setMode_adopted (w : Warp) (v : W64) : (w.setMode v).adopted = w.adopted := rfl
@[simp] theorem Warp.setMode_hist (w : Warp) (v : W64) : (w.setMode v).hist = w.hist := rfl
@[simp] theorem Warp.setMode_shstat (w : Warp) (v : W64) : (w.setMode v).shstat = w.shstat := rfl
@[simp] theorem Warp.setMode_mxrpl (w : Warp) (v : W64) : (w.setMode v).mxrpl = w.mxrpl := rfl
@[simp] theorem Warp.setMode_lastMma (w : Warp) (v : W64) : (w.setMode v).lastMma = w.lastMma := rfl
@[simp] theorem Warp.setMode_nmvStack (w : Warp) (v : W64) : (w.setMode v).nmvStack = w.nmvStack := rfl
@[simp] theorem Warp.setMode_cells (w : Warp) (v : W64) : (w.setMode v).cells = w.cells := rfl
@[simp] theorem Warp.setMode_fbuf (w : Warp) (v : W64) : (w.setMode v).fbuf = w.fbuf := rfl
@[simp] theorem Warp.setMode_stale (w : Warp) (v : W64) : (w.setMode v).stale = w.stale := rfl
@[simp] theorem Warp.setMode_fetch (w : Warp) (v : W64) : (w.setMode v).fetch = w.fetch := rfl
@[simp] theorem Warp.setMode_fetchDead (w : Warp) (v : W64) : (w.setMode v).fetchDead = w.fetchDead := rfl
@[simp] theorem Warp.setMode_log (w : Warp) (v : W64) : (w.setMode v).log = w.log := rfl
@[simp] theorem Warp.setMode_logNum (w : Warp) (v : W64) : (w.setMode v).logNum = w.logNum := rfl
@[simp] theorem Warp.setMode_fdsq (w : Warp) (v : W64) : (w.setMode v).fdsq = w.fdsq := rfl
@[simp] theorem Warp.setMode_origins (w : Warp) (v : W64) : (w.setMode v).origins = w.origins := rfl
@[simp] theorem Warp.setMode_bad (w : Warp) (v : W64) : (w.setMode v).bad = w.bad := rfl
@[simp] theorem Warp.setMode_ctl_pc (w : Warp) (v : W64) : (w.setMode v).ctl.pc = w.ctl.pc := rfl
@[simp] theorem Warp.setMode_ctl_wmode (w : Warp) (v : W64) : (w.setMode v).ctl.wmode = v := rfl
@[simp] theorem Warp.setMode_ctl_exec (w : Warp) (v : W64) : (w.setMode v).ctl.exec = w.ctl.exec := rfl
@[simp] theorem Warp.setMode_ctl_live (w : Warp) (v : W64) : (w.setMode v).ctl.live = w.ctl.live := rfl
@[simp] theorem Warp.setMode_ctl_path (w : Warp) (v : W64) : (w.setMode v).ctl.path = w.ctl.path := rfl
@[simp] theorem Warp.setMode_ctl_stk (w : Warp) (v : W64) : (w.setMode v).ctl.stk = w.ctl.stk := rfl
@[simp] theorem Warp.setMode_ctl_reexec (w : Warp) (v : W64) : (w.setMode v).ctl.reexec = w.ctl.reexec := rfl
@[simp] theorem Warp.setMode_ctl_done (w : Warp) (v : W64) : (w.setMode v).ctl.done = w.ctl.done := rfl
@[simp] theorem Warp.setMode_ctl_wait (w : Warp) (v : W64) : (w.setMode v).ctl.wait = w.ctl.wait := rfl
@[simp] theorem Warp.setMode_ctl_promo (w : Warp) (v : W64) : (w.setMode v).ctl.promo = w.ctl.promo := rfl
@[simp] theorem Warp.advance_st (w : Warp) : (w.advance).st = w.st := rfl
@[simp] theorem Warp.advance_gen (w : Warp) : (w.advance).gen = w.gen := rfl
@[simp] theorem Warp.advance_id (w : Warp) : (w.advance).id = w.id := rfl
@[simp] theorem Warp.advance_regs (w : Warp) : (w.advance).regs = w.regs := rfl
@[simp] theorem Warp.advance_stat (w : Warp) : (w.advance).stat = w.stat := rfl
@[simp] theorem Warp.advance_trap (w : Warp) : (w.advance).trap = w.trap := rfl
@[simp] theorem Warp.advance_wait (w : Warp) : (w.advance).wait = w.wait := rfl
@[simp] theorem Warp.advance_word (w : Warp) : (w.advance).word = w.word := rfl
@[simp] theorem Warp.advance_watch (w : Warp) : (w.advance).watch = w.watch := rfl
@[simp] theorem Warp.advance_arrC (w : Warp) : (w.advance).arrC = w.arrC := rfl
@[simp] theorem Warp.advance_arrG (w : Warp) : (w.advance).arrG = w.arrG := rfl
@[simp] theorem Warp.advance_lateC (w : Warp) : (w.advance).lateC = w.lateC := rfl
@[simp] theorem Warp.advance_lateG (w : Warp) : (w.advance).lateG = w.lateG := rfl
@[simp] theorem Warp.advance_task (w : Warp) : (w.advance).task = w.task := rfl
@[simp] theorem Warp.advance_cap (w : Warp) : (w.advance).cap = w.cap := rfl
@[simp] theorem Warp.advance_adopted (w : Warp) : (w.advance).adopted = w.adopted := rfl
@[simp] theorem Warp.advance_hist (w : Warp) : (w.advance).hist = w.hist := rfl
@[simp] theorem Warp.advance_shstat (w : Warp) : (w.advance).shstat = w.shstat := rfl
@[simp] theorem Warp.advance_mxrpl (w : Warp) : (w.advance).mxrpl = w.mxrpl := rfl
@[simp] theorem Warp.advance_lastMma (w : Warp) : (w.advance).lastMma = w.lastMma := rfl
@[simp] theorem Warp.advance_nmvStack (w : Warp) : (w.advance).nmvStack = w.nmvStack := rfl
@[simp] theorem Warp.advance_cells (w : Warp) : (w.advance).cells = w.cells := rfl
@[simp] theorem Warp.advance_fbuf (w : Warp) : (w.advance).fbuf = w.fbuf := rfl
@[simp] theorem Warp.advance_stale (w : Warp) : (w.advance).stale = w.stale := rfl
@[simp] theorem Warp.advance_fetch (w : Warp) : (w.advance).fetch = w.fetch := rfl
@[simp] theorem Warp.advance_fetchDead (w : Warp) : (w.advance).fetchDead = w.fetchDead := rfl
@[simp] theorem Warp.advance_log (w : Warp) : (w.advance).log = w.log := rfl
@[simp] theorem Warp.advance_logNum (w : Warp) : (w.advance).logNum = w.logNum := rfl
@[simp] theorem Warp.advance_fdsq (w : Warp) : (w.advance).fdsq = w.fdsq := rfl
@[simp] theorem Warp.advance_origins (w : Warp) : (w.advance).origins = w.origins := rfl
@[simp] theorem Warp.advance_bad (w : Warp) : (w.advance).bad = w.bad := rfl
@[simp] theorem Warp.advance_ctl_pc (w : Warp) : (w.advance).ctl.pc = w.ctl.pc + 4 := rfl
@[simp] theorem Warp.advance_ctl_wmode (w : Warp) : (w.advance).ctl.wmode = w.ctl.wmode := rfl
@[simp] theorem Warp.advance_ctl_exec (w : Warp) : (w.advance).ctl.exec = w.ctl.exec := rfl
@[simp] theorem Warp.advance_ctl_live (w : Warp) : (w.advance).ctl.live = w.ctl.live := rfl
@[simp] theorem Warp.advance_ctl_path (w : Warp) : (w.advance).ctl.path = w.ctl.path := rfl
@[simp] theorem Warp.advance_ctl_stk (w : Warp) : (w.advance).ctl.stk = w.ctl.stk := rfl
@[simp] theorem Warp.advance_ctl_reexec (w : Warp) : (w.advance).ctl.reexec = w.ctl.reexec := rfl
@[simp] theorem Warp.advance_ctl_done (w : Warp) : (w.advance).ctl.done = w.ctl.done := rfl
@[simp] theorem Warp.advance_ctl_wait (w : Warp) : (w.advance).ctl.wait = w.ctl.wait := rfl
@[simp] theorem Warp.advance_ctl_promo (w : Warp) : (w.advance).ctl.promo = w.ctl.promo := rfl
@[simp] theorem Warp.issued_st (w : Warp) : (w.issued).st = w.st := rfl
@[simp] theorem Warp.issued_gen (w : Warp) : (w.issued).gen = w.gen := rfl
@[simp] theorem Warp.issued_id (w : Warp) : (w.issued).id = w.id := rfl
@[simp] theorem Warp.issued_regs (w : Warp) : (w.issued).regs = w.regs := rfl
@[simp] theorem Warp.issued_stat (w : Warp) : (w.issued).stat = w.stat := rfl
@[simp] theorem Warp.issued_trap (w : Warp) : (w.issued).trap = w.trap := rfl
@[simp] theorem Warp.issued_wait (w : Warp) : (w.issued).wait = w.wait := rfl
@[simp] theorem Warp.issued_word (w : Warp) : (w.issued).word = w.word := rfl
@[simp] theorem Warp.issued_watch (w : Warp) : (w.issued).watch = w.watch := rfl
@[simp] theorem Warp.issued_arrC (w : Warp) : (w.issued).arrC = w.arrC := rfl
@[simp] theorem Warp.issued_arrG (w : Warp) : (w.issued).arrG = w.arrG := rfl
@[simp] theorem Warp.issued_lateC (w : Warp) : (w.issued).lateC = w.lateC := rfl
@[simp] theorem Warp.issued_lateG (w : Warp) : (w.issued).lateG = w.lateG := rfl
@[simp] theorem Warp.issued_task (w : Warp) : (w.issued).task = w.task := rfl
@[simp] theorem Warp.issued_cap (w : Warp) : (w.issued).cap = w.cap := rfl
@[simp] theorem Warp.issued_adopted (w : Warp) : (w.issued).adopted = w.adopted := rfl
@[simp] theorem Warp.issued_hist (w : Warp) : (w.issued).hist = w.hist := rfl
@[simp] theorem Warp.issued_shstat (w : Warp) : (w.issued).shstat = w.shstat := rfl
@[simp] theorem Warp.issued_mxrpl (w : Warp) : (w.issued).mxrpl = w.mxrpl := rfl
@[simp] theorem Warp.issued_lastMma (w : Warp) : (w.issued).lastMma = w.lastMma := rfl
@[simp] theorem Warp.issued_nmvStack (w : Warp) : (w.issued).nmvStack = w.nmvStack := rfl
@[simp] theorem Warp.issued_cells (w : Warp) : (w.issued).cells = w.cells := rfl
@[simp] theorem Warp.issued_fetch (w : Warp) : (w.issued).fetch = w.fetch := rfl
@[simp] theorem Warp.issued_fetchDead (w : Warp) : (w.issued).fetchDead = w.fetchDead := rfl
@[simp] theorem Warp.issued_logNum (w : Warp) : (w.issued).logNum = w.logNum := rfl
@[simp] theorem Warp.issued_fdsq (w : Warp) : (w.issued).fdsq = w.fdsq := rfl
@[simp] theorem Warp.issued_origins (w : Warp) : (w.issued).origins = w.origins := rfl
@[simp] theorem Warp.issued_bad (w : Warp) : (w.issued).bad = w.bad := rfl
@[simp] theorem Warp.issued_ctl_pc (w : Warp) : w.issued.ctl.pc = w.ctl.pc := rfl
@[simp] theorem Warp.issued_ctl_wmode (w : Warp) : w.issued.ctl.wmode = w.ctl.wmode := rfl
@[simp] theorem Warp.issued_ctl_exec (w : Warp) : w.issued.ctl.exec = w.ctl.exec := rfl
@[simp] theorem Warp.issued_ctl_live (w : Warp) : w.issued.ctl.live = w.ctl.live := rfl
@[simp] theorem Warp.issued_ctl_path (w : Warp) : w.issued.ctl.path = w.ctl.path := rfl
@[simp] theorem Warp.issued_ctl_stk (w : Warp) : w.issued.ctl.stk = w.ctl.stk := rfl
@[simp] theorem Warp.issued_ctl_reexec (w : Warp) : w.issued.ctl.reexec = none := rfl
@[simp] theorem Warp.issued_ctl_done (w : Warp) : w.issued.ctl.done = 0 := rfl
@[simp] theorem Warp.issued_ctl_wait (w : Warp) : w.issued.ctl.wait = 0 := rfl
@[simp] theorem Warp.issued_ctl_promo (w : Warp) : w.issued.ctl.promo = false := rfl
@[simp] theorem Warp.issued_log (w : Warp) : w.issued.log = w.log.map fun e => { e with used := e.used + 1 } := rfl

/-! ## A warp's registers -/

@[simp] theorem Regs.wrV_s (r : Regs) (k l : Nat) (v : W32) : (r.wrV k l v).s = r.s := rfl
@[simp] theorem Regs.wrV_p (r : Regs) (k l : Nat) (v : W32) : (r.wrV k l v).p = r.p := rfl
@[simp] theorem Regs.wrV_b (r : Regs) (k l : Nat) (v : W32) : (r.wrV k l v).b = r.b := rfl
@[simp] theorem Regs.wrV_c (r : Regs) (k l : Nat) (v : W32) : (r.wrV k l v).c = r.c := rfl
@[simp] theorem Regs.wrB_s (r : Regs) (k : Nat) (v : BitVec 256) : (r.wrB k v).s = r.s := rfl
@[simp] theorem Regs.wrB_v (r : Regs) (k : Nat) (v : BitVec 256) : (r.wrB k v).v = r.v := rfl
@[simp] theorem Regs.wrB_p (r : Regs) (k : Nat) (v : BitVec 256) : (r.wrB k v).p = r.p := rfl
@[simp] theorem Regs.wrB_c (r : Regs) (k : Nat) (v : BitVec 256) : (r.wrB k v).c = r.c := rfl
@[simp] theorem Regs.wrC_s (r : Regs) (k : Nat) (v : W64) : (r.wrC k v).s = r.s := rfl
@[simp] theorem Regs.wrC_v (r : Regs) (k : Nat) (v : W64) : (r.wrC k v).v = r.v := rfl
@[simp] theorem Regs.wrC_p (r : Regs) (k : Nat) (v : W64) : (r.wrC k v).p = r.p := rfl
@[simp] theorem Regs.wrC_b (r : Regs) (k : Nat) (v : W64) : (r.wrC k v).b = r.b := rfl

/-! ## Reading back what was put -/

theorem slotKey_inj {c k c' k' : Nat} (hk : k < 128) (hk' : k' < 128) (h : slotKey c k = slotKey c' k') : c = c' ∧ k = k' := by
  unfold slotKey at h
  omega

@[simp] theorem State.warp_setWarp (s : State) (c k : Nat) (w : Warp) : (s.setWarp c k w).warp c k = w := by
  simp [State.warp, State.setWarp]

theorem State.warp_setWarp_ne (s : State) {c k c' k' : Nat} (w : Warp) (h : slotKey c' k' ≠ slotKey c k) :
    (s.setWarp c k w).warp c' k' = s.warp c' k' := by
  simp [State.warp, State.setWarp, FMap.getD_ins, h]

@[simp] theorem State.cw_setCw (s : State) (w : Warp) : (s.setCw w).cw = w := by simp [State.cw, State.setCw]

@[simp] theorem State.core_setCore (s : State) (c : Nat) (x : Core) : (s.setCore c x).core c = x := by
  simp [State.core, State.setCore]

theorem State.core_setCore_ne (s : State) {c c' : Nat} (x : Core) (h : c' ≠ c) : (s.setCore c x).core c' = s.core c' := by
  simp [State.core, State.setCore, FMap.getD_ins, h]

@[simp] theorem State.die_setDie (s : State) (d : Nat) (x : Die) : (s.setDie d x).die d = x := by
  simp [State.die, State.setDie]

theorem State.die_setDie_ne (s : State) {d d' : Nat} (x : Die) (h : d' ≠ d) : (s.setDie d x).die d' = s.die d' := by
  simp [State.die, State.setDie, FMap.getD_ins, h]

@[simp] theorem State.part_setPart (s : State) (p : Nat) (x : Partition) : (s.setPart p x).part p = x := by
  simp [State.part, State.setPart]

theorem State.part_setPart_ne (s : State) {p p' : Nat} (x : Partition) (h : p' ≠ p) : (s.setPart p x).part p' = s.part p' := by
  simp [State.part, State.setPart, FMap.getD_ins, h]

@[simp] theorem State.queue_setQueue (s : State) (p q : Nat) (x : Queue) : (s.setQueue p q x).queue p q = x := by
  simp [State.queue, State.setQueue]

@[simp] theorem State.warp_setCore (s : State) (c a k : Nat) (x : Core) : (s.setCore c x).warp a k = s.warp a k := rfl
@[simp] theorem State.core_setWarp (s : State) (c a k : Nat) (w : Warp) : (s.setWarp a k w).core c = s.core c := rfl
@[simp] theorem State.core_setCw (s : State) (c : Nat) (w : Warp) : (s.setCw w).core c = s.core c := rfl
@[simp] theorem State.part_setCw (s : State) (p : Nat) (w : Warp) : (s.setCw w).part p = s.part p := rfl
@[simp] theorem State.cw_setCore (s : State) (c : Nat) (x : Core) : (s.setCore c x).cw = s.cw := rfl

/-! ## Registers (R256) -/

/-- s0 reads zero. -/
@[simp] theorem Regs.rdS_zero (r : Regs) : r.rdS 0 = 0 := rfl
/-- Every lane of p0 reads true. -/
@[simp] theorem Regs.rdP_zero (r : Regs) : r.rdP 0 = BitVec.allOnes 64 := rfl

/-- A write to a scalar register is read back, but for s0, where it is discarded. -/
theorem Regs.rdS_wrS (r : Regs) (k j : Nat) (x : W64) :
    (r.wrS k x).rdS j = if j = k ∧ k ≠ 0 then x else r.rdS j := by
  unfold Regs.wrS Regs.rdS
  by_cases hj : j = 0
  · subst hj
    simp
    intro h
    omega
  · by_cases hk : k = 0
    · subst hk
      simp [hj]
    · simp only [hj, hk, if_false, FMap.getD_put]
      split <;> simp_all

theorem Regs.rdV_wrV (r : Regs) (k l j i : Nat) (x : W32) :
    (r.wrV k l x).rdV j i = if 64 * j + i = 64 * k + l then x else r.rdV j i := by
  simp only [Regs.rdV, Regs.wrV, FMap.getD_put]

end Sys2Proof.Machine
end

