-- ==== Sys2Proof/Laws/Ops.lean ====
section
/-! SUPPORT. The shared operations, one lemma each that says all it can do. -/

namespace Sys2Proof.Machine

/-! ## Events -/

/-- An event happens when its occasion is at hand, and is refused otherwise. -/
theorem eventIf_next {c : Bool} {name : String} {s t : State} : eventIf c name s = .next t ↔ c = true ∧ s = t := by
  unfold eventIf
  cases c <;> simp

theorem eventIf_pos {c : Bool} (name : String) (s : State) (h : c = true) : eventIf c name s = .next s := by simp [eventIf, h]

theorem eventIf_neg {c : Bool} (name : String) (s : State) (h : c = false) :
    eventIf c name s = .refused (.notEnabled name) := by simp [eventIf, h]

/-! ## Jobs -/

/-- A pulse changes the table of jobs alone. -/
theorem pulse_eq (s : State) (j : Nat) : s.pulse j = { s with jobs := (s.pulse j).jobs } := by
  unfold State.pulse
  split <;> rfl

/-- The begin of a pre-emption changes the table of jobs alone. -/
theorem stopJob_eq (s : State) (j : Nat) (x : CtxStop) : s.stopJob j x = { s with jobs := (s.stopJob j x).jobs } := by
  unfold State.stopJob
  split <;> rfl

theorem pulse_look (s : State) (j i : Nat) :
    (s.pulse j).jobs.look i = if i = j then (s.jobs.look j).map fun jb => { jb with pulse := s.tick } else s.jobs.look i := by
  unfold State.pulse
  split
  · rename_i jb h
    by_cases hi : i = j <;> simp [FMap.look_ins, hi, h]
  · rename_i h
    by_cases hi : i = j <;> simp [hi, h]

/-! ## Retiring (R36, R218, R229, R240) -/

/-- A retirement writes the current warp's slot and its job's watchdog pulse. -/
theorem retire_eq (s : State) (w : Warp) :
    s.retire w = { s with slots := s.slots.ins (slotKey s.cur.1 s.cur.2) w.issued, jobs := (s.retire w).jobs } := by
  unfold State.retire
  rw [pulse_eq]
  rfl

@[simp] theorem retire_cw (s : State) (w : Warp) : (s.retire w).cw = w.issued := by
  rw [retire_eq]
  simp [State.cw, State.warp]

@[simp] theorem retire_mem (s : State) (w : Warp) : (s.retire w).mem = s.mem := by rw [retire_eq]
@[simp] theorem retire_tags (s : State) (w : Warp) : (s.retire w).tags = s.tags := by rw [retire_eq]
@[simp] theorem retire_lineFull (s : State) (w : Warp) : (s.retire w).lineFull = s.lineFull := by rw [retire_eq]
@[simp] theorem retire_poison (s : State) (w : Warp) : (s.retire w).poison = s.poison := by rw [retire_eq]
@[simp] theorem retire_cores (s : State) (w : Warp) : (s.retire w).cores = s.cores := by rw [retire_eq]
@[simp] theorem retire_parts (s : State) (w : Warp) : (s.retire w).parts = s.parts := by rw [retire_eq]
@[simp] theorem retire_dies (s : State) (w : Warp) : (s.retire w).dies = s.dies := by rw [retire_eq]
@[simp] theorem retire_queues (s : State) (w : Warp) : (s.retire w).queues = s.queues := by rw [retire_eq]
@[simp] theorem retire_cur (s : State) (w : Warp) : (s.retire w).cur = s.cur := by rw [retire_eq]
@[simp] theorem retire_tick (s : State) (w : Warp) : (s.retire w).tick = s.tick := by rw [retire_eq]
@[simp] theorem retire_turns (s : State) (w : Warp) : (s.retire w).turns = s.turns := by rw [retire_eq]

theorem retire_look_ne (s : State) (w : Warp) {key : Nat} (h : key ≠ slotKey s.cur.1 s.cur.2) :
    (s.retire w).slots.look key = s.slots.look key := by
  rw [retire_eq]
  exact FMap.look_ins_ne _ _ h

theorem retire_memoryOk {s : State} (w : Warp) (h : s.memoryOk = true) : (s.retire w).memoryOk = true := by
  rw [memoryOk_congr (retire_mem s w) (retire_tags s w) (retire_lineFull s w) (retire_poison s w)]
  exact h

/-! ## Traps (R203 to R217) -/

/-- TAKING AN EXCEPTION writes the warp's slot, the core's pending origins and, for a handler warp, its job's stop; nothing
else. -/
theorem takeTrap_eq (s : State) (c k : Nat) (t : TrapInfo) (u : Bool) (active : W64) (word : W32) (pc cont : W64)
    (e : Option LogEntry) : let s' := s.takeTrap c k t u active word pc cont e
    s' = { s with slots := s'.slots, cores := s'.cores, jobs := s'.jobs } := by
  unfold State.takeTrap
  dsimp only
  split
  · rw [stopJob_eq]
  · rfl

/-- A warp that is no handler warp is HELD as `Warp.trapped` says. -/
theorem takeTrap_warp (s : State) (c k : Nat) (t : TrapInfo) (u : Bool) (active : W64) (word : W32) (pc cont : W64)
    (e : Option LogEntry) (h : (s.warp c k).id.handler = false) :
    (s.takeTrap c k t u active word pc cont e).warp c k = (s.warp c k).trapped t u active word pc cont e s.tick := by
  unfold State.takeTrap
  simp [h]

/-- A trap of an instruction that issues waits while an earlier one is incomplete or a result is owed (R204, R217). -/
theorem trapNow_waits {s : State} (t : TrapInfo) (u : Bool) (cont : W64) (h : (s.cw.log.isEmpty && s.cw.fdsq.isEmpty) = false) :
    s.trapNow t u cont = s := by
  unfold State.trapNow
  simp [h]

theorem trapNow_eq (s : State) (t : TrapInfo) (u : Bool) (cont : W64) : let s' := s.trapNow t u cont
    s' = { s with slots := s'.slots, cores := s'.cores, jobs := s'.jobs } := by
  unfold State.trapNow
  dsimp only
  split
  · exact takeTrap_eq ..
  · rfl

/-- A stop for a poisoned word changes the job's stop and the count of free values alone. -/
theorem poisonJob_eq (s : State) (j place : Nat) : let s' := s.poisonJob j place
    s' = { s with jobs := s'.jobs, freeIdx := s'.freeIdx } := by
  unfold State.poisonJob State.physical
  dsimp only
  split <;> rw [stopJob_eq] <;> rfl

/-- A stop of the current instruction changes warps, cores' pending origins, jobs' stops and the count of free values alone. -/
theorem stopNow_eq (s : State) (u : Bool) (e : Stop) : let s' := s.stopNow u e
    s' = { s with slots := s'.slots, cores := s'.cores, jobs := s'.jobs, freeIdx := s'.freeIdx } := by
  cases e with
  | trap t => exact (trapNow_eq s t u _).trans (by dsimp only [State.stopNow]; rw [trapNow_eq])
  | sleep x => rfl
  | poison p => exact (poisonJob_eq s s.cw.id.job p).trans (by dsimp only [State.stopNow, State.poisonNow]; rw [poisonJob_eq])
  | fault ps => rfl
  | defer => rfl
  | stall => rfl

theorem stopNow_memoryOk {s : State} (u : Bool) (e : Stop) (h : s.memoryOk = true) : (s.stopNow u e).memoryOk = true := by
  rw [stopNow_eq]
  exact h

/-! ## Committing -/

/-- An instruction that changes only its warp completes, or stops for a named reason. -/
theorem commitW_next {s t : State} {u : Bool} {r : Res Warp} (h : commitW s u r = .next t) :
    (∃ w, r = .ok w ∧ t = s.retire w) ∨ ∃ e, r = .error e ∧ t = s.stopNow u e := by
  cases r with
  | ok w => exact .inl ⟨w, rfl, by simpa [commitW] using h.symm⟩
  | error e => exact .inr ⟨e, rfl, by simpa [commitW] using h.symm⟩

theorem commitS_next {s t : State} {u : Bool} {r : Res State} (h : commitS s u r = .next t) :
    (∃ x, r = .ok x ∧ t = x.retire x.cw) ∨ ∃ e, r = .error e ∧ t = s.stopNow u e := by
  cases r with
  | ok x => exact .inl ⟨x, rfl, by simpa [commitS] using h.symm⟩
  | error e => exact .inr ⟨e, rfl, by simpa [commitS] using h.symm⟩

@[simp] theorem commitW_ok (s : State) (u : Bool) (w : Warp) : commitW s u (.ok w) = .next (s.retire w) := rfl
@[simp] theorem commitW_error (s : State) (u : Bool) (e : Stop) : commitW s u (.error e) = .next (s.stopNow u e) := rfl
@[simp] theorem commitS_ok (s t : State) (u : Bool) : commitS s u (.ok t) = .next (t.retire t.cw) := rfl
@[simp] theorem commitS_error (s : State) (u : Bool) (e : Stop) : commitS s u (.error e) = .next (s.stopNow u e) := rfl

/-- A commit of one warp changes warps, cores, jobs and the count of free values alone. -/
theorem commitW_frame {s t : State} {u : Bool} {r : Res Warp} (h : commitW s u r = .next t) :
    t = { s with slots := t.slots, cores := t.cores, jobs := t.jobs, freeIdx := t.freeIdx } := by
  rcases commitW_next h with ⟨w, -, rfl⟩ | ⟨e, -, rfl⟩
  · rw [retire_eq]
  · exact stopNow_eq ..

theorem commitW_memoryOk {s t : State} {u : Bool} {r : Res Warp} (hs : s.memoryOk = true) (h : commitW s u r = .next t) :
    t.memoryOk = true := by
  rw [commitW_frame h]
  exact hs

theorem commitS_memoryOk {s t : State} {u : Bool} {r : Res State} (hs : s.memoryOk = true)
    (hr : ∀ x, r = .ok x → x.memoryOk = true) (h : commitS s u r = .next t) : t.memoryOk = true := by
  rcases commitS_next h with ⟨x, hx, rfl⟩ | ⟨e, -, rfl⟩
  · exact retire_memoryOk _ (hr x hx)
  · exact stopNow_memoryOk u e hs

/-! ## Long-latency instructions (R136, R137, R219) -/

/-- An entry into the operand log changes the warp and the fault filters alone. -/
theorem enterLog_eq (s : State) (op : LongOp) (la : Nat) (ps : List PageReq) : let t := s.enterLog op la ps
    t = { s with faults := t.faults, slots := t.slots } := rfl

theorem enterLog_memoryOk {s : State} (op : LongOp) (la : Nat) (ps : List PageReq) (h : s.memoryOk = true) :
    (s.enterLog op la ps).memoryOk = true := h

/-- A wait in the log changes the slot alone. -/
theorem waitLogged_memoryOk {s t : State} (op : LongOp) (h : t.memoryOk = true) : (s.waitLogged t op).memoryOk = true := h

theorem takeLate_eq (s : State) : s.takeLate.2 = { s with late := s.takeLate.2.late } := by
  unfold State.takeLate
  split <;> rfl

/-- Whether an instruction is performed late changes the list of such choices alone. -/
theorem lateChoice_eq (s : State) (b : Bool) :
    (if b then s.takeLate else (false, s)).2 = { s with late := (if b then s.takeLate else (false, s)).2.late } := by
  cases b
  · rfl
  · exact takeLate_eq s

/-- How a long-latency instruction issues: it stops at a check; it waits for earlier ones or for room; it is performed now and
retires; it has begun, and waits asleep; it enters the operand log, late, or at a page or a line that it meets; or it stops while
it is performed. -/
theorem issueLong_next {order uniform : Bool} {op : LongOp} {la : Nat} {checks : Warp → Res Unit}
    {run : Ctx → State → Res State} {s t : State} (h : issueLong order uniform op la checks run s = .next t) :
    (∃ e, checks s.cw = .error e ∧ t = s.stopNow uniform e) ∨ t = s ∨
    (∃ x l, run s.ctx s = .ok x ∧ t = ({ x with late := l } : State).retire ({ x with late := l } : State).cw.advance) ∨
    (∃ x, run s.ctx s = .ok x ∧ x.cw.st = .asleep ∧ t = s.waitLogged x op) ∨
    (∃ x l, run s.ctx s = .ok x ∧ t = ({ s with late := l } : State).enterLog op la []) ∨
    (∃ ps, t = s.enterLog op la ps) ∨
    ∃ e, run s.ctx s = .error e ∧ t = s.stopNow uniform e := by
  unfold issueLong at h
  split at h
  · exact .inl ⟨_, ‹_›, by simpa using h.symm⟩
  · split at h
    · exact .inr (.inl (by simpa using h.symm))
    · split at h
      · rename_i x hx
        split at h
        · exact .inr (.inr (.inr (.inl ⟨x, hx, ‹_›, (Host.Outcome.next.inj h).symm⟩)))
        · generalize (op.mayLag && la != 0) = b at h
          have hl := lateChoice_eq s b
          generalize (if b then s.takeLate else (false, s)) = q at h hl
          obtain ⟨late, s1⟩ := q
          dsimp only at h hl
          rw [hl] at h
          split at h
          · exact .inr (.inr (.inr (.inr (.inl ⟨x, _, hx, (Host.Outcome.next.inj h).symm⟩))))
          · exact .inr (.inr (.inl ⟨x, _, hx, (Host.Outcome.next.inj h).symm⟩))
      · exact .inr (.inr (.inr (.inr (.inr (.inl ⟨_, by simpa using h.symm⟩)))))
      · exact .inr (.inr (.inr (.inr (.inr (.inl ⟨_, by simpa using h.symm⟩)))))
      · exact .inr (.inr (.inr (.inr (.inr (.inr ⟨_, ‹_›, by simpa using h.symm⟩)))))

/-- It keeps the memory's form when what performs it does. -/
theorem issueLong_memoryOk {order uniform : Bool} {op : LongOp} {la : Nat} {checks : Warp → Res Unit}
    {run : Ctx → State → Res State} {s t : State} (hs : s.memoryOk = true)
    (hr : ∀ x, run s.ctx s = .ok x → x.memoryOk = true) (h : issueLong order uniform op la checks run s = .next t) :
    t.memoryOk = true := by
  rcases issueLong_next h with ⟨e, -, rfl⟩ | rfl | ⟨x, l, hx, rfl⟩ | ⟨x, hx, -, rfl⟩ | ⟨x, l, -, rfl⟩ | ⟨ps, rfl⟩ | ⟨e, -, rfl⟩
  · exact stopNow_memoryOk _ _ hs
  · exact hs
  · exact retire_memoryOk _ (hr x hx)
  · exact waitLogged_memoryOk _ (hr x hx)
  · exact hs
  · exact enterLog_memoryOk _ _ _ hs
  · exact stopNow_memoryOk _ _ hs

end Sys2Proof.Machine
end

