-- ==== Sys2Proof/Laws/Step.lean ====
section
/-! SUPPORT. What a step is, by the agenda's next turn, and what can come of one issue. -/

namespace Sys2Proof.Machine

theorem step_on {s : State} (h : s.hm.power = .on) : step s = s.stepOn := by simp [step, h]

theorem step_turn {s : State} {t : Turn} {ts : List Turn} (h : s.hm.power = .on) (ht : s.turns = t :: ts) :
    step s = ({ s with turns := ts } : State).takeTurn t := by
  rw [step_on h]
  simp [State.stepOn, ht]

theorem step_free {s : State} (h : s.hm.power = .on) (ht : s.turns = []) : step s = s.takeFree := by
  rw [step_on h]
  simp [State.stepOn, ht]

/-- An event's step is exec of it and the step's end. -/
theorem takeTurn_event {s t : State} {i : Instr} (hi : Instr.isEvent i = true) (h : exec i s = .next t) (hs : t.short = false) :
    s.takeTurn (.event i) = .next t.finishStep := by
  simp [State.takeTurn, hi, State.takeEvent, h, hs, finish]

/-- A warp that is not ready does not issue. -/
theorem issueSlot_none {s : State} {c k : Nat} (h : s.warpReady c k = false) : s.issueSlot c k = none := by
  simp [State.issueSlot, h]

/-- An issue that happens is one of `issueCur`, by a ready warp, with its bucket filled. -/
theorem issueSlot_some {s : State} {c k : Nat} {t : State} (h : s.issueSlot c k = some (.next t)) :
    s.warpReady c k = true ∧ ({ s with cur := (c, k) } : State).issueCur = some (.next t) ∧ t.short = false := by
  unfold State.issueSlot at h
  split at h
  · rename_i hr
    split at h
    · rename_i u hu
      split at h
      · cases h
      · rename_i hshort
        cases h
        exact ⟨hr, hu, by simpa using hshort⟩
    · rename_i x hx
      exact absurd h (hx t)
  · cases h

/-- What a step that issues a warp comes to: a warp that its core has not chosen, or that is not ready, does nothing; one whose
MMA is granted no entry waits once more. -/
theorem takeTurn_issue {s t : State} {c : CoreId} {k : SlotNo} (h : s.takeTurn (.issue c k) = .next t) :
    (s.chosen c.val k.val = true ∧ s.granted c.val k.val = true ∧
      ∃ u, s.issueSlot c.val k.val = some (.next u) ∧ t = (s.othersWait u c.val k.val).finishStep) ∨
    (s.granted c.val k.val = false ∧ t = (s.notGranted c.val k.val).finishStep) ∨
    t = s.finishStep := by
  unfold State.takeTurn at h
  dsimp only at h
  split at h
  · split at h
    · split at h
      · exact .inl ⟨‹_›, ‹_›, _, ‹_›, by simpa [finish] using h.symm⟩
      · rename_i x hx hy
        subst h
        exact absurd rfl (hx t)
      · exact .inr (.inr (by simpa [finish] using h.symm))
    · exact .inr (.inl ⟨by simp_all, by simpa [finish] using h.symm⟩)
  · exact .inr (.inr (by simpa [finish] using h.symm))

/-- The wait counts of the other warps and the note of the cycle's second issue change their slots and that note alone. -/
theorem othersWait_eq (s t : State) (c k : Nat) :
    s.othersWait t c k = { t with slots := (s.othersWait t c k).slots, cycle := (s.othersWait t c k).cycle } := by
  unfold State.othersWait
  split
  · rfl
  · split <;> rfl

theorem othersWait_memoryOk {s t : State} (c k : Nat) (h : t.memoryOk = true) : (s.othersWait t c k).memoryOk = true := by
  rw [othersWait_eq]
  exact h

/-- A warp that lacks an entry of its unit counts up once; nothing else changes. -/
theorem notGranted_eq (s : State) (c k : Nat) : s.notGranted c k = { s with slots := (s.notGranted c k).slots } := by
  unfold State.notGranted
  split <;> rfl

theorem lackingWait_eq (s t : State) (c : Nat) : s.lackingWait t c = { t with slots := (s.lackingWait t c).slots } := rfl

/-- Reconvergence and the note of the fetched word keep the memory's form. -/
theorem withWord_memoryOk {s : State} (word : Nat) (h : s.memoryOk = true) : (s.withWord word).memoryOk = true := h

/-- Where no register element of the warp is bad, an instruction runs as its meaning says. -/
theorem execWith_sound {s : State} (i : Instr) (h : s.cw.bad = []) : s.execWith i = exec i s := by
  simp [State.execWith, h]

/-- Taking tokens changes the buckets and the note of a shortage, and nothing else. -/
theorem takeTokens_frame (s : State) (d p n : Nat) :
    ∃ b x, s.takeTokens d p n = { s with buckets := b, short := x } := by
  unfold State.takeTokens
  dsimp only
  split
  · exact ⟨_, s.short, rfl⟩
  · exact ⟨s.buckets, _, rfl⟩

/-- The front end's charge changes the buckets and the note of a shortage, and nothing else. -/
theorem chargeFe_frame (s : State) (p : Nat) (segs : Segs) :
    ∃ b x, s.chargeFe p segs = { s with buckets := b, short := x } := by
  unfold State.chargeFe
  generalize List.range 4 = ds
  induction ds generalizing s with
  | nil => exact ⟨s.buckets, s.short, rfl⟩
  | cons d ds ih =>
    rw [List.foldl_cons]
    split
    · exact ih s
    · obtain ⟨b, x, h⟩ := takeTokens_frame s d p ((segs.filter fun q => homeDie q.1 == d).map (·.2)).sum
      obtain ⟨b', x', h'⟩ := ih { s with buckets := b, short := x }
      exact ⟨b', x', by rw [h]; exact h'⟩

end Sys2Proof.Machine
end

