-- ==== Sys2Proof/Tests/Machine.lean ====
section
/-! SUPPORT. A small machine that the tests start from: one job of partition 0 with one warp on core 0. -/

namespace Sys2Proof.Tests

open Sys2Proof Sys2Proof.Machine Sys2Proof.Slice0

/-- WMODE of a format (R237): element type, source type, rounding mode, flags from bit 19 on. -/
def modeOf (et st rm flags : Nat) : W64 := BitVec.ofNat 64 (256 * et + 4096 * st + 2 ^ 16 * rm + 2 ^ 19 * flags)

/-- A buffer record (R101). -/
def recOf (space base extent stride flags : Nat) : BitVec 256 :=
  BitVec.ofNat 256 (base + 2 ^ 64 * extent + 2 ^ 128 * stride + 2 ^ 160 * space + 2 ^ 164 * 2 + 2 ^ 176 * flags)

/-- A warp of 16 lanes, all active, that runs from 0x10000. -/
def warp0 : Warp :=
  { st := .active
    id := { width := 16, role := 1, allot := 3 }
    ctl := { pc := 0x10000, wmode := modeOf 0 0 0 0, exec := 0xFFFF, live := 0xFFFF, path := 0xFFFF } }

/-- Pages 0x10 to 0x13 and 0x20 to 0x23 are mapped to themselves, readable, writable, executable and tagged. -/
def tlb0 : FMap W64 := [(0x10, 0x1003F), (0x11, 0x1103F), (0x12, 0x1203F), (0x13, 0x1303F),
  (0x20, 0x2003F), (0x21, 0x2103F), (0x22, 0x2203F), (0x23, 0x2303F)]

/-- Core 0, in that job, with these translations in its L1 TLB. -/
def core0 : Core := { occ := some 0, places := 1, tlb := tlb0 }

def part0 : Partition := { en := true, clus := 1, dsp := 1 }

def job0 : Job :=
  { num := 1, onDies := [0], cores := [0]
    r := { code := 0x10000, width := 16, lslice := 64, stage := 8192, spill := 64, spillBase := 0x22000
           roles := [{ }, { warps := 1, allot := 3 }, { }, { }] } }

/-- The machine with that warp in slot 0 of core 0. -/
def state0 : State :=
  { State.reset with
    slots := [(0, warp0)], cores := [(0, core0)], parts := [(0, part0)], jobs := [(0, job0)]
    nextJob := 1, buckets := [(0, 32000)], refills := [(0, 1)], feReady := true, pcie := true, hd := { up := 3 } }

/-- It with its warp changed. -/
def withWarp (f : Warp → Warp) : State := state0.setWarp 0 0 (f warp0)

/-- Its warp with these scalars, vector lanes and buffer records, in a mode. -/
def withRegs (m : W64) (ss : FMap W64) (vs : FMap W32) (bs : FMap (BitVec 256)) : State :=
  withWarp fun w => { w with regs := { s := ss, v := vs, b := bs }, ctl := { w.ctl with wmode := m } }

/-- A test on the next state that an instruction gives. -/
def gives (i : Instr) (s : State) (f : State → Bool) : Bool :=
  match exec i s with
  | .next t => f t
  | _ => false

/-- A result that is a value. -/
def okRes {α : Type} (r : Res α) : Bool :=
  match r with
  | .ok _ => true
  | .error _ => false

/-- The value of a result, or d. -/
def valueOf {α : Type} (d : α) (r : Res α) : α :=
  match r with
  | .ok a => a
  | .error _ => d

theorem ok_valueOf {α : Type} {d : α} {r : Res α} (h : okRes r = true) : r = .ok (valueOf d r) := by
  cases r with
  | ok a => rfl
  | error e => cases h

theorem ok_unit {r : Res Unit} (h : okRes r = true) : r = .ok () := by
  cases r with
  | ok a => rfl
  | error e => cases h

/-- A register whose lane l holds f l. -/
def laneVals (k : Nat) (f : Nat → Nat) : FMap W32 :=
  ((List.range 16).map fun l => (64 * k + l, BitVec.ofNat 32 (f l))).filter fun p => p.2 != 0

/-- What the checks of the lanes' addresses, and the places of their bytes, come to. -/
def asOf (s : State) (b x n : Nat) (wr : Bool) : List (Nat × Option Nat) := valueOf [] (s.addresses s.ctx b x n n wr)
def zsOf (s : State) (b x n : Nat) (kind : AccessKind) (wr : Bool) : List (Nat × Located) :=
  valueOf [] (s.locateAll s.ctx (s.cw.regs.rdB b) kind n (okLanes (asOf s b x n wr)))

/-- The lanes' bytes are placed, and clean. -/
def placedB (s : State) (b x n : Nat) (kind : AccessKind) (wr : Bool) : Bool :=
  okRes (s.addresses s.ctx b x n n wr) &&
  okRes (s.locateAll s.ctx (s.cw.regs.rdB b) kind n (okLanes (asOf s b x n wr))) &&
  (zsOf s b x n kind wr).all fun p => p.2.segs.all fun q => !s.owned.has (lineOf q.1)

theorem placed_of {s : State} {b : BReg} {x : VReg} {n : Nat} {kind : AccessKind} {wr : Bool}
    (h : placedB s b.val x.val n kind wr = true) :
    Placed s b x n kind wr (asOf s b.val x.val n wr) (zsOf s b.val x.val n kind wr) := by
  simp only [placedB, Bool.and_eq_true, List.all_eq_true, Bool.not_eq_true'] at h
  exact ⟨ok_valueOf h.1.1, ok_valueOf h.1.2, fun p hp q hq => h.2 p hp q hq⟩

theorem constFresh_of_none {s : State} (h : (s.core s.cur.1).l1.const = []) : ConstFresh s := by
  intro line old hl
  rw [h] at hl
  cases hl

theorem noReleases_of_none {s : State} (h : s.dies = []) : NoReleases s := by
  intro d line
  simp [State.die, h, FMap.getD, FMap.look]

theorem filter_le {s : State} {lines : List Nat} (h : (lines.foldl addNew (s.core s.cur.1).l1.lines).length ≤ l1Ways) (k : Nat) :
    ((lines.foldl addNew (s.core s.cur.1).l1.lines).filter fun l => l1SetOf l == k).length ≤ l1Ways :=
  Nat.le_trans (List.length_filter_le ..) h

/-- A partition with no ways of its own, where no other has any, may use all of them. -/
theorem l2Room_of_none {s : State} {p : Partition} (h : s.dies = []) (hp : s.parts = [(0, p)]) (hw : p.l2w = 0) (c : Nat) :
    L2Room s c 2048 := by
  intro d
  have hz : ∀ q, ((s.part q).ways d) = 0 := by
    intro q
    by_cases hq : q = 0
    · subst hq
      simp [State.part, hp, FMap.getD, FMap.look, Partition.ways, hw, bits]
    · simp [State.part, hp, FMap.getD, FMap.look, Partition.ways, bits, hq]
  have hw0 : p.ways d = 0 := by simp [Partition.ways, hw, bits]
  have h2 : s.l2Ways (s.corePart c) d = 65535 := by
    simp [State.l2Ways, hz, hp, hw0]
  rw [h2]
  simp [State.die, h, FMap.getD, FMap.look]
  decide

theorem calm_of_none {s : State} {p : Partition} {lines : List Nat} (h : s.dies = []) (hp : s.parts = [(0, p)]) (hw : p.l2w = 0)
    (hf : (s.core s.cur.1).far = []) (hl : s.lags = [])
    (hn : (lines.foldl addNew (s.core s.cur.1).l1.lines).length ≤ l1Ways) : Calm s lines :=
  ⟨noReleases_of_none h, hf, by simp [hl], filter_le hn, l2Room_of_none h hp hw _⟩

/-- The test of it that runs. -/
def calmB (s : State) (lines : List Nat) : Bool :=
  s.dies.isEmpty && (s.core s.cur.1).far.isEmpty && s.lags.isEmpty &&
  decide ((lines.foldl addNew (s.core s.cur.1).l1.lines).length ≤ l1Ways) &&
  (match s.parts with | [(0, p)] => p.l2w == 0 | _ => false)

theorem calm_of {s : State} {lines : List Nat} (h : calmB s lines = true) : Calm s lines := by
  unfold calmB at h
  split at h
  · rename_i p hp
    simp only [Bool.and_eq_true, List.isEmpty_iff, decide_eq_true_eq, beq_iff_eq] at h
    exact calm_of_none h.1.1.1.1 hp h.2 h.1.1.1.2 h.1.1.2 h.1.2
  · simp at h

end Sys2Proof.Tests
end

