-- ==== Sys2Proof/Tests/Slice0.lean ====
section
/-! SUPPORT. Tests: well-formedness, decoding, one step on fixed values. -/

namespace Sys2Proof.Tests

open Sys2Proof Sys2Proof.Machine Sys2Proof.Slice0

set_option maxRecDepth 100000
set_option Elab.async false

/-! ## Well-formed instructions: one ill-formed term for each check -/

/-- R233, R236: an odd register where a pair is named. -/
theorem test_wf_pair : ([.exrd 1, .exwr 63, .trec 1 0 2, .trec 2 0 3, .tai 5, .ld64 1 0 0 0, .st64 3 0 0 0, .ldfe 1 0 0,
    .ldff 1 0 0, .stfe 1 0 0, .stff 127 0 0, .acas 1 0 0 0, .barmBytes 1, .barmInit 3, .join 1 0 0, .center 0 0 1,
    .shcopy 1 0 0 0, .shgath 1 0 0 0, .shscat 1 0 0 0, .shmcast 1 0 0 0, .shqry 1 0 0, .shput 1 0 0 0, .shget 1 0 0 0,
    .mma 0 0 1 false 0, .nmv 1 0 0 0] : List Instr).all (fun i => !i.wf) = true := by decide +kernel

/-- R233, R236: a register that is no multiple of 4 where four are named. -/
theorem test_wf_quad : ([.ld128 2 0 0 0, .st128 1 0 0 0, .mkb 0 2 0 0, .brd 2 0 0, .ffill 0 0 2 0] : List Instr).all
    (fun i => !i.wf) = true := by decide +kernel

/-- R156, R236, R247: barrier levels 0, 4 and above, a cluster number above 15, and a grid level where the entry has none. -/
theorem test_wf_selector : ([.bar 0 0, .bara 4 0, .barw 2 16, .barx 0 3 1, .barinit 0 3 1, .bar 7 127] : List Instr).all
    (fun i => !i.wf) = true ∧ ([.bar 1 127, .bara 2 15, .barw 3 15, .barx 0 2 15] : List Instr).all Instr.wf = true := by
  decide +kernel

/-- R236, R249: control-register numbers that are unassigned or that CWR may not write. -/
theorem test_wf_control : ([.crd 0 0x00D, .crd 0 0x013, .crd 0 0x045, .cwr 0 0x002, .cwr 0 0x044, .cwr 0 0x7FF] : List Instr).all
    (fun i => !i.wf) = true := by decide +kernel

/-- R236: values held in the word that their instructions refuse. -/
theorem test_wf_values : ([.vunpk 0 0 4, .pool 0, .pool (-4), .fence 3 0, .fence 0 6, .cbr 0, .cbr (-1), .cbr 1024,
    .i3cImageBlock 0 [], .i3cMeasure [1]] : List Instr).all (fun i => !i.wf) = true := by decide +kernel

/-! ## Decoding -/

/-- R232, R235, R236, R246, R247: a word with an unassigned opcode or fn is refused as such, one with a reserved bit or a scalar
register above 63 as reserved, and a selector outside its entry's range as out of range. -/
theorem test_decode_refuses :
    decodeWord 0x00000000 = .bad .unassigned ∧ decodeWord 0xFFFFFFFF = .bad .unassigned ∧
    decodeWord 0x0200000E = .ok (.smov 0 0) ∧ decodeWord 0x0600000A = .bad .unassigned ∧
    decodeWord 0x02000400 = .bad .reserved ∧ decodeWord 0x03000000 = .bad .reserved ∧
    decodeWord 0x02020000 = .bad .reserved := by decide +kernel

/-- R248: a literal load's displacement is signed. -/
theorem test_decode_negative_displacement :
    decodeTableWord 32 0x100FFFFF = some (.ldl 3 (-1)) ∧ decodeTableWord 32 0x41FFFFFF = some (.bra (-1)) := by decide +kernel

/-- Words of opcodes 0x01 to 0x02, from R245 to R248. -/
theorem test_decode_01_02 : ([
    (0x021491F0, .sadd 5 18 31), (0x0230CA61, .ssub 12 25 38), (0x024D02D2, .smul 19 32 45),
    (0x02693B43, .smulh 26 39 52), (0x028573B4, .sand 33 46 59), (0x02A1A825, .sor 40 53 2),
    (0x02BDE096, .sxor 47 60 9), (0x02D81907, .sshl 54 3 16), (0x02F45178, .sshr 61 10 23),
    (0x021089E9, .ssra 4 17 30), (0x022CC25A, .smin 11 24 37), (0x0248FACB, .smax 18 31 44),
    (0x0265333C, .sminu 25 38 51), (0x02816BAD, .smaxu 32 45 58), (0x029DA00E, .smov 39 52),
    (0x02B9D80F, .snot 46 59), (0x04D41000, .sclz 53 2), (0x04F04801, .spopc 60 9), (0x040C81D2, .sdiv 3 16 29),
    (0x0428BA43, .srem 10 23 36), (0x0444F2B4, .sdivu 17 30 43), (0x04612B25, .sremu 24 37 50),
    (0x047D6396, .ssel 31 44 57)] : List (Nat × Instr)).all
    (fun p => decide (decodeWord p.1 = .ok p.2) && p.2.wf && decide (encode p.2 = some p.1)) = true := by decide +kernel

/-- Words of opcodes 0x03 to 0x0A, from R245 to R248. -/
theorem test_decode_03_0a : ([
    (0x06199800, .scmpEq 6 51 0), (0x0615D071, .scmpNe 5 58 7), (0x061008E2, .scmpLt 4 1 14),
    (0x060C4153, .scmpLe 3 8 21), (0x060879C4, .scmpGt 2 15 28), (0x0604B235, .scmpGe 1 22 35),
    (0x0600EAA6, .scmpLtu 0 29 42), (0x061D2317, .scmpLeu 7 36 49), (0x06195B88, .scmpGtu 6 43 56),
    (0x061593F9, .scmpGeu 5 50 63), (0x08B1C800, .mode 44 57), (0x08CC00D1, .modex 51 0 13), (0x08E80002, .exrd 58),
    (0x08000003, .exwr 0), (0x08002824, .pand 0 5 2), (0x081C2015, .por 7 4 1), (0x08181806, .pxor 6 3 0),
    (0x08141007, .pnot 5 2), (0x08100808, .pmov 4 1), (0x08AC0009, .ptos 43 0), (0x0809F80A, .stop 2 63),
    (0x10E4015B, .ldl 57 347), (0x120202D5, .ldlq 0 0x202d5), (0x151C015B, .ldlv 71 347)] : List (Nat × Instr)).all
    (fun p => decide (decodeWord p.1 = .ok p.2) && p.2.wf && decide (encode p.2 = some p.1)) = true := by decide +kernel

/-- Words of opcodes 0x0C to 0x11, from R245 to R248. -/
theorem test_decode_0c_11 : ([
    (0x19380044, .crd 78 68), (0x1A00A812, .cwr 21 18), (0x21734F60, .vadd 92 105 118),
    (0x218F87D1, .vsub 99 112 125), (0x21ABB842, .vmul 106 119 4), (0x21C7F0B3, .vmulh 113 126 11),
    (0x21E02924, .vand 120 5 18), (0x21FC6195, .vor 127 12 25), (0x20189A06, .vxor 6 19 32),
    (0x2034D277, .vshl 13 26 39), (0x20510AE8, .vshr 20 33 46), (0x206D4359, .vsra 27 40 53),
    (0x20897BCA, .vmin 34 47 60), (0x20A5B43B, .vmax 41 54 67), (0x20C1E80C, .vabs 48 61), (0x20DE200D, .vneg 55 68),
    (0x20FA580E, .vnot 62 75), (0x2116900F, .vmov 69 82), (0x2332CE60, .vmad 76 89 102),
    (0x234F06D1, .vmsb 83 96 109)] : List (Nat × Instr)).all
    (fun p => decide (decodeWord p.1 = .ok p.2) && p.2.wf && decide (encode p.2 = some p.1)) = true := by decide +kernel

/-- Words of opcodes 0x12 to 0x13, from R245 to R248. -/
theorem test_decode_12_13 : ([
    (0x256B3800, .vclz 90 103), (0x25877001, .vpopc 97 110), (0x25A3A802, .vbrev 104 117),
    (0x25BFE093, .vbfx 111 124 9), (0x25D81904, .vbfi 118 3 16), (0x25F45175, .vsel 125 10 23),
    (0x261089E0, .vcmpEq 4 17 30), (0x260CC251, .vcmpNe 3 24 37), (0x2608FAC2, .vcmpLt 2 31 44),
    (0x26053333, .vcmpLe 1 38 51), (0x26016BA4, .vcmpGt 0 45 58), (0x261DA415, .vcmpGe 7 52 65),
    (0x2619DC86, .vcmpLtu 6 59 72), (0x261614F7, .vcmpLeu 5 66 79), (0x26124D68, .vcmpGtu 4 73 86),
    (0x260E85D9, .vcmpGeu 3 80 93), (0x260ABE4A, .vcmpUnord 2 87 100), (0x2606F6BB, .vcmpOrd 1 94 107)] : List (Nat × Instr)).all
    (fun p => decide (decodeWord p.1 = .ok p.2) && p.2.wf && decide (encode p.2 = some p.1)) = true := by decide +kernel

/-- Words of opcodes 0x14 to 0x16, from R245 to R248. -/
theorem test_decode_14_16 : ([
    (0x29632F20, .fadd 88 101 114), (0x297F6791, .fsub 95 108 121), (0x299B9802, .fmul 102 115 0),
    (0x29B7D073, .fmin 109 122 7), (0x29D008E4, .fmax 116 1 14), (0x29EC4005, .fabs 123 8), (0x28087806, .fneg 2 15),
    (0x2824B007, .fclass 9 22), (0x2840EAA8, .fscale 16 29 42), (0x285D2009, .frnd 23 36),
    (0x28795B8A, .fcsgn 30 43 56), (0x2A9593F0, .ffma 37 50 63), (0x2AB1CC61, .ffms 44 57 70),
    (0x2ACE04D2, .fnma 51 64 77), (0x2CEA3800, .fcvt 58 71), (0x2D0675B1, .fcvts 65 78 91),
    (0x2D22AE22, .vpack 72 85 98), (0x2D3EE033, .vunpk 79 92 3)] : List (Nat × Instr)).all
    (fun p => decide (decodeWord p.1 = .ok p.2) && p.2.wf && decide (encode p.2 = some p.1)) = true := by decide +kernel

/-- Words of opcodes 0x17 to 0x22, from R245 to R248. -/
theorem test_decode_17_22 : ([
    (0x2F5B1800, .frcpa 86 99), (0x2F775001, .frsqa 93 106), (0x2F938802, .fexp2 100 113),
    (0x2FAFC003, .flog2 107 120), (0x2FCBF804, .fsin 114 127), (0x2FE43005, .fcos 121 6), (0x2E006806, .ftanh 0 13),
    (0x301CA210, .fdiv 7 20 33), (0x3038D801, .fsqrt 14 27), (0x30551002, .frsq 21 34),
    (0x32714B60, .vshuf 28 41 54), (0x328D83D1, .vbcast 35 48 61), (0x32A9B802, .vredadd 42 55),
    (0x32C5F003, .vredmin 49 62), (0x32E22804, .vredmax 56 69), (0x32FE6005, .vscan 63 76),
    (0x321A9806, .vballot 6 83), (0x3336D277, .vcompact 77 90 39), (0x33510808, .vlane 84 33),
    (0x336D4009, .movsv 91 40), (0x328B7BCA, .movvs 34 111 60), (0x4000015B, .bra 347),
    (0x430002D5, .bdiv 0x10002d5), (0x4400015B, .rcv 347)] : List (Nat × Instr)).all
    (fun p => decide (decodeWord p.1 = .ok p.2) && p.2.wf && decide (encode p.2 = some p.1)) = true := by decide +kernel

/-- Words of opcodes 0x23 to 0x30, from R245 to R248. -/
theorem test_decode_23_30 : ([
    (0x470002D5, .bsr 0x10002d5), (0x48012345, .pool 0x12345), (0x4A30C800, .jmp 12 25), (0x4A009801, .rets 19),
    (0x4A00D002, .sels 26), (0x4A000003, .exit), (0x4A000004, .nop), (0x4A000AF5, .trap 175), (0x4A01B006, .tres 54),
    (0x4AF25567, .trec 60 74 86), (0x4C100000, .tick 4), (0x4C280001, .tai 10), (0x4C009002, .waitt 18),
    (0x61673180, .ldU8 89 102 3 0), (0x61836D17, .ldI8 96 109 10 7), (0x619FA0AE, .ldU16 103 116 1 14),
    (0x61BBDC35, .ldI16 110 123 8 5), (0x61D417CC, .ld32 117 2 15 12), (0x61F04B53, .ld64 124 9 6 3),
    (0x600086EA, .ld128 0 16 13 10)] : List (Nat × Instr)).all
    (fun p => decide (decodeWord p.1 = .ok p.2) && p.2.wf && decide (encode p.2 = some p.1)) = true := by decide +kernel

/-- Words of opcodes 0x31 to 0x34, from R245 to R248. -/
theorem test_decode_31_34 : ([
    (0x6228BA01, .st8 10 23 4 1), (0x6244F598, .st16 17 30 11 8), (0x6261292F, .st32 24 37 2 15),
    (0x627964B6, .st64 30 44 9 6), (0x6291984D, .st128 36 51 0 13), (0x64B5D384, .ldaTeam 45 58 7 4),
    (0x64D20F1B, .ldaCluster 52 65 14 11), (0x64EE42A2, .ldaDie 59 72 5 2), (0x650A7E39, .ldaPackage 66 79 12 9),
    (0x6526B1C0, .ldaGroup 73 86 3 0), (0x6542ED57, .ldaSystem 80 93 10 7), (0x675F208E, .stlTeam 87 100 1 14),
    (0x677B5C15, .stlCluster 94 107 8 5), (0x679797AC, .stlDie 101 114 15 12), (0x67B3CB33, .stlPackage 108 121 6 3),
    (0x67CC06CA, .stlGroup 115 0 13 10), (0x67E83A51, .stlSystem 122 7 4 1), (0x68007580, .ldfe 0 14 11),
    (0x6820A910, .ldff 8 21 2), (0x6838E4A0, .stfe 14 28 9), (0x68591830, .stff 22 35 0),
    (0x687553C4, .tagrd 29 42 7 4), (0x68918F5B, .tagwr 36 49 14 11)] : List (Nat × Instr)).all
    (fun p => decide (decodeWord p.1 = .ok p.2) && p.2.wf && decide (encode p.2 = some p.1)) = true := by decide +kernel

/-- Words of opcodes 0x35 to 0x3B, from R245 to R248. -/
theorem test_decode_35_3b : ([
    (0x6AADC280, .ldc 43 56 5), (0x6AC9FE10, .stp 50 63 12), (0x6AE631A0, .lnrd 57 70 3 0),
    (0x6B026D37, .lnwr 64 77 10 7), (0x6C023A01, .pref 71 4 1), (0x6C027598, .cwb 78 11 8),
    (0x6C02A92F, .cinv 85 2 15), (0x6C02E4B6, .iinv 92 9 6), (0x6E0D800D, .ldb 3 48 13),
    (0x6E29A211, .mkb 10 52 4 1), (0x6EC0072B, .brd 48 14 11), (0x71E0290F, .vqntSb3 120 5 2 15),
    (0x71FC6496, .vqntSb5 127 12 9 6), (0x7018982D, .vqntSb8 6 19 0 13), (0x7034D3B4, .vqntE4m3 13 26 7 4),
    (0x70510F4B, .vqntE5m2 20 33 14 11), (0x726D4282, .vdqSb3 27 40 5 2), (0x72897E19, .vdqSb5 34 47 12 9),
    (0x72A5B1A0, .vdqSb8 41 54 3 0), (0x72C1ED37, .vdqE4m3 48 61 10 7), (0x72DE20CE, .vdqE5m2 55 68 1 14),
    (0x74000025, .fence 2 5), (0x76000000, .fbar)] : List (Nat × Instr)).all
    (fun p => decide (decodeWord p.1 = .ok p.2) && p.2.wf && decide (encode p.2 = some p.1)) = true := by decide +kernel

/-- Words of opcodes 0x40 to 0x42, from R245 to R248. -/
theorem test_decode_40_42 : ([
    (0x8132CB03, .atomAdd 76 89 6 3), (0x814F069A, .atomMin 83 96 13 10), (0x816B3A21, .atomMax 90 103 4 1),
    (0x818775B8, .atomAnd 97 110 11 8), (0x81A3A94F, .atomOr 104 117 2 15), (0x81BFE4D6, .atomXor 111 124 9 6),
    (0x81D8186D, .atomXchg 118 3 0 13), (0x81F453F4, .atomFadd 125 10 7 4), (0x82108F0B, .atomaAdd 4 17 14 11),
    (0x822CC292, .atomaMin 11 24 5 2), (0x8248FE29, .atomaMax 18 31 12 9), (0x826531B0, .atomaAnd 25 38 3 0),
    (0x82816D47, .atomaOr 32 45 10 7), (0x829DA0DE, .atomaXor 39 52 1 14), (0x82B9DC65, .atomaXchg 46 59 8 5),
    (0x82D617FC, .atomaFadd 53 66 15 12), (0x84F24B03, .atomlAdd 60 73 6 3), (0x850E869A, .atomlMin 67 80 13 10),
    (0x852ABA21, .atomlMax 74 87 4 1), (0x8546F5B8, .atomlAnd 81 94 11 8), (0x8563294F, .atomlOr 88 101 2 15),
    (0x857F64D6, .atomlXor 95 108 9 6), (0x859B986D, .atomlXchg 102 115 0 13), (0x85B7D3F4, .atomlFadd 109 122 7 4)] : List (Nat × Instr)).all
    (fun p => decide (decodeWord p.1 = .ok p.2) && p.2.wf && decide (encode p.2 = some p.1)) = true := by decide +kernel

/-- Words of opcodes 0x43 to 0x50, from R245 to R248. -/
theorem test_decode_43_50 : ([
    (0x87D00F0B, .acas 116 1 14 11), (0x89EC4282, .aredAdd 123 8 5 2), (0x88087E19, .aredMin 2 15 12 9),
    (0x8824B1A0, .aredMax 9 22 3 0), (0x8840ED37, .aredAnd 16 29 10 7), (0x885D20CE, .aredOr 23 36 1 14),
    (0x88795C55, .aredXor 30 43 8 5), (0x889597EC, .aredXchg 37 50 15 12), (0x88B1CB73, .aredFadd 44 57 6 3),
    (0x90000200, .bar 2 0), (0x92000307, .bara 3 7), (0x9400014E, .barw 1 78), (0x96004202, .barx 8 2 2),
    (0x98007969, .barinit 15 1 105), (0x9A591800, .baralloc 22 35), (0x9C74016A, .barfree 29 106),
    (0x9E012400, .barmAw 36), (0x9E015C01, .barmArrive 43), (0x9E019402, .barmWait 50), (0x9E01C403, .barmBytes 56),
    (0x9E000404, .barmInit 0), (0xA0003800, .wsync 7)] : List (Nat × Instr)).all
    (fun p => decide (decodeWord p.1 = .ok p.2) && p.2.wf && decide (encode p.2 = some p.1)) = true := by decide +kernel

/-- Words of opcodes 0x51 to 0x67, from R245 to R248. -/
theorem test_decode_51_67 : ([
    (0xA2007588, .monTeam 14 11 8), (0xA200A91F, .monCluster 21 2 15), (0xA200E4A6, .monDie 28 9 6),
    (0xA201183D, .monPackage 35 0 13), (0xA20153C4, .monGroup 42 7 4), (0xA2018F5B, .monSystem 49 14 11),
    (0xA4E02800, .mwait 56 5), (0xB0FC6196, .spawn 63 12 25 6), (0xB2181A00, .join 6 3 32),
    (0xB4345274, .ftest 13 10 39 4), (0xB6500ACB, .ffill 20 1 44 11), (0xB800D800, .tret 27),
    (0xC0887BC0, .center 34 15 60), (0xC2243300, .calu 9 6 3 0), (0xC401E800, .cmovCs 0 61),
    (0xC4DC2200, .cmovSc 55 4), (0xC4385C00, .cmovCc 14 11), (0xC41497F0, .cmovCi 5 18 31),
    (0xC6304C00, .cld 12 9 2), (0xC80018D0, .cst 3 0 13), (0xCA0003FF, .cbr 1023), (0xCC000000, .cstep),
    (0xCE000000, .cend), (0xCE000001, .cabort)] : List (Nat × Instr)).all
    (fun p => decide (decodeWord p.1 = .ok p.2) && p.2.wf && decide (encode p.2 = some p.1)) = true := by decide +kernel

/-- Words of opcodes 0x68 to 0x71, from R245 to R248. -/
theorem test_decode_68_71 : ([
    (0xD0D8190D, .shcopy 54 3 16 13), (0xD2F05174, .shgath 60 10 23 4), (0xD41009EB, .shscat 4 1 30 11),
    (0xD6284252, .shmcast 10 8 37 2), (0xD848F80C, .shcan 18 31 12), (0xDA613003, .shqry 24 38 3),
    (0xDC806BA7, .shput 32 13 58 7), (0xDE98201E, .shget 38 4 1 14), (0xE1BBD912, .mma 110 123 8 true 2),
    (0xE2D010FC, .nmv 52 2 15 12)] : List (Nat × Instr)).all
    (fun p => decide (decodeWord p.1 = .ok p.2) && p.2.wf && decide (encode p.2 = some p.1)) = true := by decide +kernel

/-! ## One step on fixed values. The expected results are worked out by hand from the rule that each comment names. -/

def sS (ss : FMap W64) : State := withRegs 0 ss [] []
def sV (et flags : Nat) (vs : FMap W32) : State := withRegs (modeOf et 0 0 flags) [] vs []
/-- s3, and v3 of lane 0, after an instruction. -/
def s3is (i : Instr) (s : State) (x : W64) : Bool := gives i s fun t => t.cw.rdS 3 == x
def v3is (i : Instr) (s : State) (x : W32) : Bool := gives i s fun t => t.cw.rdV 3 0 == x

-- R260: sums and products modulo 2^64; a shift by 67 is a shift by 3; a product's high half is signed.
theorem test_sadd_wraps : s3is (.sadd 3 1 2) (sS [(1, BitVec.allOnes 64), (2, 1)]) 0 = true := by decide +kernel
theorem test_smulh_signed : s3is (.smulh 3 1 2) (sS [(1, BitVec.allOnes 64), (2, 1)]) (BitVec.allOnes 64) = true := by decide +kernel
theorem test_ssra_amount : s3is (.ssra 3 1 2) (sS [(1, 0x8000000000000000), (2, 67)]) 0xF000000000000000 = true := by decide +kernel
theorem test_smin_signed : s3is (.smin 3 1 2) (sS [(1, BitVec.allOnes 64), (2, 1)]) (BitVec.allOnes 64) = true := by decide +kernel
-- R256: a write to s0 is discarded, and the warp goes on.
theorem test_s0_is_zero : gives (.sadd 0 1 1) (sS [(1, 4)]) (fun t => t.cw.rdS 0 == 0 && t.cw.ctl.pc == 0x10004) = true := by decide +kernel
-- R261: division truncates; a remainder has its dividend's sign; the corners of the table.
theorem test_sdiv_truncates : s3is (.sdiv 3 1 2) (sS [(1, -7), (2, 2)]) (-3) = true := by decide +kernel
theorem test_srem_sign : s3is (.srem 3 1 2) (sS [(1, -7), (2, 2)]) (-1) = true := by decide +kernel
theorem test_sdivu_by_zero : s3is (.sdivu 3 1 0) (sS [(1, 5)]) (BitVec.allOnes 64) = true := by decide +kernel
theorem test_sclz_zero : s3is (.sclz 3 0) state0 64 = true := by decide +kernel
-- R262: every lane of the width is written, inactive ones too.
theorem test_scmp_lt_signed : gives (.scmpLt 2 1 0) (sS [(1, BitVec.allOnes 64)]) (fun t => t.cw.regs.rdP 2 == 0xFFFF) = true := by decide +kernel
theorem test_scmp_ltu : gives (.scmpLtu 2 1 0) (sS [(1, BitVec.allOnes 64)]) (fun t => t.cw.regs.rdP 2 == 0) = true := by decide +kernel
-- R264: p0 reads the active lanes.
theorem test_ptos_lanes : s3is (.ptos 3 0) (withWarp fun w => { w with ctl := { w.ctl with exec := 0x0F0F } }) 0x0F0F = true := by decide +kernel
-- R265: a literal of 32 bits is sign-extended.
theorem test_ldl_extends : s3is (.ldl 3 1) { state0 with mem := [(0x10004, 0xFE), (0x10005, 0xFF), (0x10006, 0xFF), (0x10007, 0xFF)] }
    0xFFFFFFFFFFFFFFFE = true := by decide +kernel
-- R201, R267: an 8-bit sum wraps into bits 7:0, and saturates with WMODE.SAT.
theorem test_vadd_i8_wraps : v3is (.vadd 3 1 2) (sV 13 0 [(64, 0x7F), (128, 1)]) 0x80 = true := by decide +kernel
theorem test_vadd_i8_saturates : v3is (.vadd 3 1 2) (sV 13 1 [(64, 0x7F), (128, 1)]) 0x7F = true := by decide +kernel
-- R183: the upper bits of an 8-bit operand are ignored.
theorem test_vadd_u8_reads_low : v3is (.vadd 3 1 2) (sV 14 0 [(64, 0x101), (128, 2)]) 3 = true := by decide +kernel
-- R188: 1 + 2^-24 is a tie and rounds to even; toward positive it is the next number.
theorem test_fadd_ties_to_even : v3is (.fadd 3 1 2) (sV 4 0 [(64, 0x3F800000), (128, 0x33800000)]) 0x3F800000 = true := by decide +kernel
-- R192: infinity minus infinity is the canonical NaN.
theorem test_fadd_invalid : v3is (.fadd 3 1 2) (sV 4 0 [(64, 0x7F800000), (128, 0xFF800000)]) 0x7FC00000 = true := by decide +kernel
-- R279: a branch's displacement counts words from the branch's own address.
theorem test_bra_backwards : gives (.bra (-1)) state0 (fun t => t.cw.ctl.pc == 0xFFFC) = true := by decide +kernel
-- R281: TRAP holds its warp and records the lanes and the address.
theorem test_trap_holds : gives (.trap 7) state0 (fun t => t.cw.st == .held && t.cw.trap.mask == 0xFFFF && t.cw.trap.pc == 0x10000) = true := by
  decide +kernel
-- R280: NOP changes the program counter alone.
theorem test_nop : gives .nop state0 (fun t => t.cw.ctl.pc == 0x10004 && t.cw.regs == warp0.regs && t.mem == []) = true := by decide +kernel
-- R281: with no active lane TRAP has no effect.
theorem test_trap_no_lane : gives (.trap 7) (withWarp fun w => { w with ctl := { w.ctl with exec := 0 } })
    (fun t => t.cw.st == .active && t.cw.ctl.pc == 0x10004) = true := by decide +kernel

/-- v1 of lane 0 is an index; b1 names 4 KiB of global memory at 0x20000, in elements of n bytes; some bytes stand there. -/
def sM (idx : Nat) (n : Nat) (fl : FMap Bool) : State :=
  { withRegs 0 [] [(64 * 1, BitVec.ofNat 32 idx), (64 * 2, 5)] [(1, recOf 1 0x20000 4096 n 0)] with
    mem := [(0x20000, 0x80), (0x20001, 1), (0x20008, 9)], tags := fl
    slots := [(0, { warp0 with
      regs := { v := [(64 * 1, BitVec.ofNat 32 idx), (64 * 2, 5)], b := [(1, recOf 1 0x20000 4096 n 0)] }
      ctl := { warp0.ctl with exec := 1 } })] }

-- R290, R288: bytes are zero-extended or sign-extended, little-endian; a load of 16 bits at an odd address traps.
theorem test_ld_i8_extends : v3is (.ldI8 3 1 1 15) (sM 0 1 []) 0xFFFFFF80 = true := by decide +kernel
theorem test_ld_u16_little_endian : v3is (.ldU16 3 1 1 15) (sM 0 2 []) 0x180 = true := by decide +kernel
theorem test_ld_u16_aligned : gives (.ldU16 3 1 1 15) (sM 1 1 []) (fun t => t.cw.st == .held) = true := by decide +kernel
-- R290, R130: a store's bytes stay in the core's L1 until they are released.
theorem test_st32_stays_in_l1 : gives (.st32 2 1 1 15) (sM 1 4 [])
    (fun t => (t.core 0).l1.dirty.look 0x20004 == some 5 && t.mem.look 0x20004 == none) = true := by decide +kernel
-- R307, R308: an atomic answers the old value and adds at the slice.
theorem test_atom_add_old : gives (.atomAdd 2 1 1 15) (sM 2 4 [])
    (fun t => t.cw.rdV 2 0 == 9 && t.mem.look 0x20008 == some 14) = true := by decide +kernel
-- R296, R297: LDFE of a FULL word takes it and leaves the tag EMPTY; of an EMPTY word it sleeps.
theorem test_ldfe_takes : gives (.ldfe 4 1 1) (sM 1 8 [(0x20008, true)]) (fun t => t.cw.rdV 4 0 == 9 && t.tags == []) = true := by decide +kernel
theorem test_ldfe_waits : gives (.ldfe 4 1 1) (sM 1 8 []) (fun t => t.cw.st == .asleep && t.cw.rdV 4 0 == 0) = true := by decide +kernel

end Sys2Proof.Tests
end

