-- ==== Sys2Proof/Tests/WitnessCore.lean ====
section
/-! SUPPORT. States that meet the hypotheses of the statements about instructions of one warp. -/

namespace Sys2Proof.Tests

open Sys2Proof Sys2Proof.Machine Sys2Proof.Slice0

set_option maxRecDepth 100000
set_option Elab.async false

/-! ## Scalar, predicate and vector statements -/

/-- Scalars 1 to 4: -1, WMODE values that are allowed with every field at its end, one refused, one in pair 62. -/
def sScalar : State :=
  withRegs (modeOf 0 0 0 0) [(1, BitVec.allOnes 64), (2, modeOf 14 14 5 255), (3, modeOf 15 0 0 0), (4, 0x40),
    (62, 0xFFFF), (63, modeOf 14 0 5 0)] [] []

theorem witness_ModeIsExchangedOrRefused :
    wmodeOk (sScalar.cw.rdS 2) = true ∧
    wmodeOk ((sScalar.cw.ctl.wmode &&& ~~~(sScalar.cw.rdS 2)) ||| (sScalar.cw.rdS 2 &&& sScalar.cw.rdS 2)) = true ∧
    wmodeOk (sScalar.cw.rdS (62 + 1)) = true ∧
    wmodeOk (sScalar.cw.rdS 3) = false ∧ wmodeOk (sScalar.cw.rdS 1) = false ∧
    wmodeOk ((sScalar.cw.ctl.wmode &&& ~~~(sScalar.cw.rdS 1)) ||| (sScalar.cw.rdS 3 &&& sScalar.cw.rdS 1)) = false ∧
    wmodeOk (sScalar.cw.rdS (2 + 1)) = false := by decide +kernel

/-- Integers of 64 bits in pairs, the last of the allotment among them; 32 registers in the other warp. -/
def sVec (et flags : Nat) : State :=
  withRegs (modeOf et 0 0 flags) [] [(64 * 2, 0x80000000), (64 * 4, 1), (64 * 3, 5)] []
def sNarrow (et : Nat) : State :=
  withWarp fun w => { w with id := { w.id with allot := 0 }, ctl := { w.ctl with wmode := modeOf et 0 0 0 } }

theorem witness_VectorIntegerInstructions :
    (VecReady (sVec 2 0).cw isInt [126, 2, 4] [126, 2, 4] ∧ VecReady (sVec 14 0).cw isInt [127, 1, 3] [127, 1, 3]) ∧
    VecReady (sVec 3 1).cw isMov [126, 2] [126, 2] ∧ VecReady (sVec 0 0).cw isInt [127, 1, 0] [127, 1, 0] ∧
    VecReady (sVec 5 0).cw isMov [126, 0, 2] [126, 0, 2] ∧
    ¬ ((32 : VReg).val < (sNarrow 0).cw.vregs) ∧
    (31 < (sNarrow 4).cw.vregs ∧ isInt (wmET (sNarrow 4).cw.ctl.wmode) = false ∧ isMov (wmET (sNarrow 10).cw.ctl.wmode) = false) ∧
    (typeBits (wmET (sNarrow 2).cw.ctl.wmode) = 64 ∧ 29 + 1 < (sNarrow 2).cw.vregs ∧ 29 % 2 = 1 ∧
      isInt (wmET (sNarrow 2).cw.ctl.wmode) = true) := by
  unfold VecReady; repeat' apply And.intro
  all_goals decide +kernel

/-- The checks of a vector instruction in the warp of 32 registers: a register beyond them, a refused type, a pair whose second register
is beyond them, an odd pair. -/
theorem witness_ChecksTrap : ∀ ok ∈ [isInt, isMov, isFlt, fun t => isInt t || isFlt t, fun t => decide (t = 4 ∨ t = 6 ∨ t = 7)],
    ¬ ((32 : VReg).val < (sNarrow 4).cw.vregs) ∧ 31 < (sNarrow 10).cw.vregs ∧ ok (wmET (sNarrow 10).cw.ctl.wmode) = false ∧
    (∀ t ∈ [2, 5], typeBits (wmET (sNarrow t).cw.ctl.wmode) = 64 ∧ (sNarrow t).cw.vregs ≤ (31 : VReg).val + 1 ∧
      29 + 1 < (sNarrow t).cw.vregs ∧ (29 : VReg).val % 2 = 1) ∧
    ((isInt 2 && isMov 2 && isFlt 5 && isMov 5) = true) := by
  decide +kernel

theorem witness_LaneWritesReadBack :
    isMov 3 = true ∧ isMov 13 = true ∧ warp0.id.width ≤ 64 ∧ 15 ∈ warp0.lanes ∧ 16 ∉ warp0.lanes ∧ 3 ∉ pairOf 3 4 := by
  decide +kernel

/-- F32 lanes: 1, infinity, minus infinity, a NaN, and the largest number. -/
def sFloat (et rm flags : Nat) : State :=
  withRegs (modeOf et 4 rm flags) [] [(64 * 2, 0x3F800000), (64 * 2 + 1, 0x7F800000), (64 * 4, 0x40000000),
    (64 * 4 + 1, 0xFF800000), (64 * 6, 0x7F7FFFFF)] []

theorem witness_FloatInstructionsWriteTheirResults :
    VecReady (sFloat 4 0 0).cw isFlt [127, 2, 4] [127, 2, 4] ∧ VecReady (sFloat 5 0 0).cw isFlt [126, 2, 5] [126, 2] ∧
    VecReady (sFloat 5 0 0).cw isFlt [3, 2] [2] ∧ VecReady (sFloat 7 0 2).cw (fun t => decide (t = 4 ∨ t = 6 ∨ t = 7)) [0, 1] [0, 1] ∧
    (∀ p ∈ [(sFloat 4 0 0, true), (sFloat 4 5 4, false)], decide (((perLaneOf p.1.cw fun l =>
      fres p.1.cw (addNum 0 (val p.1.cw 2 l) (val p.1.cw 4 l))).filter fun q => q.2.2 &&& wmIEN p.1.cw.ctl.wmode != 0) = []) = p.2) := by
  unfold VecReady; repeat' apply And.intro
  all_goals decide +kernel

/-- A warp whose divide unit holds one result for the last lane of the last register. -/
def sDivided : State :=
  withWarp fun w => { w with fdsq := [{ keys := [64 * 127 + 15], vals := [(64 * 127 + 15, 7)], dests := [127], exc := DZ }] }

theorem witness_DivideUnitWritesLater :
    VecReady (sFloat 5 0 0).cw isFlt [126, 2, 4] [126, 2, 4] ∧ VecReady (sFloat 4 0 0).cw isFlt [127, 2] [127, 2] ∧
    (∀ l ∈ (sFloat 4 0 0).cw.lanes, (fresNum (modeOf 4 4 0 0) 4 (sqrtNum (val (sFloat 4 0 0).cw 2 l)).1
      (sqrtNum (val (sFloat 4 0 0).cw 2 l)).2.1 (sqrtNum (val (sFloat 4 0 0).cw 2 l)).2.2).2 &&& wmIEN (modeOf 4 4 0 0) = 0) ∧
    ((sDivided.warp 0 0).fdsq ≠ [] ∧ gives (.fdsqResult 0 0) sDivided (fun t =>
      t.cw.rdV 127 15 == 7 && t.cw.stat.fstat == DZ && t.cw.fdsq == []) = true) := by
  unfold VecReady; repeat' apply And.intro
  all_goals decide +kernel

theorem witness_VectorCompareWritesPredicates :
    VecReady (sVec 2 0).cw isInt [126, 4] [126, 4] ∧ VecReady (sFloat 5 0 0).cw isFlt [126, 2] [126, 2] ∧
    (∀ p ∈ vcmpFlt, ∀ l ∈ (sFloat 4 0 4).cw.lanes, cmpExc p.2.2 (decodeNum 4 (elem (sFloat 4 0 4).cw 2 l))
      (decodeNum 4 (elem (sFloat 4 0 4).cw 4 l)) &&& wmIEN (sFloat 4 0 4).cw.ctl.wmode = 0) := by
  unfold VecReady; repeat' apply And.intro
  all_goals decide +kernel

theorem witness_RoundingKeepsRepresentableValues :
    decodeNum 4 0x7F7FFFFF = .fin false 0xFFFFFF 104 ∧ decodeNum 4 1 = .fin false 1 (-149) ∧
    decodeNum 8 0xFE = .fin true 14 5 ∧ decodeNum 9 0x7B = .fin false 7 13 ∧ decodeNum 5 (2 ^ 63) = .fin true 0 (-1074) := by
  decide +kernel

/-- Lanes with a NaN, the largest F32 numbers and a number that no narrower type holds, every exception enabled. -/
def sRaises (et st : Nat) : State :=
  withRegs (modeOf et st 0 124) [] (laneVals 2 (fun l => if l = 0 then 0x7FC00001 else 0x7F7FFFFF) ++
    laneVals 4 (fun _ => 0x7F7FFFFF) ++ laneVals 6 (fun l => 0x3F812345 + l)) []

/-- Some lanes have an enabled exception. -/
def raisedIn (s : State) (es : List (Nat × Exc)) : Bool := es.any fun p => p.2 &&& wmIEN s.cw.ctl.wmode != 0

theorem witness_ArithmeticTraps :
    (VecReady (sRaises 4 4).cw isFlt [2, 4] [2, 4] ∧ (vcmpFlt.any fun p => raisedIn (sRaises 4 4) ((sRaises 4 4).cw.lanes.map fun l =>
      (l, cmpExc p.2.2 (decodeNum 4 (elem (sRaises 4 4).cw 2 l)) (decodeNum 4 (elem (sRaises 4 4).cw 4 l))))) = true) ∧
    (CvtReady (sRaises 8 4).cw 1 6 ∧ raisedIn (sRaises 8 4) ((sRaises 8 4).cw.lanes.map fun l =>
      (l, (convert (sRaises 8 4).cw l 0 ((sRaises 8 4).cw.get 6 l 4) 0).exc)) = true) ∧
    (VecReady (sRaises 4 4).cw (fun t => isInt t || isFlt t) [4] [4] ∧ (∀ op ∈ [RedOp.add], raisedIn (sRaises 4 4)
      ((sRaises 4 4).cw.reduce op 4 4).2 = true)) := by
  unfold VecReady CvtReady; repeat' apply And.intro
  all_goals decide +kernel

/-- Conversions refused: a type, a second register beyond the allotment, an odd pair, a field beyond the register. -/
theorem witness_ConversionChecksTrap :
    (∀ t ∈ [10, 15], isMov t = false) ∧ (typeBits 5 = 64 ∧ isMov 5 = true ∧ 31 + 1 ≥ (sNarrow 5).cw.vregs) ∧
    (10 ∉ [0, 1, 4, 6, 7, 8, 9, 13, 14] ∧ 8 ∈ [8, 9, 13, 14] ∧ ¬ (typeBits 6 * (2 + 1) ≤ 32)) := by decide +kernel

/-! ## Conversions, cross-lane instructions, control flow, traps, control registers, code -/

/-- A mode with a source and a destination type. -/
def sConv (et st rm : Nat) : State :=
  withRegs (modeOf et st rm 0) [(1, 15), (2, 16)] [(64 * 2, 0x3F800000), (64 * 2 + 15, 0xC2F70000)] []

theorem witness_ConversionsWriteTheirResults :
    CvtReady (sConv 5 4 5).cw 126 127 ∧ CvtReady (sConv 9 3 5).cw 127 126 ∧
    (127 < (sConv 6 4 0).cw.vregs ∧ wmST (sConv 6 4 0).cw.ctl.wmode ∈ [0, 1, 4, 6, 7, 8, 9, 13, 14] ∧
      wmET (sConv 6 4 0).cw.ctl.wmode = 6) ∧
    (wmET (sConv 14 0 5).cw.ctl.wmode ∈ [8, 9, 13, 14] ∧ 126 < (sConv 14 0 5).cw.vregs ∧ 126 % 2 = 0) ∧
    (wmST (sConv 4 8 0).cw.ctl.wmode ∈ [6, 7, 8, 9, 13, 14] ∧ typeBits 8 * (3 + 1) ≤ 32 ∧ typeBits 6 * (1 + 1) ≤ 32) ∧
    (∀ l ∈ (sConv 8 4 0).cw.lanes, (convert (sConv 8 4 0).cw l 0 ((sConv 8 4 0).cw.get 2 l 4) 0).exc &&&
      wmIEN (sConv 8 4 0).cw.ctl.wmode = 0) := by
  unfold CvtReady; repeat' apply And.intro
  all_goals decide +kernel

theorem witness_CrossLaneInstructions :
    VecReady (sConv 3 0 0).cw isMov [126, 2, 127] [126, 2] ∧ (((sConv 3 0 0).cw.rdS 1).toNat < warp0.id.width) ∧
    (warp0.id.width ≤ ((sConv 3 0 0).cw.rdS 2).toNat) ∧ VecReady (sConv 4 0 0).cw (fun t => isInt t || isFlt t) [2] [2] ∧
    (∀ q ∈ ((sConv 4 0 0).cw.reduce .add 4 2).2, q.2 &&& wmIEN (sConv 4 0 0).cw.ctl.wmode = 0) := by
  unfold VecReady; repeat' apply And.intro
  all_goals decide +kernel

theorem witness_IntegerReductionIsTheSum :
    isInt 13 = true ∧ warp0.id.width ≤ 64 ∧ wmSAT warp0.ctl.wmode = false ∧
    (warp0.lanes.map fun l => intOf 13 (warp0.get 2 l 13)) ≠ [] := by decide +kernel

/-- Lanes 0 to 7 pass the guard p1; a stack of n entries whose top is `e`. -/
def sBranch (e : StkEntry) (n : Nat) : State :=
  withWarp fun w => { w with
    regs := { p := [(1, 0xFF)], s := [(1, 0x10040), (2, 0x10041)] }
    ctl := { w.ctl with wmode := 1, stk := if n = 0 then [] else e :: List.replicate (n - 1) { } } }
def sLanes (m : W64) (n : Nat) : State :=
  let s := sBranch { } n
  s.setCw { s.cw with ctl := { s.cw.ctl with exec := m } }

theorem witness_BranchesAndDivergence :
    (branchLanes (sLanes 0xFF 0).cw ≠ 0 ∧ branchLanes (sLanes 0xFF 0).cw &&& (sLanes 0xFF 0).cw.guard =
      branchLanes (sLanes 0xFF 0).cw) ∧
    branchLanes (sLanes 0xFF00 0).cw &&& (sLanes 0xFF00 0).cw.guard = 0 ∧
    (branchLanes (sLanes 0xFFFF 0).cw &&& (sLanes 0xFFFF 0).cw.guard ≠ 0 ∧
      branchLanes (sLanes 0xFFFF 0).cw &&& (sLanes 0xFFFF 0).cw.guard ≠ branchLanes (sLanes 0xFFFF 0).cw) ∧
    ((1 : Int) ≤ (0xFFFFFF : BitVec 25).toInt ∧ (0x1000000 : BitVec 25).toInt < 1) ∧
    (((sLanes 0 0).cw.rdS 1).toNat % 4 = 0 ∧ ((sLanes 0 0).cw.rdS 2).toNat % 4 ≠ 0) ∧
    ((sLanes 1 31).cw.ctl.stk.length < 32 ∧ 32 ≤ (sLanes 1 32).cw.ctl.stk.length) ∧
    (divTaken (sLanes 0xFF00 0).cw = 0 ∧ divTaken (sLanes 0xFF 0).cw ≠ 0 ∧ divFall (sLanes 0xFF 0).cw = 0) ∧
    (divTaken (sLanes 0xFFFF 1).cw ≠ 0 ∧ divFall (sLanes 0xFFFF 1).cw ≠ 0) ∧
    (∃ e rest, (sBranch { pvalid := true, ptgt := 0x10010 } 1).cw.ctl.stk = e :: rest ∧ e.pvalid = true ∧ e.ptgt ≠ 0x10020) ∧
    (divTaken (sLanes 0xFFFF 0).cw ≠ 0 ∧ divFall (sLanes 0xFFFF 0).cw ≠ 0 ∧ (sLanes 0xFFFF 0).cw.ctl.stk = []) := by
  repeat' apply And.intro
  all_goals first | decide +kernel | exact ⟨_, _, rfl, by decide +kernel⟩

theorem witness_ReconvergenceLeavesTheTopEntry :
    (sBranch { rpc := 0x10000, saved := 0xF } 1).cw.reconverge ≠ (sBranch { rpc := 0x10000, saved := 0xF } 1).cw := by decide +kernel

/-- A warp with a load in its operand log; a handler warp. -/
def sLogged : State := withWarp fun w => { w with log := [{ op := .vqnt 0 1 2 3 }] }
def sHandler : State := withWarp fun w => { w with id := { w.id with handler := true } }

theorem witness_TrapsAreTaken :
    (state0.cw.log = [] ∧ state0.cw.fdsq = [] ∧ state0.cw.id.handler = false ∧ state0.cw.active ≠ 0) ∧ sLogged.cw.log ≠ [] ∧
    (sHandler.cw.log = [] ∧ sHandler.cw.fdsq = [] ∧ sHandler.cw.id.handler = true ∧ sHandler.jobs.look sHandler.cw.id.job = some job0 ∧ job0.stop = none) ∧
    (sLanes 0xFF00 0).cw.active = 0 ∧
    gives (.trap 7) state0 (fun t => t.cw.st == .held && t.cw.trap.mask == 0xFFFF && t.cw.trap.pc == 0x10000) = true := by
  decide +kernel

theorem witness_ControlRegistersAreReadAndWritten :
    (crReadable 0x044 = true ∧ state0.crWaits 0x044 = false ∧ perLane state0.cw 0x044 = false) ∧
    (perLane state0.cw 0x002 = true ∧ 126 < state0.cw.vregs ∧ crReadable 0x002 = true ∧ state0.crWaits 2 = false) ∧
    (crReadable 0x020 = true ∧ sLogged.crWaits 0x020 = true) ∧ crReadable 0x7FF = false ∧
    (wmodeOk (sScalar.cw.rdS 2) = true ∧ wmodeOk (sScalar.cw.rdS 3) = false) ∧
    (state0.crWaits 0x020 = false ∧ state0.crWaits 0x021 = false ∧ state0.crWaits 0x022 = false) ∧
    ((0x7FF : BitVec 11).toNat ∉ [0x000, 0x001, 0x012, 0x020, 0x021, 0x022] ∧ state0.crWaits 0x7FF = false) := by
  repeat' apply And.intro
  all_goals decide +kernel

/-- Code with a word at 0x10004 and a doubleword at 0x10008; three classes of the schedule table. -/
def sCode : State :=
  { (withRegs 0 [(1, 64), (2, 65)] [] []) with
    mem := [(0x10007, 0x80), (0x10008, 1), (0x1000F, 0xFF)]
    jobs := [(0, { job0 with sched := [(128, 0x40), (64, 0x80), (64, 0xC0)] })] }

theorem witness_CodeReadsAndScheduleSelection :
    (Fetches sCode 0x10004 4 0x80000000 ∧ Fetches sCode 0x10008 8 0xFF00000000000001) ∧
    ((state0.cw.ctl.pc + ((1 : BitVec 18).signExtend 64 <<< 2)).toNat % 8 ≠ 0) ∧
    ((sCode.job 0).sched = [(128, 0x40)] ++ (64, 0x80) :: [(64, 0xC0)] ∧ (sCode.cw.rdS 1).toNat ≤ 64 ∧
      (∀ x ∈ [(128, 0x40)], (sCode.cw.rdS 1).toNat ≤ x.1 → 64 < x.1) ∧ (∀ x ∈ [(64, 0xC0)], (sCode.cw.rdS 1).toNat ≤ x.1 → 64 ≤ x.1)) ∧
    (∀ x ∈ (state0.job 0).sched, x.1 < (sCode.cw.rdS 1).toNat) := by
  refine ⟨⟨⟨0x10004, true, false, ?_, ?_, .inr ⟨?_, ?_, ?_, ?_, noReleases_of_none rfl⟩, ?_⟩,
    ⟨0x10008, true, false, ?_, ?_, .inr ⟨?_, ?_, ?_, ?_, noReleases_of_none rfl⟩, ?_⟩⟩, ?_⟩
  all_goals repeat' apply And.intro
  all_goals decide +kernel

/-! ## Loads, stores, acquire and release, drains -/

/-- Index register v1 holds the lane's number; b1 names n-byte elements from 0x20000 on, of which the last lane's lies beyond
the extent and is clamped; b2 host memory, b3 the core's scratchpad, b4 a lane's slice, b5 a block of memory that no page maps.
Memory, a dirty byte and a clean line stand behind them. -/
def sMem (m : W64) (n : Nat) : State :=
  let s := withRegs m [(1, 0x20000), (2, 0x21000)]
    (laneVals 1 id ++ laneVals 4 (fun l => 0x01010101 * l) ++ laneVals 5 (fun l => 0x80 + l) ++ laneVals 6 (fun l => l * l))
    [(1, recOf 1 0x20000 (15 * n) n 1), (2, recOf 6 0x1000 4096 n 0), (3, recOf 3 0x200 4096 n 0), (4, recOf 2 0 64 4 0),
     (5, recOf 1 0x50000 4096 n 0), (6, recOf 1 0x21000 4096 0 0)]
  { s with
    mem := [(0x20000, 1), (0x20001, 0x80), (0x2000F, 0xFF), (0x20080, 7), (2 ^ 58 + 0x1004, 0x44), (2 ^ 59 + 0x204, 0x33)]
    cores := [(0, { s.core 0 with l1 := { dirty := [(0x20003, 0xAB), (0x20010, 0xCD)], clean := [(0x20080, List.replicate 128 0x5A)] } })] }

theorem witness_LoadsReadTheirBytes : ∀ n ∈ [1, 2, 4, 8, 16],
    Calm (sMem 0 n) (linesOf (zsOf (sMem 0 n) 1 1 n .read false)) ∧ ConstFresh (sMem 0 n) ∧ DataReady (sMem 0 n).cw 124 1 n ∧ LogRoom (sMem 0 n) (.load 6 124 1 1) ∧ AtOnce (sMem 0 n) 15 ∧
    Placed (sMem 0 n) 1 1 n .read false (asOf (sMem 0 n) 1 1 n false) (zsOf (sMem 0 n) 1 1 n .read false) ∧
    Clean (sMem 0 n) (zsOf (sMem 0 n) 1 1 n .read false) := by
  refine fun n hn => ⟨calm_of ?_, constFresh_of_none ?_, ?_, ?_, ?_, placed_of ?_, ok_unit ?_⟩
  all_goals revert n
  all_goals try simp only [DataReady, LogRoom, AtOnce]
  all_goals decide +kernel

theorem witness_StoresWriteTheirBytes : ∀ n ∈ [1, 2, 4, 8, 16],
    Placed (sMem 0 n) 1 1 n .write true (asOf (sMem 0 n) 1 1 n true) (zsOf (sMem 0 n) 1 1 n .write true) ∧
    Placed (sMem 0 n) 2 1 n .write true (asOf (sMem 0 n) 2 1 n true) (zsOf (sMem 0 n) 2 1 n .write true) ∧
    Placed (sMem 0 n) 3 1 n .write true (asOf (sMem 0 n) 3 1 n true) (zsOf (sMem 0 n) 3 1 n .write true) ∧
    Calm (sMem 0 n) (linesOf (zsOf (sMem 0 n) 2 1 n .write true)) ∧ (sMem 0 n).memoryOk = true ∧ DataReady (sMem 0 n).cw 124 1 n ∧ LogRoom (sMem 0 n) (.store 4 124 1 1) ∧
    AtOnce (sMem 0 n) 0 := by
  refine fun n hn => ⟨placed_of ?_, placed_of ?_, placed_of ?_, calm_of ?_, ?_⟩
  all_goals revert n
  all_goals try simp only [DataReady, LogRoom, AtOnce]
  all_goals decide +kernel

/-- The same with no active lane, and with a load in the operand log. -/
def sNoLanes (m : W64) (n : Nat) : State :=
  let s := sMem m n
  s.setCw { s.cw with ctl := { s.cw.ctl with exec := 0 } }
def sMemLogged : State :=
  let s := sMem 0 4
  s.setCw { s.cw with log := [{ op := .load 4 7 1 1, la := 15 }] }

/-- As an acquire of its lanes' lines leaves it. -/
def acquired (s : State) (scope : Nat) : State :=
  (linesOf (zsOf s 1 1 4 .read false)).foldl (fun u ln => u.acquireLine 0 ln (s.cw.scoped scope)) s

theorem witness_AcquireReleaseAndFences :
    ConstFresh (sMem (modeOf 2 0 0 0) 8) ∧ Calm (sMem 0 4) (linesOf (zsOf (sMem 0 4) 1 1 4 .write true)) ∧
    (acquired (sMem 0 4) 5).unpoisoned 0 (zsOf (sMem 0 4) 1 1 4 .read false) = .ok () ∧ NoReleases (sMem 0 4) ∧ (sMem 0 4).pcie = true ∧
    Placed (sMem 0 4) 1 1 4 .read false (asOf (sMem 0 4) 1 1 4 false) (zsOf (sMem 0 4) 1 1 4 .read false) ∧
    Placed (sMem 0 4) 3 1 4 .write true (asOf (sMem 0 4) 3 1 4 true) (zsOf (sMem 0 4) 3 1 4 .write true) ∧
    Clean (sMem 0 4) (zsOf (sMem 0 4) 1 1 4 .read false) ∧
    ElemReady (sMem (modeOf 2 0 0 0) 8).cw 126 1 ∧ (sMem (modeOf 2 0 0 0) 8).cw.log = [] ∧
    LogRoom (sMem (modeOf 2 0 0 0) 8) (.lda 5 126 1 1) ∧
    (sNoLanes 0 4).cw.lanes = [] ∧ (sMem 0 4).cw.lanes ≠ [] ∧ (sMem 0 4).memoryOk = true ∧
    ((sMem 0 4).cw.wide 0 = false ∧ (sMem 0 4).cw.wide 1 = true ∧ (sMem 0 4).cw.wide 5 = true ∧
      cachedSpace ((sMem 0 4).cw.regs.rdB 1) = true ∧ cachedSpace ((sMem 0 4).cw.regs.rdB 3) = false) ∧
    sMemLogged.cw.log ≠ [] := by
  refine ⟨constFresh_of_none ?_, calm_of ?_, ok_unit ?_, noReleases_of_none rfl, rfl, placed_of ?_, placed_of ?_, ok_unit ?_, ?_⟩
  all_goals try simp only [ElemReady, LogRoom]
  all_goals repeat' apply And.intro
  all_goals decide +kernel

theorem witness_DrainMakesDirtyBytesVisible :
    (sMem 0 4).memoryOk = true ∧ FMap.risingFrom none ((sMem 0 4).core 0).l1.dirty = true ∧
    ((sMem 0 4).core 0).l1.dirty ≠ [] ∧ ((sMem 0 4).drain 0).mem.getD 0x20003 0 = 0xAB ∧ NoReleases (sMem 0 4) ∧
    L2Room (sMem 0 4) 0 2048 ∧ ((sMem 0 4).core 0).l1.dirty.length ≤ 2048 :=
  ⟨by decide +kernel, by decide +kernel, by decide +kernel, by decide +kernel, noReleases_of_none rfl, l2Room_of_none rfl rfl rfl 0,
    by decide +kernel⟩

/-- Addresses that fail the checks of R108: a null record, one that is read only, one whose extent ends after lane 3, and one whose
lanes' words are not aligned. -/
def sFails : State :=
  withRegs 0 [] (laneVals 1 id) [(2, recOf 1 0x20000 4096 4 2), (3, recOf 1 0x20000 16 4 0), (4, recOf 1 0x20002 4096 4 0)]

theorem witness_AddressesTrap :
    lanesMeeting sFails 1 1 4 false ACCESS ≠ [] ∧ lanesMeeting sFails 2 1 4 true ACCESS ≠ [] ∧
    (lanesMeeting sFails 3 1 4 true BOUNDS ≠ [] ∧ lanesMeeting sFails 3 1 4 true ACCESS = []) ∧
    (lanesMeeting sFails 4 1 4 false ALIGNMENT ≠ [] ∧ lanesMeeting sFails 4 1 4 false ACCESS = [] ∧
      lanesMeeting sFails 4 1 4 false BOUNDS = []) ∧
    DataReady sFails.cw 7 1 4 ∧ LogRoom sFails (.load 4 7 1 1) ∧ LogRoom sFails (.store 2 7 1 3) := by
  simp only [DataReady, LogRoom]
  decide +kernel

/-! ## Words, lines, caches, records, quantisation, atomics -/

/-- Words from 0x20000 on through b1, with the tags of `tags`; the scratchpad lines at 0x200 through b3. -/
def sWord (m : W64) (tags lines : FMap Bool) : State :=
  let s := sMem m 8
  let s := s.setCw { s.cw with regs := { s.cw.regs with b := [(1, recOf 1 0x20000 4096 8 0), (3, recOf 3 0x200 128 4 1)] } }
  { s with cores := [(0, { s.core 0 with l1 := { } })], tags := tags, lineFull := lines }
def fullTags : FMap Bool := (List.range 16).map fun l => (0x20000 + 8 * l, true)
def wordsOf (s : State) (wr : Bool) : List (Nat × Option Nat) × List (Nat × Nat) := valueOf ([], []) (s.wordLanes s.ctx 1 1 wr)
def todoOf (s : State) (wr : Bool) : List (Nat × Option Nat) × List (Nat × Nat) :=
  valueOf ([], []) (s.wordLanes (todo s) 1 1 wr)
def namedLines (s : State) (wr : Bool) : List (Nat × Option Nat) × List (Nat × Nat × Nat) := valueOf ([], []) (s.lineLanes s.ctx 1 3 wr)
/-- The same where two lanes share each word. -/
def sShared (m : W64) (tags : FMap Bool) (n : Nat) : State :=
  let s := sWord m tags []
  let vs := laneVals 1 (fun l => l / 2) ++ s.cw.regs.v.filter (fun p => p.1 / 64 != 1)
  s.setCw { s.cw with regs := { s.cw.regs with v := vs, b := [(1, recOf 1 0x20000 4096 n 0)] } }

theorem witness_WordsTagsAndLines :
    (∀ wr : Bool, (sWord 0 fullTags []).wordLanes (todo (sWord 0 fullTags [])) 1 1 wr =
        .ok ((todoOf (sWord 0 fullTags []) wr).1, (todoOf (sWord 0 fullTags []) wr).2) ∧
      (sWord 0 fullTags []).wordLanes (sWord 0 fullTags []).ctx 1 1 wr =
        .ok ((wordsOf (sWord 0 fullTags []) wr).1, (wordsOf (sWord 0 fullTags []) wr).2) ∧
      (sWord 0 [] []).lineLanes (sWord 0 [] []).ctx 1 3 wr = .ok ((namedLines (sWord 0 [] []) wr).1, (namedLines (sWord 0 [] []) wr).2)) ∧
    oneLine (namedLines (sWord 0 [] []) false).2 = .ok (some (2 ^ 59 + 0x200)) ∧
    (sWord 0 fullTags []).memoryOk = true ∧ DataReady (sWord 0 fullTags []).cw 126 1 8 ∧
    DataReady (sWord 0 fullTags []).cw 127 1 4 ∧ LogRoom (sWord 0 fullTags []) (.word 3 126 1 1) ∧
    (∀ z ∈ (todoOf (sWord 0 fullTags []) true).2,
      (sWord 0 fullTags []).poisoned z.2 8 = false ∧ z.2 % 8 = 0 ∧ (sWord 0 fullTags []).owned.has (lineOf z.2) = false ∧
      NoDirty (sWord 0 fullTags []) (lineOf z.2) ∧ (sWord 0 fullTags []).tag z.2 = true ∧ (sWord 0 [] []).tag z.2 = false ∧
      NotHeld (sWord 0 fullTags []) z.2) ∧
    DifferentWords (todoOf (sWord 0 fullTags []) true).2 ∧
    ¬ DifferentWords (todoOf (sShared 0 fullTags 8) true).2 ∧
    (AtOnce (sWord 0 [] []) 15 ∧ LogRoom (sWord 0 [] []) (.tagwr 127 1 1) ∧ LogRoom (sWord 0 [] []) (.lnwr 127 1 3) ∧
      LogRoom (sWord 0 [] []) (.tagrd 127 1 1) ∧ LogRoom (sWord 0 [] []) (.lnrd 127 1 3) ∧
      LogRoom (sWord 0 [] []) (.line 0 127 1 3) ∧ LogRoom (sWord 0 [] []) (.line 1 127 1 3)) ∧
    ((sWord 0 [] [(2 ^ 59 + 0x200, true)]).lineFull.getD (2 ^ 59 + 0x200) false = true ∧
      (sWord 0 [] []).lineFull.getD (2 ^ 59 + 0x200) false = false ∧ (sWord 0 [] []).owned.has (2 ^ 59 + 0x200) = false ∧
      ((sWord 0 [] []).core 0).far = [] ∧
      (∀ z ∈ (namedLines (sWord 0 [] []) false).2, (sWord 0 [] []).poisoned z.2.2 4 = false) ∧ (sWord 0 [] []).cw.log = []) ∧
    valueOf ([(0, none)], []) ((sNoLanes 0 8).lineLanes (sNoLanes 0 8).ctx 1 3 true) = ([], []) := by
  refine ⟨fun wr => ⟨ok_valueOf ?_, ok_valueOf ?_, ok_valueOf ?_⟩, rfl, ?_⟩
  · cases wr <;> decide +kernel
  · cases wr <;> decide +kernel
  · cases wr <;> decide +kernel
  · simp only [DataReady, AtOnce, LogRoom, DifferentWords, NoDirty, NotHeld]
    repeat' apply And.intro
    all_goals decide +kernel

/-- Lines of memory and of host space named by lanes 128 bytes apart, dirty and clean copies in the core. -/
def sLines : State :=
  let s := sMem 0 1
  s.setCw { s.cw with regs := { s.cw.regs with b := [(1, recOf 1 0x20000 4096 128 0)] } }

/-- Lanes that name several words of one line. -/
def sOneLine : State :=
  let s := sLines
  s.setCw { s.cw with regs := { s.cw.regs with b := [(1, recOf 1 0x20000 4096 4 0)] } }

/-- The line that a lane of PREF names lies among some lines. -/
def prefIn (s : State) (b x : Nat) (lines : List Nat) (l : Nat) : Bool :=
  match s.laneAddr s.ctx (s.cw.regs.rdB b) (s.cw.rdV x l).toNat 1 1 false with
  | .ok a =>
    match s.translate s.cur.1 s.cw.id.part (recSpace (s.cw.regs.rdB b) == SP_HOST) .read a with
    | .ok place _ _ => decide (lineOf place ∈ lines)
    | _ => true
  | _ => true

theorem witness_pref : ∃ lines, (∀ l ∈ sOneLine.cw.lanes, ∀ a place tg bk,
      sOneLine.laneAddr sOneLine.ctx (sOneLine.cw.regs.rdB 1) (sOneLine.cw.rdV 1 l).toNat 1 1 false = .ok a →
      sOneLine.translate sOneLine.cur.1 sOneLine.cw.id.part (recSpace (sOneLine.cw.regs.rdB 1) == SP_HOST) .read a = .ok place tg bk →
      lineOf place ∈ lines) ∧ Calm sOneLine lines ∧ LogRoom sOneLine (.cache 0 1 1) := by
  refine ⟨[0x20000], fun l hl a place tg bk h1 h2 => ?_, calm_of (by decide +kernel), ?_⟩
  · have h : ∀ l ∈ sOneLine.cw.lanes, prefIn sOneLine 1 1 [0x20000] l = true := by decide +kernel
    have := h l hl
    simp only [prefIn, h1, h2] at this
    simpa using this
  · simp only [LogRoom]
    decide +kernel

theorem witness_CacheOperationsCleanAndDrop :
    (127 : VReg).val < sLines.cw.vregs ∧ LinesNamed sLines 1 1 (valueOf [] (sLines.cacheLines sLines.ctx 1 1)) ∧
    AtOnce sLines 15 ∧ LogRoom sLines (.cache 1 1 1) ∧ LogRoom sLines (.cache 3 1 1) ∧ sLines.cw.logsCache 1 = false ∧
    sLines.cw.logsCache 3 = false ∧ (sLines.core 0).l1.clean.keys.Nodup ∧ (sLines.core 0).occ = some sLines.cw.id.job := by
  refine ⟨by decide +kernel, ⟨ok_valueOf (by decide +kernel), by decide +kernel⟩, ?_⟩
  simp only [AtOnce, LogRoom]
  decide +kernel

/-- A table of 16 records at 0x20000 whose entry 3 is live; registers for MKB. -/
def sRecord : State :=
  let s := sMem 0 1
  let r : BitVec 256 := recOf 1 0x21000 64 4 0 ||| BitVec.ofNat 256 (2 ^ 192 * 0x01000003)
  { (s.setCw { s.cw with regs := { s.cw.regs with
      s := [(1, 0x01000003), (2, 16), (3, 2 ^ 32), (4, 0xFF0), (5, 0x10), (6, 0x21 * 2 ^ 32 + 4)], b := [(1, recOf 1 0x20000 4096 4 2)] } }) with
    mem := writeN [] 0x20060 (bytesOf 32 r.toNat), cores := [(0, { s.core 0 with l1 := { } })]
    jobs := [(0, { job0 with r := { job0.r with hbase := 0x20000, hcount := 16 } })] }

def liveRecord : BufRec := BitVec.ofNat 256 (natOf ((sRecord.acquireLine 0 (lineOf 0x20060) 3).sliceRead 0x20060 32))

theorem witness_RecordInstructionsMoveRecords :
    (sRecord.global 0 0 .read (0x20000 + 32 * (0x01000003 % 2 ^ 24)) = .ok (0x20060, true)) ∧ AtOnce sRecord 3 ∧
    LogRoom sRecord (.ldb 15 1) ∧ LogRoom sRecord (.mkb 2 4 1) ∧ LogRoom sRecord (.brd 4 1) ∧
    ((sRecord.cw.rdS 1).toNat < 2 ^ 32 ∧ (sRecord.cw.rdS 1).toNat % 2 ^ 24 < (sRecord.job 0).r.hcount) ∧
    (sRecord.owned.has (lineOf 0x20060) = false ∧ (sRecord.acquireLine 0 (lineOf 0x20060) 3).poisoned 0x20060 32 = false) ∧
    (recHandle liveRecord = 0x01000003 ∧ recSpace liveRecord ≠ 0 ∧ recValid (sRecord.job 0).r false liveRecord = true) ∧
    (2 ^ 32 ≤ (sRecord.cw.rdS 3).toNat ∧ (sRecord.job 0).r.hcount ≤ (sRecord.cw.rdS 2).toNat % 2 ^ 24) ∧
    (recSpace (sRecord.cw.regs.rdB 1) ≠ 0 ∧ sRecord.cw.rdS (4 + 3) = 0 ∧ 0xFF0 + 0x10 ≤ recExtent (sRecord.cw.regs.rdB 1) ∧
      recSpace (mkRecord (0x20000 + 0xFF0) 0x10 4 0x21 0) = 1 ∧
      recValid (sRecord.job 0).r false (mkRecord (0x20000 + 0xFF0) 0x10 4 0x21 0 ||| BitVec.ofNat 256 (2 ^ 177)) = true) := by
  refine ⟨rfl, ?_⟩
  simp only [AtOnce, LogRoom]
  repeat' apply And.intro
  all_goals decide +kernel

/-- Blocks or elements of a quantised form through b1, from data in v4. -/
def sQuant (fn : Nat) : State :=
  let s := sMem (modeOf 4 4 5 0) 1
  s.setCw { s.cw with regs := { s.cw.regs with
    b := [(1, BitVec.ofNat 256 (0x20000 + 2 ^ 64 * 4096 + 2 ^ 128 * blockBytes fn + 2 ^ 160 + 2 ^ 164 * blockEsize fn))]
    v := laneVals 1 id ++ laneVals 4 (fun l => 0x3F800000 + 0x123456 * l) } }
def qAs (fn : Nat) (wr : Bool) : List (Nat × Option Nat) :=
  valueOf [] (quantAddresses (sQuant fn) (Fin.ofNat 5 fn) 1 1 wr)
def qLocated (fn : Nat) (wr : Bool) : Res (List (Nat × Located)) :=
  let r := (sQuant fn).cw.regs.rdB 1
  let kind := if wr then AccessKind.write else AccessKind.read
  if (Fin.ofNat 5 fn).val < 3 then
    (sQuant fn).locateGroups (sQuant fn).ctx r kind (blockBytes (Fin.ofNat 5 fn).val) (okLanes (qAs fn wr))
  else (sQuant fn).locateAll (sQuant fn).ctx r kind 1 (okLanes (qAs fn wr))
def qZs (fn : Nat) (wr : Bool) : List (Nat × Located) := valueOf [] (qLocated fn wr)
/-- The same with every exception enabled. -/
def sQuantTraps (fn : Nat) : State :=
  let s := sQuant fn
  s.setCw { s.cw with ctl := { s.cw.ctl with wmode := modeOf 4 4 0 124 } }

theorem witness_QuantisationStoresAndLoads : ∀ fn ∈ [0, 1, 2, 3, 4],
    (∀ wr : Bool, QuantPlaced (sQuant fn) (Fin.ofNat 5 fn) 1 1 wr (qAs fn wr) (qZs fn wr)) ∧ ConstFresh (sQuant fn) ∧
    Calm (sQuant fn) (linesOf (qZs fn true)) ∧
    Clean (sQuant fn) (qZs fn false) ∧ (sQuant fn).memoryOk = true ∧ DataReady (sQuant fn).cw 127 1 4 ∧ AtOnce (sQuant fn) 15 ∧
    LogRoom (sQuant fn) (.vqnt (Fin.ofNat 5 fn) 127 1 1) ∧ LogRoom (sQuant fn) (.vdq (Fin.ofNat 5 fn) 127 1 1) ∧
    (∀ q ∈ quantised (sQuant fn) (Fin.ofNat 5 fn) 4, ∀ e ∈ q.2.2.1, e.2 &&& wmIEN (sQuant fn).cw.ctl.wmode = 0) ∧
    (okRes (quantAddresses (sQuantTraps fn) (Fin.ofNat 5 fn) 1 1 true) = true ∧
      (((quantised (sQuantTraps fn) (Fin.ofNat 5 fn) 4).flatMap fun q => q.2.2.1).filter fun p =>
        p.2 &&& wmIEN (sQuantTraps fn).cw.ctl.wmode != 0) ≠ []) := by
  intro fn hfn
  refine ⟨fun wr => ⟨⟨?_, ok_valueOf ?_⟩, show qLocated fn wr = Except.ok (qZs fn wr) from ok_valueOf ?_, ?_⟩, constFresh_of_none ?_, calm_of ?_, ok_unit ?_, ?_⟩
  all_goals try simp only [DataReady, AtOnce, LogRoom]
  all_goals try cases wr
  all_goals revert fn
  all_goals decide +kernel

/-- Words of a type for atomics, two lanes on each; compared values in v4, new ones after them. -/
def sAtom (ty n : Nat) : State := sShared (modeOf ty 0 0 0) [] n

theorem witness_AtomicsAndCompareAndSwap :
    (∀ p ∈ [(0, 4), (3, 8), (5, 8)],
      Placed (sAtom p.1 p.2) 1 1 p.2 .atomic true (asOf (sAtom p.1 p.2) 1 1 p.2 true) (zsOf (sAtom p.1 p.2) 1 1 p.2 .atomic true) ∧
      Clean (sAtom p.1 p.2) (zsOf (sAtom p.1 p.2) 1 1 p.2 .atomic true) ∧
      (∀ q ∈ [(false, false), (true, false), (false, true), (true, true)],
        okRes ((atHomes (sAtom p.1 p.2) (zsOf (sAtom p.1 p.2) 1 1 p.2 .atomic true) q.1 q.2).unpoisoned 0
          (zsOf (sAtom p.1 p.2) 1 1 p.2 .atomic true)) = true) ∧ ((sAtom p.1 p.2).core 0).far = [] ∧
      (∀ p' ∈ zsOf (sAtom p.1 p.2) 1 1 p.2 .atomic true, ∀ q ∈ p'.2.segs, isHostPlace q.1 = false ∧
        NoDirty (sAtom p.1 p.2) (lineOf q.1)) ∧
      SameOrApart (zsOf (sAtom p.1 p.2) 1 1 p.2 .atomic true) ∧
      (∀ p' ∈ zsOf (sAtom p.1 p.2) 1 1 p.2 .atomic true, (bytePlaces p'.2).Nodup)) ∧
    ((sAtom 3 8).memoryOk = true ∧ (sAtom 3 8).cw.log = [] ∧ (sAtom 3 8).cw.lanes ≠ [] ∧ (sNoLanes 0 4).cw.lanes = []) ∧
    (AtOnce (sAtom 3 8) 15 ∧ LogRoom (sAtom 3 8) (.atom 2 7 126 1 1) ∧ LogRoom (sAtom 3 8) (.acas 124 1 1)) ∧
    (∀ p ∈ zsOf (sWord 0 [] []) 1 1 4 .atomic true, ∀ q ∈ zsOf (sWord 0 [] []) 1 1 4 .atomic true, p.2.segs = q.2.segs → p = q) := by
  refine ⟨fun p hp => ⟨placed_of ?_, ok_unit ?_, ?_, ?_, ?_, ?_, ?_⟩, ?_, ?_, ?_⟩
  all_goals try simp only [AtOnce, LogRoom, NoDirty, SameOrApart]
  all_goals try revert p
  all_goals repeat' apply And.intro
  all_goals decide +kernel

/-! ## Barriers, cells, watches -/

/-- Two warps of a team: team barrier 1 of both (ARR as given), cluster barrier 15 and grid barrier 0 of every computer; the
second warp sleeps for the open phase of `b`. -/
def sBar (arr : Nat) (amask : BitVec 128) (b : BarRef) : State :=
  let jb : Job := { job0 with r := { job0.r with ntb := 4, clusMasks := List.replicate 16 2, gridMasks := List.replicate 16 2 } }
  let w1 : Warp := { warp0 with id := { warp0.id with twarp := 1, twn := 1 }, st := .asleep, wait := .barrier b false true false }
  let bar : Barrier := { memb := 3, exp := 2, arr := arr, amask := amask }
  { state0 with
    slots := [(0, { warp0 with id := { warp0.id with twn := 1 }, regs := { s := [(1, 3), (2, 0xFFFF), (3, 1), (4, 2)] } }), (1, w1)]
    cores := [(0, { state0.core 0 with bars := [(1, bar), (2, { memb := 2, exp := 1 }), (5, { memb := 3, exp := 2 })] })]
    jobs := [(0, { jb with cbars := [(15, { exp := 3 })], gbars := [(0, { exp := 2 })] })] }
/-- The same where the one arrival that lacks completes the phase; the barrier of two with two arrivals counted. -/
def sLast : State := { sBar 1 2 (.team 0 1) with slots := [(0, (sBar 1 2 (.team 0 1)).cw), (1, { warp0 with id := { warp0.id with twarp := 1, twn := 1 } })] }

theorem noneHeld_last : NoneHeld sLast (.team 0 1) := by
  intro key h
  match key, h with
  | 0, _ => exact ⟨rfl, fun ws ph h' => nomatch h'⟩
  | 1, _ => exact ⟨rfl, fun ws ph h' => nomatch h'⟩
  | k + 2, h => simp [sLast, FMap.getD, FMap.look, inScope] at h

theorem witness_arrivals_complete :
    MayArrive sLast 1 1 (.team 0 1) ∧ sLast.arrived sLast.cw (.team 0 1) = false ∧ sLast.cw.notJoined (.team 0 1) = false ∧
    ¬ StaysOpen (sLast.bar (.team 0 1)) ∧ NoneHeld sLast (.team 0 1) ∧ sLast.cw.st = .active ∧ sLast.cur.2 < 128 ∧
    (sLast.barChecks sLast.cw 0 1 1 2 = .ok (.team 0 1) ∧ (sLast.cw.rdS 3).toNat ≤ 128 ∧
      (sLast.cw.rdS 3).toNat ≤ (sLast.bar (.team 0 1)).arr) := by
  refine ⟨⟨by decide +kernel, rfl, by decide +kernel, by decide +kernel⟩, by decide +kernel, by decide +kernel, ?_, noneHeld_last, ?_⟩
  · simp only [StaysOpen]
    decide +kernel
  · exact ⟨by decide +kernel, by decide +kernel, rfl, by decide +kernel⟩

def sTask : State := withWarp fun w => { w with id := { w.id with task := true, role := 3 } }

theorem witness_BarriersAreSetUpAndCounted :
    ((sBar 0 0 (.team 0 1)).barChecks (sBar 0 0 (.team 0 1)).cw 0 1 1 3 = .ok (.team 0 1) ∧
      (sBar 0 0 (.team 0 1)).barChecks (sBar 0 0 (.team 0 1)).cw 0 2 15 3 = .ok (.cluster 0 0 15) ∧
      (sBar 0 0 (.team 0 1)).barChecks (sBar 0 0 (.team 0 1)).cw 0 3 0 3 = .ok (.grid 0 0) ∧
      (sBar 0 0 (.team 0 1)).barChecks (sBar 0 0 (.team 0 1)).cw 0 1 2 3 = .ok (.team 0 2) ∧
      (sBar 0 0 (.team 0 1)).barChecks (sBar 0 0 (.team 0 1)).cw 0 2 15 2 = .ok (.cluster 0 0 15)) ∧
    (selector 1 1 = true ∧ selector 2 15 = true ∧ (sBar 0 0 (.team 0 1)).cw.log = [] ∧
      (∀ b ∈ [BarRef.team 0 1, .cluster 0 0 15, .grid 0 0], (sBar 0 0 b).member (sBar 0 0 b).cw b = true ∧
        (sBar 0 0 b).arrived (sBar 0 0 b).cw b = false ∧ (sBar 0 0 b).cw.notJoined b = false ∧ StaysOpen ((sBar 0 0 b).bar b)) ∧
      (sBar 1 1 (.team 0 1)).arrived (sBar 1 1 (.team 0 1)).cw (.team 0 1) = true ∧
      (sBar 0 0 (.team 0 1)).member (sBar 0 0 (.team 0 1)).cw (.team 0 2) = false ∧ sTask.cw.id.task = true) ∧
    (((sBar 0 0 (.team 0 1)).cw.rdS 2).toNat < 2 ^ 32 ∧ ((sBar 0 0 (.team 0 1)).cw.rdS 1).toNat ≤ 128 ∧
      ((sBar 0 0 (.team 0 1)).bar (.team 0 1)).arr < ((sBar 0 0 (.team 0 1)).cw.rdS 1).toNat) ∧
    ((3 : BitVec 128).toNat < 2 ^ (1 + 1) ∧ (sBar 0 0 (.team 0 1)).freeBar (sBar 0 0 (.team 0 1)).cw 0 = some 4) ∧
    (((sBar 0 0 (.team 0 1)).job 0).r.ntb ≤ (5 : Fin 128).val ∧ ((sBar 0 0 (.team 0 1)).barOpt (.team 0 5)).isSome = true ∧
      ((sBar 0 0 (.team 0 1)).bar (.team 0 5)).arr = 0 ∧ (sBar 0 0 (.team 0 1)).barSleepers (.team 0 5) = false ∧
      ((sBar 0 0 (.team 0 1)).core 0).bars.keys.Nodup ∧ (sBar 0 0 (.team 0 5)).barSleepers (.team 0 5) = true) ∧
    (∀ x ∈ state0.cw.lanes, state0.cw.syncMask 127 x = 0) := by
  refine ⟨⟨rfl, rfl, rfl, rfl, rfl⟩, ?_⟩
  simp only [StaysOpen]
  repeat' apply And.intro
  all_goals decide +kernel

/-- A barrier cell at 0x20000, its expected count 2; one at a remembered phase. -/
def sCell : State :=
  { (withWarp fun w => { w with
      regs := { s := [(2, 0x20000), (3, 100)] }, cells := [(0x20000, false)] }) with
    mem := writeN [] 0x20000 (bytesOf 16 (2 + 2 ^ 32)) }

theorem witness_cells :
    CellAt sCell 2 0x20000 ∧ (atCell (released sCell) 0x20000).poisoned 0x20000 16 = false ∧
    (atCell sCell 0x20000).poisoned 0x20000 16 = false ∧ sCell.poisoned 0x20000 16 = false ∧ sCell.cw.cells.look 0x20000 = some false ∧
    ((sCell.cw.rdS (2 + 1)).toNat ≤ 128 ∧ ((atCell sCell 0x20000).readCell 0x20000).bexp + 100 < 2 ^ 32) := by
  refine ⟨⟨by decide +kernel, by decide +kernel, ⟨true, rfl⟩, ?_, ?_, ?_, ?_⟩, ?_⟩
  all_goals try simp only [LogRoom]
  all_goals decide +kernel

theorem witness_PhaseCompletionWakesItsSleepers :
    ((sBar 1 1 (.team 0 1)).barOpt (.team 0 1)).isSome = true ∧
    (∀ key, inScope key ((sBar 1 1 (.team 0 1)).slots.getD key {}) (.team 0 1) = true →
      (((sBar 1 1 (.team 0 1)).slots.getD key {}).notJoined (.team 0 1) = false ∧
        ∀ ws ph, ((sBar 1 1 (.team 0 1)).slots.getD key {}).wait ≠ .barrier (.team 0 1) true ws ph)) ∧
    (∃ w, (sBar 1 1 (.team 0 1)).slots.look 1 = some w ∧ inScope 1 w (.team 0 1) = true ∧ w.st = .asleep ∧
      w.wait = .barrier (.team 0 1) false true false) := by
  refine ⟨by decide +kernel, fun key h => ?_, ⟨_, rfl, by decide +kernel⟩⟩
  match key, h with
  | 0, _ => exact ⟨rfl, fun ws ph h' => nomatch h'⟩
  | 1, _ => exact ⟨rfl, fun ws ph h' => nomatch h'⟩
  | k + 2, h => simp [sBar, FMap.getD, FMap.look, inScope] at h

/-- A warp with a watch in a state, its deadline in s1, or none. -/
def sWatch (st : WatchState) (dl : W64) : State :=
  let s := sLines
  let v : Watch := { line := 0x20000, scope := 5, st := st }
  { s.setCw { s.cw with watch := some v, regs := { s.cw.regs with s := [(1, dl), (2, 50)] } } with tick := 50 }
def sAsleep (x : Wait) (st : WatchState) : State :=
  let s := sWatch st 50
  s.setCw { s.cw with st := .asleep, wait := x }
theorem witness_WatchesAndDeadlines :
    (sOneLine.addresses sOneLine.ctx 1 1 1 1 false = .ok (asOf sOneLine 1 1 1 false) ∧
      sOneLine.locateAll sOneLine.ctx (sOneLine.cw.regs.rdB 1) .read 1 (okLanes (asOf sOneLine 1 1 1 false)) =
        .ok (zsOf sOneLine 1 1 1 .read false)) ∧
    oneLine (monPlaces sOneLine 1 (asOf sOneLine 1 1 1 false)) = .ok (some 0x20000) ∧
    okRes (oneLine (monPlaces sLines 1 (asOf sLines 1 1 1 false))) = false ∧
    (oneLine (monPlaces sOneLine 1 []) = .ok none ∧ AtOnce sOneLine 15 ∧ LogRoom sOneLine (.mon 5 1 1) ∧ sOneLine.cw.log = []) ∧
    (mwaitReason (sWatch .fired 0).cw 0 50 = some 0 ∧ mwaitReason (sWatch .lost 0).cw 0 50 = some 1 ∧
      mwaitReason (sWatch .armed 50).cw 50 50 = some 2 ∧ mwaitReason sLines.cw 0 50 = some 3 ∧
      mwaitReason (sWatch .armed 51).cw 51 50 = none) ∧
    (((sWatch .armed 50).cw.rdS 1).toNat ≤ (sWatch .armed 50).tick ∧ NoneMissed (sWatch .armed 50) 0 0 0 ∧
      (sWatch .armed 51).tick < ((sWatch .armed 51).cw.rdS 1).toNat) ∧
    ((sAsleep (.watch 3 50) .fired).cw.st = .asleep ∧ (50 : W64) ≠ 0 ∧ (50 : W64).toNat ≤ (sAsleep (.watch 3 50) .armed).tick) ∧
    ((sAsleep (.tick 50 0) .armed).cw.wait = .tick 50 0 ∧ NoneMissed (sAsleep (.tick 50 0) .armed) 0 0 0) := by
  refine ⟨⟨ok_valueOf ?_, ok_valueOf ?_⟩, rfl, ?_, ⟨rfl, ?_⟩, ?_⟩
  all_goals try simp only [AtOnce, LogRoom, NoneMissed]
  all_goals repeat' apply And.intro
  all_goals decide +kernel

/-! ## Futures, tasks, handler warps -/

/-- A future at 0x20040 whose status tag is as given, behind b1 at offset s2; FFILL's four scalars from s4 on; a closure at
0x20100, named by s3, without future, operand or readiness word; n tasks in the bobbin, whose ring holds none. -/
def sFuture (full : Bool) (n : Nat) : State :=
  let s := withRegs 0 [(2, 0x40), (3, 0x100), (5, 77), (6, 0x100)] [] [(1, recOf 1 0x20000 4096 1 0)]
  let jb : Job := { job0 with r := { job0.r with spill := 0, roles := [{ }, { }, { }, { warps := 1 }] } }
  { s with
    mem := writeN (writeN [] 0x20040 (bytesOf 16 (5 + 2 ^ 64 * 0))) 0x20100 (bytesOf 8 (0x400 + 2 ^ 46))
    tags := if full then [(0x20040, true), (0x20048, true)] else [], jobs := [(0, jb)]
    cores := [(0, { s.core 0 with bob := List.replicate n { } })] }
def closureOf (s : State) : List Byte × State := valueOf ([], s) (s.readAt s.ctx 1 0x20100 128)

theorem witness_FuturesAndSpawn :
    ((sFuture true 0).futureCell (sFuture true 0).ctx 1 2 false = .ok 0x20040 ∧
      (sFuture false 0).futureCell (sFuture false 0).ctx 1 2 true = .ok 0x20040 ∧
      (sFuture true 63).uaddr (sFuture true 63).ctx 1 3 128 128 false = .ok 0x20100) ∧
    (sFuture true 63).readAt (sFuture true 63).ctx 1 0x20100 128 =
      .ok ((closureOf (sFuture true 63)).1, (closureOf (sFuture true 63)).2) ∧
    (closureBad (closureOf (sFuture true 63)).1 = false ∧ recSpace ((sFuture true 63).cw.regs.rdB 1) ≠ SP_LANE ∧
      (((sFuture true 63).job 0).r.roles.getD 3 {}).warps ≠ 0) ∧
    ((sFuture true 0).cw.log = [] ∧ (sFuture true 0).owned.has (lineOf 0x20040) = false ∧
      (sFuture true 0).tag (0x20040 + 8) = true ∧ (sFuture false 0).tag (0x20040 + 8) = false ∧
      (seenCell (sFuture true 0) 0x20040).poisoned 0x20040 16 = false ∧
      (wmJFT (sFuture true 0).cw.ctl.wmode && faultStatus (BitVec.ofNat 64 ((seenCell (sFuture true 0) 0x20040).readNat 0x20048 8))) =
        false ∧ (sFuture true 0).memoryOk = true ∧
      LogRoom (sFuture true 0) (.ffill 9 1 4) ∧ AtOnce (sFuture true 0) 15) ∧
    ((sFuture true 0).cw.rdS (4 + 3) = 0 ∧ ((sFuture true 0).cw.rdS (4 + 2)).toNat ≤ 0xFFFF ∧
      faultStatus ((sFuture true 0).cw.rdS (4 + 2)) = false ∧ faultStatus 0xFF = true) ∧
    (((sFuture true 63).core 0).bob.length + ((sFuture true 63).core 0).heldInl < 64 ∧
      ¬ (((sFuture true 64).core 0).bob.length + ((sFuture true 64).core 0).heldInl < 64) ∧
      ¬ (((sFuture true 64).core 0).ring.length + ((sFuture true 64).core 0).heldRing <
        ((sFuture true 64).job ((sFuture true 64).occJob 0)).r.spill)) := by
  refine ⟨⟨rfl, rfl, rfl⟩, ok_valueOf (d := ([], sFuture true 63)) ?_, ?_⟩
  all_goals try simp only [LogRoom, AtOnce]
  all_goals repeat' apply And.intro
  all_goals decide +kernel

/-- A full bobbin whose ring has room. -/
def sSpill : State :=
  let s := sFuture true 64
  { s with jobs := [(0, { s.job 0 with r := { (s.job 0).r with spill := 64 } })] }

theorem witness_spills :
    (sSpill.core 0).far = [] ∧ ((sSpill.job sSpill.cw.id.job).r.roles.getD 3 {}).warps ≠ 0 ∧
    sSpill.uaddr sSpill.ctx 1 3 128 128 false = .ok 0x20100 ∧
    sSpill.readAt sSpill.ctx 1 0x20100 128 = .ok ((closureOf sSpill).1, (closureOf sSpill).2) ∧
    closureBad (closureOf sSpill).1 = false ∧ sSpill.cw.log = [] ∧ LogRoom sSpill (.spawn 9 1 3) ∧
    LogRoom sSpill (.join 8 1 2) ∧ LogRoom sSpill (.ftest 8 1 2) ∧
    ¬ ((sSpill.core 0).bob.length + (sSpill.core 0).heldInl < 64) ∧ (sSpill.core 0).bob ≠ [] ∧
    (sSpill.core 0).ring.length + (sSpill.core 0).heldRing < (sSpill.job (sSpill.occJob 0)).r.spill := by
  refine ⟨?_, ?_, rfl, ok_valueOf (d := ([], sSpill)) ?_, ?_⟩
  all_goals try simp only [LogRoom]
  all_goals decide +kernel

/-- A warp with some lanes live and some in exec, on an open reconvergence point. -/
def sEnding (live exe : W64) (logged : Bool) : State :=
  withWarp fun w => { w with
    ctl := { w.ctl with live := live, path := live, exec := exe, stk := [{ rpc := 0x10100, saved := 0xFF, psaved := 0xFF }] }
    log := if logged then [{ }] else [] }
/-- A task warp: its closure has one operand, written back or not, and no future. -/
def sTasked (wr : Bool) : State :=
  let s := withWarp fun w => { w with
    id := { w.id with task := true, role := 3 }
    task := some { e := { key := 1, adm := 1, line := bytesOf 8 (2 ^ 41 + 2 ^ 46) ++ bytesOf 8 0 ++ bytesOf 16 (if wr then 2 ^ 100 else 0) ++ bytesOf 96 0 } } }
  { s with ranges := [{ adm := 1 }] }

theorem witness_WarpsAndTasksEnd :
    ((sEnding 0xFFFF 0xFF false).cw.ctl.live &&& ~~~(sEnding 0xFFFF 0xFF false).cw.active ≠ 0 ∧
      (sEnding 0xFFFF 0xFF false).cw.id.handler = false) ∧
    ((sEnding 0xFF 0xFF false).cw.ctl.live &&& ~~~(sEnding 0xFF 0xFF false).cw.active = 0 ∧
      (sEnding 0xFF 0xFF false).endBusy 0 0 = false ∧ (sEnding 0xFF 0xFF true).endBusy 0 0 = true) ∧
    (∀ wr : Bool, ∃ rt, (sTasked wr).cw.task = some rt ∧ (sTasked wr).cw.id.task = true ∧ (sTasked wr).busy 0 0 = false ∧
      rt.e.nofut = true ∧ rt.e.adm ≠ 0 ∧ 0 < rt.e.nops ∧ opWr (rt.e.opnd 0) = wr ∧ rt.e.nops = 1) ∧
    state0.cw.task = none ∧ LogRoom (sTasked false) (.tret 5) ∧ (sTasked false).cw.id.handler = false := by
  simp only [LogRoom]
  refine ⟨?_, ?_, fun wr => ⟨_, rfl, ?_⟩, ?_⟩
  case refine_3 => cases wr <;> decide +kernel
  all_goals decide +kernel

/-- A task warp without operands whose future at 0x20040 is empty. -/
def sFilling : State :=
  withWarp fun w => { w with
    id := { w.id with task := true, role := 3 }
    task := some { e := { key := 1, adm := 1, line := bytesOf 8 0 ++ bytesOf 8 0x20040 ++ bytesOf 112 0 } } }

theorem witness_TretFills : ∃ rt, sFilling.cw.task = some rt ∧ sFilling.cw.id.task = true ∧ sFilling.cw.id.handler = false ∧
    LogRoom sFilling (.tret 5) ∧ sFilling.busy 0 0 = false ∧ rt.e.nops = 0 ∧ rt.e.nofut = false ∧ sFilling.memoryOk = true ∧
    (sFilling.core 0).far = [] ∧ sFilling.wordAt 0 sFilling.cw.id.part .tagWrite (BitVec.ofNat 64 rt.e.fut).toNat = .at 0x20040 ∧
    sFilling.tag (0x20040 + 8) = false := by
  simp only [LogRoom]
  refine ⟨_, rfl, ?_, ?_, ?_, ?_, ?_, ?_, ?_, ?_, rfl, ?_⟩
  all_goals decide +kernel

/-- A handler warp in slot 0 whose lane 31 alone is live and carries lane 63 of the HELD warp in slot 1. -/
def sServing (res : W32) (active : W64) : State :=
  let o : Origin := { lane := 63, slot := 1, sgen := 5 }
  let h := withWarp fun w => { w with
    id := { w.id with handler := true, width := 32 }, ctl := { w.ctl with exec := 0x80000000, live := 0x80000000, path := 0x80000000 }
    regs := { v := [(64 * 3 + 31, res), (64 * 4 + 31, 4)] }, origins := [(31, o)] }
  let v : Warp := { warp0 with
    st := .held, gen := 5, id := { warp0.id with width := 64 }
    ctl := { warp0.ctl with live := BitVec.allOnes 64, path := BitVec.allOnes 64, exec := active }
    trap := { mask := laneBit 63, pc := 0x10000, cause := 3, cont := 0x10004, active := active
              recs := [(63, { cause := 3, lane := 63, pc := 0x10000, cont := 0x10004, mask := laneBit 63 })] } }
  h.setWarp 0 1 v

/-- The origin's warp, and the handler's. -/
def served : Warp := (sServing 0 (laneBit 63)).warp 0 1
def server : Warp := (sServing 0 (laneBit 63)).cw

theorem serves_last_lane : Serves (sServing 0 (laneBit 63)) 3 31 { lane := 63, slot := 1, sgen := 5 } := by
  refine ⟨?_, ?_, ?_, ?_, ?_, ?_, ?_, ?_, ?_, ?_, ?_, ?_, ?_, ?_, ?_, ?_, ?_, ?_, ?_⟩
  all_goals decide +kernel

theorem witness_TrapHandlersReturnAndReadRecords :
    Serves (sServing 0 (laneBit 63)) 3 31 { lane := 63, slot := 1, sgen := 5 } ∧
    ((sServing 3 (laneBit 63)).cw.rdV 3 31 = 3 ∧ server.rdV 3 31 = 0) ∧
    (served.trap.active = laneBit 63 ∧ served.ctl.live &&& ~~~(laneBit 63) ≠ 0) ∧
    (∀ l ∈ server.lanes, ((sServing 0 (laneBit 63)).trecItem server 4 6 l).isSome = true) ∧ served.bad = [] ∧
    (server.origins.keys = [31] ∧ 30 + 1 < server.vregs) ∧ state0.cw.id.handler = false := by
  refine ⟨serves_last_lane, ?_, ?_, ?_, ?_, ?_, ?_⟩
  all_goals decide +kernel

/-- It with another live lane outside the execution mask, on an open reconvergence point. -/
def sServingMore : State :=
  let s := sServing 0 (laneBit 63)
  s.setCw { s.cw with ctl := { s.cw.ctl with live := 0x80000001, path := 0x80000001, stk := [{ }] } }

theorem origins_elsewhere : OriginsElsewhere (sServing 0 (laneBit 63)) ∧ OriginsElsewhere sServingMore := by
  constructor
  all_goals
    intro l o h
    by_cases hl : l = 31
    · subst hl
      cases h
      decide +kernel
    · have : (none : Option Origin) = some o := by
        rw [← h]
        show none = FMap.look [(31, _)] l
        simp [FMap.look, hl]
      cases this

theorem witness_TresRetiresItsLanes :
    (ExitEnds (sServing 0 (laneBit 63)).cw ∧ ¬ ExitEnds sServingMore.cw) ∧
    (3 < server.vregs ∧ server.id.handler = true ∧ server.id.task = false ∧ (∀ l ∈ server.lanes, (server.rdV 3 l).toNat % 4 ≠ 3) ∧
      (sServing 0 (laneBit 63)).endBusy 0 0 = false ∧ sServingMore.endBusy 0 0 = false ∧
      (∀ l ∈ sServingMore.cw.lanes, (sServingMore.cw.rdV 3 l).toNat % 4 ≠ 3)) ∧
    OriginsElsewhere (sServing 0 (laneBit 63)) ∧ OriginsElsewhere sServingMore := by
  simp only [ExitEnds]
  exact ⟨by decide +kernel, by decide +kernel, origins_elsewhere⟩

/-! ## Capsules -/

/-- The record at 0x20200 (OWNER, STATE, ADOPTIONS as given, ENTRY 0x40) and a warp of generation 5 with the operands of CENTER,
c1 an address; in the capsule or not, waiting or not. -/
def sCap (owner st adopt : Nat) (cap : Option Capsule) (wait : Wait) : State :=
  let s := withWarp fun w => { w with
    gen := 5, cap := cap, wait := wait
    ctl := { w.ctl with pc := 0x10040 }
    regs := { s := [(4, 0x200), (5, 0x20300)], c := [(1, 0x20080), (2, 7)], b := [(1, recOf 1 0x20000 4096 1 0)] } }
  { s with
    mem := writeN (writeN [] 0x20200 (bytesOf 8 (owner + 2 ^ 48 * st + 2 ^ 57 * adopt))) 0x20208 (bytesOf 8 0x40)
    capJobs := [(0x20200, 0)], notices := [0x20200], kills := [{ va := 0x20200, ident := 9 }] }
def inCap : Capsule := { record := 0x20200, save := 0x20300, ret := 0x10004, dest := 3, entry := 0x10040, count := 31, cf := true }
def enter0 : Enter := { place := 0x20200, va := 0x20200, save := 0x20300, d := 8 }
def waits (phase lock : Nat) : Wait := .contend phase lock 0x20200 0x20300 8

/-- What the checks of CENTER answer. -/
def entered : Enter × Nat × State :=
  valueOf (enter0, 0, state0) ((sCap 0 0 0 none .none).centerChecks (sCap 0 0 0 none .none).ctx 8 1 4)

def recordAtB (s : State) (c part : Nat) (va : W64) (place : Nat) : Bool :=
  match s.heldLeaf c (tlbKey part false va.toNat) with
  | some e => permits e .atomic && leafPlace e 0 va.toNat == place
  | none => false

theorem recordAt_of {s : State} {c part : Nat} {va : W64} {place : Nat} (h : recordAtB s c part va place = true) :
    RecordAt s c part va place := by
  unfold recordAtB at h
  split at h
  · simp only [Bool.and_eq_true, beq_iff_eq] at h
    exact ⟨_, ‹_›, h.1, h.2⟩
  · cases h

theorem witness_capsule_inside :
    (sCap 0 0 0 none .none).cw.cap = none ∧ Inside (sCap 5 1 0 (some inCap) .none) inCap ∧
    (sCap 5 1 0 (some inCap) .none).translate 0 0 false .read 0x20080 = .ok 0x20080 true false ∧
    (((sCap 5 1 0 (some inCap) .none).cw.regs.rdC 1).toNat % 2 ^ 3 = 0 ∧
      ((sCap 5 1 0 (some inCap) .none).cw.regs.rdC 1).toNat < 2 ^ 57 ∧ inCap.dead = false ∧ inCap.store = none ∧
      (sCap 5 1 0 (some inCap) .none).owned.has (lineOf 0x20080) = false ∧
      (acquiredHome (sCap 5 1 0 (some inCap) .none) 0x20080 8).poisoned 0x20080 8 = false) ∧
    ((1023 : BitVec 25).toInt = 1023 ∧ (1 : BitVec 25).toInt = 1) := by
  refine ⟨by decide +kernel, ⟨rfl, by decide +kernel⟩, rfl, ?_, ?_⟩
  all_goals decide +kernel

theorem witness_capsule_enters :
    (sCap 0 0 0 none .none).centerChecks (sCap 0 0 0 none .none).ctx 8 1 4 = .ok (entered.1, entered.2.1, entered.2.2) ∧
    ((sCap 0 0 0 none .none).cw.active ≠ 0 ∧ (sNoLanes 0 4).cw.active = 0 ∧ (sCap 0 0 0 none .none).late.headD false = false ∧
      (sCap 0 0 0 none .none).memoryOk = true ∧ (sCap 0 0 0 none .none).cw.log = [] ∧ (sCap 0 0 0 none .none).cw.fdsq = []) ∧
    LogRoom (sCap 0 0 0 none .none) (.center 8 1 4) ∧
    (((entered.2.2.emptyArea entered.2.1).acquireRec 0 entered.1.place).readRec entered.1.place).st = 0 := by
  have h : okRes ((sCap 0 0 0 none .none).centerChecks (sCap 0 0 0 none .none).ctx 8 1 4) = true := by decide +kernel
  refine ⟨show _ = Except.ok entered from ok_valueOf h, ?_⟩
  simp only [LogRoom]
  decide +kernel

theorem owns_of {s : State} {op : Nat} {cp : Capsule} {place : Nat}
    (h : recordAtB s 0 (s.warp 0 0).id.part cp.record place = true)
    (h' : (s.readRec place).owner = s.me 0 0 ∧ cp.store = none ∧ (s.readRec place).step = cp.step ∧ (s.readRec place).st = 1 ∧
      cp.step < 64) : Owns s 0 0 op place cp := ⟨recordAt_of h, h'.1, h'.2.1, fun _ => h'.2.2⟩

theorem witness_capsule_commits : ∀ op ∈ [0, 1, 2],
    Owns (released (sCap 5 1 0 (some inCap) .none)) 0 0 op 0x20200 inCap ∧
    Owns (sCap 5 1 0 (some inCap) (.commit op false)) 0 0 op 0x20200 inCap ∧
    ((sCap 5 1 0 (some inCap) .none).cw.log = [] ∧ (sCap 5 1 0 (some inCap) .none).late.headD false = false ∧ inCap.pages = [] ∧
      inCap.rebind = none ∧ inCap.lost = false ∧ (sCap 5 1 0 (some inCap) (.commit op false)).cw.st = .active ∧
      ((sCap 5 1 0 (some inCap) (.commit op false)).core 0).l1.dirty = []) := by
  refine fun op h => ⟨owns_of ?_ ?_, owns_of ?_ ?_, ?_⟩
  all_goals revert op
  all_goals decide +kernel

theorem witness_capsule_contenders :
    (∀ ph ∈ [0, 1, 2, 3, 4, 5, 6], Contends (sCap 9 1 3 (some inCap) (waits ph (9 + 2 ^ 48))) 0 0 ph (9 + 2 ^ 48) enter0) ∧
    (((sCap 0 0 0 none (waits 0 0)).acquireRec 0 0x20200).readRec 0x20200).st = 0 ∧
    ((sCap 9 1 3 (some inCap) .none).wordAt 0 0 .tagWrite 0x20300 = .at 0x20300) ∧
    ((sCap 9 1 3 (some inCap) (waits 6 0)).acquireRec 0 0x20200).poisoned 0x20200 192 = false ∧
    ((sCap 9 1 3 (some inCap) .none).readRec 0x20200).owner = (9 + 2 ^ 48) % 2 ^ 48 ∧
    (((sCap 9 1 3 (some inCap) .none).readRec 0x20200).adopt < 4 ∧ 4 ≤ ((sCap 9 1 4 (some inCap) .none).readRec 0x20200).adopt ∧
      ((sCap 9 1 3 (some inCap) .none).readRec 0x20200).ival = false) ∧
    (0x20200 ∈ (sCap 9 1 0 none .none).notices ∧
      (sCap 9 1 0 none .none).kills = [{ va := (0x20200 : BitVec 64).toNat, ident := (9 : BitVec 48).toNat }] ∧
      ((sCap 9 1 0 none .none).readRec 0x20200).owner = 9 ∧ ((sCap 8 1 0 none .none).readRec 0x20200).owner ≠ 9 ∧
      ((sCap 9 1 0 none .none).core 0).l1.dirty = []) ∧ RecordAt (sCap 9 1 0 none .none) 0 0 0x20200 0x20200 ∧
    ((sCap 9 1 0 none (.record 0x20200 9)).slots.look 0 = some (sCap 9 1 0 none (.record 0x20200 9)).cw ∧
      (sCap 9 1 0 none (.record 0x20200 9)).cw.wait = .record 0x20200 9) ∧
    ((sCap 9 1 0 (some { inCap with rebind := some 9 }) .none).cw.cap = some { inCap with rebind := some 9 }) := by
  refine ⟨fun ph hp => ⟨?_, rfl, recordAt_of ?_⟩, ?_, rfl, ?_, ?_, ?_, ?_, recordAt_of ?_, ?_, ?_⟩
  · revert ph
    decide +kernel
  · revert ph
    decide +kernel
  all_goals repeat' apply And.intro
  all_goals decide +kernel

theorem witness_CapsulesRunAndCommit : ∃ s cp, Inside s cp ∧ Owns (released s) s.cur.1 s.cur.2 0 0x20200 cp :=
  ⟨sCap 5 1 0 (some inCap) .none, inCap, ⟨rfl, by decide +kernel⟩, (witness_capsule_commits 0 (by decide)).1⟩

end Sys2Proof.Tests
end

