-- ==== Sys2Proof/Tests/WitnessTasks.lean ====
section
/-! SUPPORT. States that meet the hypotheses of the statements about engines, tasks, teams, the fabric and pages. -/

namespace Sys2Proof.Tests

open Sys2Proof Sys2Proof.Machine Sys2Proof.Slice0

set_option maxRecDepth 100000
set_option Elab.async false

/-! ## Engine commands, the matrix engine, the operand log -/

/-- A descriptor (R336, R340, R346) from its fields: offset, bytes, value. -/
def descBytes (fs : List (Nat × Nat × Nat)) : FMap Byte :=
  fs.foldl (fun m f => writeN m (0x20100 + f.1) (bytesOf f.2.1 f.2.2)) []
/-- The tensor of 16 elements of 4 bytes. -/
def tensorFields (word x : Nat) : List (Nat × Nat × Nat) :=
  [(0, 8, word + 4096 * 2), (8, 8, 0x40), (24, 8, x), (32, 4, 16), (72, 8, 4), (144, 8, 4)]
def rowFields (word : Nat) : List (Nat × Nat × Nat) :=
  [(0, 8, word), (8, 8, 0x40), (24, 8, 0x80), (32, 4, 8), (36, 4, 2), (40, 8, 8), (48, 8, 8)]
def fieldsOf : Nat → List (Nat × Nat × Nat)
  | 1 => rowFields (1 + 16 * 2 + 256 * 4)
  | 2 => rowFields (1 + 16 * 2 + 256 * 4)
  | 3 => tensorFields (1 + 16 * 3 + 2 ^ 16) 0
  | 4 => tensorFields (1 + 2 ^ 32 * 5) 0
  | 5 => tensorFields (16 * 2 + 2 ^ 32 * 5) 0
  | 6 => [(0, 8, 5 + 16 * 1 + 256 * 2 + 2 ^ 16 * 4 + 2 ^ 20 * 4), (16, 8, 0x40), (24, 8, 0x80), (32, 4, 2), (36, 4, 16), (40, 8, 64), (48, 8, 64), (56, 8, 64)]
  | _ => tensorFields (1 + 16 * 2) 0

/-- A job with a handle table at 0x21000 and the descriptor of a kind at 0x20100, behind b1 at offset s2. -/
def sCmd (kind : Nat) : State :=
  let s := withRegs 0 [(2, 0x100), (3, 32)] []
    [(1, recOf 1 0x20000 4096 1 0), (2, recOf 1 0x23000 4096 1 0), (3, recOf 3 0x200 1024 1 0), (4, recOf 1 0x22000 4096 1 0),
      (5, recOf 1 0x24000 4096 1 0)]
  { s with
    mem := descBytes (fieldsOf kind)
    cores := [(0, { core0 with tlb := tlb0 ++ [(0x24, 0x2407F)] })]
    jobs := [(0, { job0 with r := { job0.r with hbase := 0x21000, hcount := 4 } })] }
def descOf (s : State) (n : Nat) : List Byte × State := valueOf ([], s) (s.readAt s.ctx 1 0x20100 n)
def descResult (kind : Nat) : CmdDesc :=
  valueOf ({} : CmdDesc) (descChecks (descOf (sCmd kind) (descSize kind)).2 (sCmd kind).ctx kind (descOf (sCmd kind) (descSize kind)).1)

theorem witness_CommandsAreIssued :
    ∀ kind : Fin 7, ((sCmd kind.val).entryFor (sCmd kind.val).cur.1).isSome = true ∧ (sCmd kind.val).cw.log = [] ∧
      ((sCmd kind.val).core 0).far = [] ∧ LogRoom (sCmd kind.val) (.command kind 8 1 2) ∧
      (sCmd kind.val).uaddr (sCmd kind.val).ctx 1 2 (descSize kind.val) 8 false = .ok 0x20100 ∧
      (sCmd kind.val).readAt (sCmd kind.val).ctx 1 0x20100 (descSize kind.val) =
        .ok ((descOf (sCmd kind.val) (descSize kind.val)).1, (descOf (sCmd kind.val) (descSize kind.val)).2) ∧
      descChecks (descOf (sCmd kind.val) (descSize kind.val)).2 (sCmd kind.val).ctx kind.val
        (descOf (sCmd kind.val) (descSize kind.val)).1 = .ok (descResult kind.val) ∧
      (descOf (sCmd kind.val) (descSize kind.val)).2.heldEntry (sCmd kind.val).ctx = none ∧
      (descOf (sCmd kind.val) (descSize kind.val)).2.entryFor 0 = some 0 := by
  simp only [LogRoom]
  intro kind
  refine ⟨?_, ?_, ?_, ?_, ?_, ok_valueOf (d := ([], sCmd kind.val)) ?_, ok_valueOf (d := ({} : CmdDesc)) ?_, ?_, ?_⟩
  case refine_5 => revert kind; exact fun k => match k with | 0 => rfl | 1 => rfl | 2 => rfl | 3 => rfl | 4 => rfl | 5 => rfl | 6 => rfl
  all_goals revert kind; decide +kernel

/-- A warp whose history holds the command of number s3, with a code; the command runs when the code is 0. -/
def runningCmd : Cmd := { kind := 0, slot := 0, sgen := 0, id := 32, promise := 5, d := descResult 0, chunks := 0 }
def sHist (code : Nat) (x : Cmd) : State :=
  let s := (sCmd 0).setWarp 0 0 { (sCmd 0).cw with hist := [{ id := 32, kind := 0, promise := 5, code := code, chunks := 1 }] }
  { s.setCore 0 { s.core 0 with cmds := [(0, x)], l1 := {} } with tick := 10 }

theorem witness_commands_asked :
    LogRoom (sCmd 0) (.shcan 7 3) ∧ LogRoom (sHist 0 runningCmd) (.shqry 8 3) ∧ (sCmd 0).cw.hist.find? (fun h => h.id == ((sCmd 0).cw.rdS 3).toNat) = none ∧
    (∀ code ∈ [0, 1, 4], ((sHist code runningCmd).cw.hist.find? (fun h => h.id == ((sHist code runningCmd).cw.rdS 3).toNat)) =
      some { id := 32, kind := 0, promise := 5, code := code, chunks := 1 }) ∧
    (sHist 0 runningCmd).findCmd 0 0 (sHist 0 runningCmd).cw.gen 32 = some (0, runningCmd) := by
  simp only [LogRoom]
  decide +kernel

/-- Tables at 0x1000, whose leaf of level 2 maps the first GiB to itself, readable, writable, executable and tagged. -/
def tables (m : FMap Byte) : FMap Byte :=
  writeN (writeN (writeN m 0x1000 (bytesOf 8 0x2001)) 0x2000 (bytesOf 8 0x3001)) 0x3000 (bytesOf 8 0x3F)

/-- The partition with every channel group and those tables. -/
def partFe : Partition := { part0 with chan := BitVec.allOnes 64, ptbase := 0x1000 }

/-- A request of package 7 for one byte of the record of entry 1 of the handle table at 0x21000, which names 0x23000. -/
def req0 (put : Bool) (lowest : Int) : RemoteReq :=
  { put := put, pkg := 7, djid := 9, handle := 1, first := true, lowest := lowest, highest := 16, cells := [(3, 0xAB)], signal := none }
def sPeer : State :=
  let s := sCmd 0
  { s with
    parts := [(0, partFe)]
    jobs := [(0, { job0 with peers := [7], r := { job0.r with hbase := 0x21000, hcount := 4, djid := 9 } })]
    mem := tables (writeN (writeN [] 0x21020 (bytesOf 32 (recOf 1 0x23000 4096 1 0).toNat)) 0x21038 (bytesOf 4 1)) }

/-- The handles of a command read again; the one of entry 1 read for package 7, and the record. -/
def again (x : Cmd) : HandleState × State := (sHist 0 x).checkHandles 0 x.ident.job (x.handleError 0) x.handles
def peer (put : Bool) : HandleState × State := sPeer.checkHandle frontEnd 0 0 1 (remoteLog 0 (req0 put 0))
def peerRec (put : Bool) : BufRec × State := remoteRecord (peer put).2 0 (req0 put 0) 0x21020

/-- A command of rows with its index list, or with one that is refused. -/
def rowsCmd (bad : Bool) : Cmd := { runningCmd with kind := 1, d := descResult 1, rows := some (if bad then [2 ^ 31] else [0, 1]) }
/-- The command with a record of a handle beyond the table. -/
def revokedCmd : Cmd :=
  { runningCmd with d := { (descResult 0) with src := (descResult 0).src ||| BitVec.ofNat 256 (2 ^ 192 * 5) } }

theorem witness_CommandsMoveTheirChunks :
    (∀ x ∈ [runningCmd, { runningCmd with kind := 3, d := descResult 3 }, { runningCmd with kind := 6, d := descResult 6 }],
      Ready (sHist 0 x) 0 0 x ∧ (again x).1 = .good ∧ x.chunks < x.chunkCount ∧ (again x).2.chunkFaults x 0 x.chunks = [] ∧
      (∀ l ∈ (again x).2.chunkLines x 0 x.chunks, (again x).2.heldBefore (cmdKey 0 0) x.order l = false) ∧
      ((again x).2.remoteAnswer x).1 = 0) ∧
    (((sHist 0 { runningCmd with dead := true }).core 0).cmds.look 0 = some { runningCmd with dead := true } ∧
      Holds (sHist 0 runningCmd) 0 runningCmd ∧ runningCmd.ready = true ∧ runningCmd.counted = false ∧ runningCmd.promise < 10 ∧
      runningCmd.expired (sHist 0 runningCmd).tick = true) ∧
    (Ready (sHist 0 (rowsCmd true)) 0 0 (rowsCmd true) ∧ (rowsCmd true).rowsBad = true ∧ (rowsCmd false).rowsBad = false ∧
      (rowsCmd false).rows.isSome = true) ∧
    ((sHist 0 revokedCmd).checkHandles 0 revokedCmd.ident.job (revokedCmd.handleError 0) revokedCmd.handles).1 = .revoked ∧
    (sCmd 0).peerJob 9 7 = none ∧
    (∃ jb, sPeer.memoryOk = true ∧ sPeer.peerJob 9 7 = some (0, jb) ∧ jb.part = 0 ∧ jb.r.hbase = 0x21000) ∧
    ∀ put : Bool, (peer put).1 = .good ∧ (peer put).2.translate frontEnd 0 false .engineRead 0x21020 = .ok 0x21020 true false ∧
      Admits (peerRec put).1 (req0 put 0) ∧ ¬ Admits (peerRec put).1 (req0 put (-1)) ∧
      (remoteByte (peerRec put).2 0 0 put (peerRec put).1 3).segs = [(0x23003, 1)] ∧
      (remoteByte (peerRec put).2 0 0 put (peerRec put).1 3).faults = [] ∧
      isHostPlace 0x23003 = false ∧ (peerRec put).2.owned.has (lineOf 0x23003) = false := by
  simp only [Ready, Holds, Admits]
  refine ⟨by decide +kernel, by decide +kernel, by decide +kernel, by decide +kernel, by decide +kernel,
    ⟨_, by decide +kernel, rfl, rfl, rfl⟩, ?_⟩
  decide +kernel

/-- v3's format is F16 by F16 to F32 of the smallest shape; s4 and s5 name the operands, in b3's scratchpad; lane 1's format differs
when asked. -/
def sMma (differs : Bool) (lanes : W64) : State :=
  let s := withRegs 0 [(4, 3 + 2 ^ 36 * 32), (5, 3 + 2 ^ 36 * 32)]
    (laneVals 3 fun l => if differs && l == 1 then 5 else 0x466) [] 
  s.setWarp 0 0 { s.cw with
    regs := { s.cw.regs with b := [(3, recOf 3 0 4096 1 0)] }
    ctl := { s.cw.ctl with exec := lanes } }
def mmaResult : State × Nat × FMap W32 :=
  valueOf (sMma false 0xF, 0, []) ((sMma false 0xF).mmaIssue 4 4 true ((sMma false 0xF).cw.rdV 3 0) (sMma false 0xF).ctx)
def mmaEntry0 (passed : Bool) : MmaEntry := { core := 0, slot := 0, sgen := 0, num := 0, acc := 4, n := 16, lanes := 0xF, rows := [(256, 7)], passed := passed }
def sTable (passed : Bool) : State := { sMma false 0xF with mma := [(0, [mmaEntry0 passed])] }

theorem witness_MatrixPassesWriteTheirRows :
    (4 < (sMma false 0xF).cw.vregs ∧ 3 < (sMma false 0xF).cw.vregs ∧ (sMma false 0).cw.lanes = []) ∧
    ((sMma false 0xF).cw.lanes = 0 :: [1, 2, 3] ∧ (∀ i ∈ [1, 2, 3], (sMma false 0xF).cw.rdV 3 i = (sMma false 0xF).cw.rdV 3 0) ∧
      ((sMma false 0xF).mmaTable 0).length < 16) ∧
    (sMma false 0xF).mmaIssue 4 4 true ((sMma false 0xF).cw.rdV 3 0) (sMma false 0xF).ctx =
      .ok (mmaResult.1, mmaResult.2.1, mmaResult.2.2) ∧
    (LogRoom (sMma false 0xF) (.mma 4 3 4 true) ∧ LogRoom (sMma true 0xF) (.mma 4 3 4 true)) ∧
    ((sMma true 0xF).cw.lanes = 0 :: [1, 2, 3] ∧ ∃ i ∈ [1, 2, 3], (sMma true 0xF).cw.rdV 3 i ≠ (sMma true 0xF).cw.rdV 3 0) ∧
    ((sTable false).mmaTable 0 ≠ [] ∧ (∀ e ∈ (sTable false).mmaTable 0, e.passed = false)) ∧
    ((sTable true).mmaTable 0).find? (fun e => e.passed) = some (mmaEntry0 true) ∧
    (((sTable true).warp 0 0).gen = (mmaEntry0 true).sgen ∧ ((sTable true).warp 0 0).st ≠ .free) := by
  refine ⟨by decide +kernel, by decide +kernel, ok_valueOf (d := (sMma false 0xF, 0, [])) (by decide +kernel), ?_, by decide +kernel, ?_⟩
  all_goals try simp only [LogRoom]
  all_goals decide +kernel

/-- A load that was issued and waits in the log; a write-back of host lines; one through a null record; LDFE of an empty word; a
warp that has waited. -/
def logged0 (op : LongOp) : LogEntry :=
  { num := 3, op := op, active := 1, regs := { b := [(1, recOf 1 0x20000 4096 1 0), (2, recOf 6 0x20000 4096 1 0), (3, recOf 1 0x20000 4096 8 0)] } }
def sEntry (e : LogEntry) : State := withWarp fun w => { w with log := [e], logNum := 4 }
def sWaited : State := withWarp fun w => { w with ctl := { w.ctl with wait := 256 } }
def loadOp : LongOp := .load 0 5 6 1
def nullOp : LongOp := .load 0 5 6 7
def wordOp0 : LongOp := .word 0 4 6 3
def hostOp : LongOp := .cache 1 6 2
def performed (e : LogEntry) (ack : Bool) : Res State := (sEntry e).performEntry 0 0 e ack
def doneOp (op : LongOp) (ack : Bool) : State := valueOf state0 (performed (logged0 op) ack)
def trapOf (e : LogEntry) : TrapInfo :=
  match performed e false with
  | .error (.trap t) => t
  | _ => { cause := 0, sub := 0 }
def trapsB (e : LogEntry) : Bool :=
  match performed e false with
  | .error (.trap _) => true
  | _ => false

theorem performed_trap {e : LogEntry} (h : trapsB e = true) : performed e false = .error (.trap (trapOf e)) := by
  unfold trapsB trapOf at *
  split at h
  · rename_i t h'
    rw [h']
  · cases h

theorem witness_late_loads : let s : State := { sMem 0 4 with late := [true] }
    DataReady s.cw 124 1 4 ∧ LogRoom s (.load 4 124 1 1) ∧ s.late.headD false = true ∧
    Placed s 1 1 4 .read false (asOf s 1 1 4 false) (zsOf s 1 1 4 .read false) ∧ Clean s (zsOf s 1 1 4 .read false) := by
  refine ⟨?_, ?_, ?_, placed_of ?_, ok_unit ?_⟩
  all_goals try simp only [DataReady, LogRoom]
  all_goals decide +kernel

theorem witness_LoggedInstructionsComplete :
    (∀ op ∈ [loadOp, wordOp0], ((sEntry (logged0 op)).warp 0 (0 % 66)).log[0 / 66]? = some (logged0 op) ∧
      (logged0 op).dead = none ∧ (logged0 op).pages = [] ∧ ((sEntry (logged0 op)).warp 0 0).sleepsIn ≠ some (logged0 op) ∧
      ((doneOp op false).warp 0 0).st = (if op = loadOp then .active else .asleep) ∧ op.sleeps = decide (op ≠ loadOp)) ∧
    (∀ x y q z, loadOp ≠ .mma x y q z ∧ wordOp0 ≠ .mma x y q z ∧ nullOp ≠ .mma x y q z) ∧
    performed (logged0 loadOp) false = .ok (doneOp loadOp false) ∧ performed (logged0 wordOp0) false = .ok (doneOp wordOp0 false) ∧
    performed (logged0 nullOp) false = .error (.trap (trapOf (logged0 nullOp))) ∧
    ((sEntry (logged0 nullOp)).canTrap 0 0 (logged0 nullOp) = true ∧ nullOp.sleeps = false ∧
      (sEntry { logged0 loadOp with dead := some (6, 1, 0x20) }).canTrap 0 0 { logged0 loadOp with dead := some (6, 1, 0x20) } = true) ∧
    ((List.range 66).findSome? (fun k => (((sEntry (logged0 hostOp)).warp 0 k).log.find? LogEntry.hostWait).map fun e => (k, e))) =
      some (0, logged0 hostOp) ∧
    performed (logged0 hostOp) true = .ok (doneOp hostOp true) ∧
    (256 ≤ (sWaited.warp 0 0).ctl.wait ∧ (sWaited.warp 0 0).ctl.promo = false ∧ (sWaited.warp 0 0).st = .active) := by
  refine ⟨by decide +kernel, (fun x y q z => ⟨nofun, nofun, nofun⟩), ok_valueOf (d := state0) (by decide +kernel),
    ok_valueOf (d := state0) (by decide +kernel), performed_trap (by decide +kernel), by decide +kernel, by decide +kernel,
    ok_valueOf (d := state0) (by decide +kernel), by decide +kernel⟩

/-! ## Tasks and steals -/

/-- A closure's 128 bytes: operands, one readiness word at 0x20048 when asked, the future at 0x20040, arguments 11 to 14. -/
def closure (nops nrdy : Nat) (o : Nat) : List Byte :=
  bytesOf 8 (0x400 + 2 ^ 41 * nops + 2 ^ 43 * nrdy) ++ bytesOf 8 0x20040 ++ bytesOf 16 o ++ bytesOf 32 0 ++ bytesOf 32 0x20048 ++
  bytesOf 8 11 ++ bytesOf 8 12 ++ bytesOf 8 13 ++ bytesOf 8 14
/-- One row of four F32 elements at an offset of the record of handle 0. -/
def operand (off : Nat) : Nat := 2 ^ 32 * off + 2 ^ 84 * 3 + 2 ^ 96 * 4 + 2 ^ 100
def task0 : TaskEntry := { key := 5, line := closure 1 0 (operand 0x80), order := some 1 }
def taskRec : BitVec 256 := recOf 1 0x20000 4096 1 0

/-- A core of a job with a task role, a handle table at 0x21000 whose entry 0 is that record, and these entries. -/
def sBob (bob ring : List TaskEntry) : State :=
  let s := withWarp id
  { s with
    mem := writeN [] 0x21000 (bytesOf 32 taskRec.toNat)
    tags := [(0x20048, true)]
    cores := [(0, { core0 with places := 3, bob := bob, ring := ring, monitor := [lineOf 0x20048], dying := [(some 1, [])] })]
    jobs := [(0, { job0 with r := { job0.r with hbase := 0x21000, hcount := 4, stage := 4, roles := [{ }, { }, { }, { warps := 2 }] } })] }
def waits0 : TaskEntry := { task0 with line := closure 1 1 (operand 0x80), order := none }

/-- The records that admission reads, where it does. -/
def admitted (r : AdmitCheck) : Option (List BufRec) := match r with | .ok rs => some rs | _ => none

theorem ok_admitted {r : AdmitCheck} {rs : List BufRec} (h : admitted r = some rs) : r = .ok rs := by
  cases r <;> simp_all [admitted]

theorem witness_TasksBecomeReady :
    (lineOf 0x20048 ∈ ((sBob [waits0] []).core 0).monitor ∧ waits0.nrdy = 1 ∧ lineOf (waits0.rdy 0) = lineOf 0x20048 ∧ waits0.dead = none ∧
      waits0.seen ≤ 1 ∧ (((sBob [waits0] []).core 0).bob.filter fun y => y.st == .waiting && decide (lineOf 0x20048 ∈ y.lines)) = [waits0] ∧
      ((sBob [waits0] []).core 0).findTask waits0.key = some waits0) ∧
    (sBob [waits0] []).wordAt 0 ((sBob [waits0] []).job 0).part .tagRead (waits0.rdy 0) = .at 0x20048 ∧
    (((sBob [task0] []).core 0).bob[0]? = some task0 ∧ FirstReady (sBob [task0] []) 0 task0 ∧
      (sBob [task0] []).rangesFit 0 task0.parent (taskRanges 0 0 0 task0.ops [taskRec]) = true) ∧
    (∃ u, (sBob [task0] []).admitOps 0 0 0 task0.ops = (.ok [taskRec], u)) ∧
    (((sBob [{ task0 with st := .staging }] []).core 0).bob[0]? = some { task0 with st := .staging }) ∧
    (((sBob [] [task0]).core 0).ring = [task0] ∧ ((sBob [] [task0]).core 0).bob.length < 32 ∧
      (sBob [] [task0]).dispatchable 0 = none) := by
  simp only [FirstReady]
  refine ⟨by decide +kernel, rfl, by decide +kernel, ⟨_, Prod.ext (ok_admitted (by decide +kernel)) rfl⟩, by decide +kernel, by decide +kernel⟩

/-- The task in staging: without lines; with them; its operand beyond its record's end; one too large for the staging area. -/
def staged (blocks : List Nat) (o : Nat) : TaskEntry :=
  { task0 with line := closure 1 0 o, st := .staging, adm := 1, recs := [taskRec], drained := true, blocks := blocks
               entry := if blocks.isEmpty then none else some 2 }
def huge : Nat := operand 0 + 2 ^ 72 * 4095 + 2 ^ 101 * 16
/-- The handle of its operand, read again. -/
def stagedHandle : HandleState × State :=
  ((sBob [staged [0x70000] (operand 0x80)] []).updTask 0 5 fun y => { y with entry := some 2 }).checkHandle 0 0 0 (opHandle (operand 0x80))
    (taskLog (sBob [staged [0x70000] (operand 0x80)] []) 0)

theorem witness_StagingMovesOperands :
    (∀ o ∈ [operand 0x80, huge], let e := staged [] o
      ((sBob [e] []).core 0).bob[0]? = some e ∧ e.st = .staging ∧ e.blocks = [] ∧ e.drained = true ∧
      (∀ y ∈ ((sBob [e] []).core 0).bob, y.st = .staging → y.blocks = [] → e.adm ≤ y.adm)) ∧
    (((sBob [staged [] huge] []).stageArea 0).2 - ((sBob [staged [] huge] []).stageArea 0).1 < ((staged [] huge).ops.map opBlock).sum) ∧
    (let s := sBob [staged [] (operand 0x80)] []
     (([operand 0x80].map opBlock).sum ≤ (s.stageArea 0).2 - (s.stageArea 0).1 ∧ (staged [] (operand 0x80)).ops = [operand 0x80] ∧
       (allocBlocks (s.stageArea 0).1 (s.stageArea 0).2 ([operand 0x80].map opBlock) (s.usedBlocks 0)).isSome = true)) ∧
    (∀ o ∈ [operand 0x80, operand 0xFF8], Staging (sBob [staged [0x70000] o] []) 0 0 (staged [0x70000] o) 2) ∧
    (recExtent taskRec < opOffset (operand 0xFF8) + opSpan (operand 0xFF8) ∧
      opOffset (operand 0x80) + opSpan (operand 0x80) ≤ recExtent taskRec ∧ opOffset (operand 0xFF0) + opSpan (operand 0xFF0) = recExtent taskRec) ∧
    (stagedHandle.1 = .good ∧ mergePages (stagedHandle.2.sourceSegs 0 taskRec .engineRead (operand 0x80) 0).faults = [] ∧
      (∀ l ∈ linesAt [stagedHandle.2.sourceSegs 0 taskRec .engineRead (operand 0x80) 0],
        stagedHandle.2.heldBefore (stageKey 5) 0 l = false)) ∧
    ((sBob [] []).core 0).dying = [(some 1, [])] := by
  simp only [Staging]
  refine ⟨by decide +kernel, by decide +kernel, by decide +kernel, by decide +kernel, by decide +kernel, by decide +kernel, by decide +kernel⟩

/-- A READY task; and a finished one in slot 1, from operand op on. -/
def ready0 : TaskEntry := { staged [0x70000] (operand 0x80) with st := .ready, entry := none }
def finish0 (op : Nat) : Finish := { op := op, val := 77 }
def finished (op : Nat) : Warp :=
  { warp0 with
    st := .asleep, wait := .finish, id := { warp0.id with task := true, role := 3 }
    task := some { e := ready0, home := 0, fin := some (finish0 op) } }
def sFinished (op : Nat) : State := { (sBob [] []).setWarp 0 1 (finished op) with ranges := [{ adm := 1 }] }

/-- The handle of its operand, read again for the write-back. -/
def wbHandle : HandleState × State := (sFinished 0).checkHandle 0 0 0 (opHandle (ready0.opnd 0)) (State.taskHandleError 0 0)

theorem witness_TasksRunAndFillTheirFutures :
    ((sBob [ready0] []).dispatchable 0 = some (ready0, 1)) ∧
    ((sFinished 1).memoryOk = true ∧ ((sFinished 1).core 0).far = [] ∧ ((sFinished 1).core 0).l1.dirty = [] ∧
      ({ sFinished 1 with tags := [] } : State).tag (0x20040 + 8) = false) ∧
    (∀ op ∈ [0, 1], Finishing (sFinished op) 0 1 { e := ready0, home := 0, fin := some (finish0 op) } (finish0 op)) ∧
    (ready0.nops ≤ (finish0 1).op ∧ (finish0 1).fill = true ∧ ready0.nofut = false ∧ ready0.fut < 2 ^ 64 ∧ ready0.adm ≠ 0 ∧
      ((sFinished 1).drain 0).tag (0x20040 + 8) = true ∧ ({ sFinished 1 with tags := [] }.drain 0).tag (0x20040 + 8) = false) ∧
    (sFinished 1).wordAt 0 ((sFinished 1).warp 0 1).id.part .tagWrite ready0.fut = .at 0x20040 ∧
    ((finish0 0).op < ready0.nops ∧ wbHandle.1 = .good ∧
      (wbHandle.2.sourceSegs 0 (ready0.recs.getD 0 0) .engineWrite (ready0.opnd 0) 0).faults = []) := by
  simp only [Finishing]
  refine ⟨by decide +kernel, by decide +kernel, by decide +kernel, by decide +kernel, rfl, by decide +kernel⟩

/-- An idle core 0 and its neighbour 1 of the same job, with these entries; core 0's probe is out, or answered. -/
def sThief (steal : Option Steal) (occ : Option Nat) (bob : List TaskEntry) : State :=
  let s := sBob [] []
  { s with
    tick := 600
    cores := [(0, { s.core 0 with steal := steal, sweep := if steal.isNone then none else some [], sweepAt := 0, idleAt := some 1 }),
      (1, { occ := occ, places := 3, bob := bob })] }
def probe0 (reply : Option (Option TaskEntry)) : Steal := { slot := 1, inl := true, victim := 1, reply := reply }

theorem witness_IdleCoresStealTasks :
    (∃ vs, ((sThief none (some 0) []).core 0).sweep.getD ((sThief none (some 0) []).victims 0) = 1 :: vs ∧
      (sThief none (some 0) []).taskSlot 0 = some 1 ∧ (sThief none (some 0) []).stealRoom 0 = some true ∧
      (sThief none (some 0) []).idleCore 0 = true ∧ ((sThief none (some 0) []).core 0).steal = none ∧
      ((sThief none (some 0) []).core 0).sweepAt = 0) ∧
    (∀ occ ∈ [some 0, some 1, none], ((sThief (some (probe0 none)) occ [task0]).core 0).steal = some (probe0 none) ∧ (probe0 none).reply = none ∧
      ((sThief (some (probe0 none)) occ [task0]).core 1).occ = occ ∧ (probe0 none).victim ≠ 0 ∧
      (sThief (some (probe0 none)) occ [task0]).dispatchable 1 = none ∧
      ((sThief (some (probe0 none)) occ [task0]).core 1).refillable = false) ∧
    (∀ r ∈ [none, some task0], ((sThief (some (probe0 (some r))) (some 0) []).core 0).steal = some (probe0 (some r)) ∧
      (probe0 (some r)).inl = true ∧ ((sThief (some (probe0 (some r))) (some 0) []).core 0).sweep = some []) ∧
    (let s : State := { sThief none none [] with cores := [(0, { sweepAt := 600 })] }
     (s.core 0).sweepAt ≠ 0 ∧ (s.core 0).sweepAt ≤ s.tick) := by
  refine ⟨⟨_, rfl, ?_⟩, ?_, ?_, ?_⟩
  all_goals decide +kernel

/-! ## Teams, jobs, handlers, clocks -/

/-- A job of teams of one warp on dies 0 and 1: die 0's distributor holds teams, and die 1's. -/
def sTeams (a b : DieTeams) : State :=
  { state0 with
    jobs := [(0, { job0 with onDies := [0, 1], unst := [(0, a), (1, b)], args := 0x20000, argLen := 16
                             r := { job0.r with stage := 4, gx := 8, entry := 0x40 } })] }
/-- The job with no warp left; a core's cause 3 with a handler at 0x300; 18 completions scored, the clusters scored as given. -/
def sOver : State := { sTeams {} {} with slots := [] }
def sPending : State :=
  { state0 with
    cores := [(0, { occ := some 0, places := 1, pend := [{ cause := 3, origin := {} }] })], tick := 96, jobs := [(0, { job0 with handlers := [(3, 0x300)] })] }
def sScored (pin : Bool) : State := { state0 with parts := [(0, { part0 with scored := 18, pin := pin })], scores := [(0, -2), (5, 3)], clockReq := [(0, 9)] }

theorem witness_TeamsStartAndJobsEnd :
    ((sTeams { lo := 0, hi := 4 } {}).jobs.has 0 = true ∧ ((sTeams { lo := 0, hi := 4 } {}).job 0).runs = true ∧
      takeLowest ((sTeams { lo := 0, hi := 4 } {}).job 0) 0 = some (0, { lo := 1, hi := 4 }) ∧
      (sTeams { lo := 0, hi := 4 } {}).placeFor 0 0 = some 1 ∧ (sTeams { lo := 0, hi := 4 } {}).dieAway 0 0 = false) ∧
    (let s := (sTeams {} {}).updJob 0 fun jb => { jb with dieStop := some 0 }
     s.jobs.has 0 = true ∧ (s.job 0).runs = true ∧ s.dieAway 0 0 = true) ∧
    (∀ b ∈ [({} : DieTeams), { lo := 0, hi := 4 }], (0 ∈ ((sTeams {} b).job 0).onDies ∧ (((sTeams {} b).job 0).unst.getD 0 {}).asked = false ∧
      (sTeams {} b).dieAway 0 0 = false ∧ (sTeams {} b).dieAway 0 1 = false ∧
      takeLowest ((sTeams {} b).job 0) 0 = none ∧ ((sTeams {} b).placeFor 0 0).isSome = true)) ∧
    ((∀ b ∈ ((sTeams {} {}).job 0).onDies, b ≠ 0 → takeHighest ((sTeams {} {}).job 0) b = none) ∧
      (0 + 1) % 4 ∈ ((sTeams {} { lo := 0, hi := 4 }).job 0).onDies ∧
      takeHighest ((sTeams {} { lo := 0, hi := 4 }).job 0) 1 = some (7, { lo := 0, hi := 3 })) ∧
    (sOver.jobs.has 0 = true ∧ (sOver.job 0).runs = true ∧ (sOver.job 0).gate = .open ∧ sOver.jobOver 0 = true) ∧
    (let s := sOver.updJob 0 fun jb => { jb with phase := .ending }
     s.jobs.has 0 = true ∧ (s.job 0).phase = .ending) ∧
    (sPending.freeHandler 0 = some 64 ∧ (sPending.core 0).causes = [3] ∧ (sPending.job (sPending.occJob 0)).stop.isNone = true ∧
      ((sPending.core 0).causes.find? fun y => ((sPending.core 0).oldestOf y).any (sPending.aged 0)) = some 3 ∧
      (sPending.job (sPending.occJob 0)).handlers.look 3 = some 0x300) ∧
    ((sScored true).part 0).pin = true ∧
    (let s := { sScored false with scores := [(0, 3)], hm := { (sScored false).hm with lowered := [0] } }
     (s.scores.filter fun x => (s.part 0).clus.getLsbD x.1) = [(0, 3)] ∧ 0 ∈ s.hm.lowered ∧ s.clockReq.look 0 = some 9) ∧
    (((sScored false).part 0).pin = false ∧ 16 ≤ ((sScored false).part 0).scored ∧
      ((sScored false).scores.filter fun x => ((sScored false).part 0).clus.getLsbD x.1) = [(0, -2)] ∧
      (sScored false).clockReq.look 0 = some 9 ∧ ((sScored false).part 0).clus.getLsbD 5 = false) := by
  decide +kernel

/-! ## Evictions, the directory, lost parts -/

/-- Core 0 holds byte 0x20000 dirty and line 0x20100 clean; die 0's slice names core 0 for line 0x20000, or no core; die 0 has
write-backs of lines 0x20200, a word of which is poisoned, and of a host line under way, which is dirty in its home's L2. -/
def sCaches (recs : FMap (List (Nat × Nat))) : State :=
  { state0 with
    cores := [(0, { state0.core 0 with l1 := { dirty := [(0x20000, 7)], clean := [(0x20100, List.replicate 128 1)] } })]
    poison := [(0x20208, true)]
    dies := if recs = [] then [] else [(0, { recs := recs, hdirty := [(2 ^ 58 + 5, 9)] })]
    hd := { state0.hd with wbs := [4 * 0x20200, 4 * 2 ^ 58] } }

theorem witness_EvictionsAndTheDirectory_lines :
    (∀ rs ∈ [[], [(0x20000, [(0, 3)])]], ((sCaches rs).core 0).l1.clean.has 0x20100 = true ∧
      ∃ p ∈ ((sCaches rs).core 0).l1.dirty, lineOf p.1 = 0x20000) ∧
    ((sCaches [(0x20000, [(0, 3)])]).holdsDirty 0 0x20000 = true ∧ 4 * 0x20000 + 0 ∉ (sCaches [(0x20000, [(0, 3)])]).hd.wbs ∧
      ((sCaches [(0x20000, [(0, 3)])]).die 0).recs.getD 0x20000 [] = [(0, 3)]) ∧
    (∀ line ∈ [0x20200, 2 ^ 58], 4 * line + 0 ∈ (sCaches []).hd.wbs) ∧
    (isHostPlace (2 ^ 58) = true ∧ isHostPlace 0x20200 = false ∧
      (sCaches []).poison.getD (0x20200 + 32 * 0 + 8 * 1) false = true ∧ deviceLine 0x20000 = true) ∧ NoReleases (sCaches []) :=
  ⟨by decide +kernel, by decide +kernel, by decide +kernel, by decide +kernel, noReleases_of_none rfl⟩

/-- The directory with these entries. -/
def sDir (es : List DirEntry) (rs : FMap Recall) : State :=
  { state0 with tick := 80000, hd := { state0.hd with dir := es, nextAge := 40, recalls := rs } }
/-- Sixteen entries of the set of line 0x20000 in its heddle die. -/
def fullSet : List DirEntry :=
  (((List.range 64).map fun i => ({ line := 2 ^ 27 * (i + 1) + 128 * (1024 ^^^ (i + 1)), age := i } : DirEntry)).filter
    fun e => homeSlice e.line % 2 == 0).take 16
def entry0 (dst : List Nat) : DirEntry := { line := 0x20000, dst := dst, pkgv := 2, age := 3 }
def recall0 (line : Nat) : Recall := { victim := 0x20000, die := 1, line := line, write := true, tick := 4000 }
def sBroad (swept : Nat) : State :=
  { state0 with tick := 1500000, hd := { state0.hd with swept := swept, bcast := [(32, [entry0 [0, 0, 0, 0]]), (33, [])] } }

theorem witness_EvictionsAndTheDirectory_requests :
    (NoReleases (sDir [entry0 [2, 0, 0, 0]] []) ∧ NoReleases (sDir [] []) ∧
      ∀ line, NoReleases (sDir [entry0 [0, 4, 0, 0]] [(0, recall0 line)])) ∧
    (Serving (sDir [entry0 [2, 0, 0, 0]] []) 1 0x20000 ∧ (sDir [entry0 [2, 0, 0, 0]] []).hd.entry 0x20000 = some (entry0 [2, 0, 0, 0]) ∧
      (entry0 [2, 0, 0, 0]).dst.length = 4 ∧ (entry0 [2, 0, 0, 0]).dst.getD 1 0 = 0) ∧
    (Serving (sDir [] []) 1 0x20000 ∧ (sDir [] []).hd.entry 0x20000 = none ∧ homeDie 0x20000 ≠ 1 ∧ ((sDir [] []).hd.ways 0x20000).length < 16) ∧
    (Serving (sDir fullSet []) 1 0x20000 ∧ (sDir fullSet []).hd.entry 0x20000 = none ∧ 16 ≤ ((sDir fullSet []).hd.ways 0x20000).length ∧
      (sDir fullSet []).hd.recalls.look ((sDir fullSet []).hd.dieFor 0x20000) = none ∧
      (oldest ((sDir fullSet []).hd.ways 0x20000)).isSome = true) ∧
    (∀ line ∈ [0x20000, 0x21000, 0x40000], (sDir [entry0 [0, 4, 0, 0]] [(0, recall0 line)]).hd.recalls.look 0 = some (recall0 line) ∧
      (recall0 line).tick + 75000 ≤ (sDir [entry0 [0, 4, 0, 0]] [(0, recall0 line)]).tick ∧
      (sDir [entry0 [0, 4, 0, 0]] [(0, recall0 line)]).hd.bcast.length < 4096) ∧
    (recall0 0x40000).line ≠ (recall0 0x40000).victim ∧ (sBroad 0).hd.swept < (sBroad 0).tick / 1500000 := by
  simp only [Serving]
  refine ⟨⟨noReleases_of_none rfl, noReleases_of_none rfl, fun _ => noReleases_of_none rfl⟩, ?_⟩
  decide +kernel

/-- A machine with two queues, three directory entries, all ports up; one that has lost die 0, with an outstanding request. -/
def sParts : State :=
  { state0 with
    tick := 90000, queues := [(0, { en := true }), (65, { en := true })], group := 8 + 16 + 2 ^ 12 * 5
    hd := { state0.hd with ports := 0xFFFF, dir := [entry0 [0, 4, 0, 0], { line := 0x20100, pkgv := 2, pkgw := true }] } }
def sLost (es : List DirEntry) : State :=
  { sParts with
    feLost := true
    hd := { sParts.hd with up := 2, ports := 0xFF00, rebuild := true, lostDir := es, dir := []
                           lostReq := [{ victim := 0x20000, die := 1, line := 0x40000, write := true, tick := 60000 }] } }

/-- A machine that a member at position 1 reaches by a port; the same with an answer kept for the outstanding request. -/
def sMember : State :=
  { state0 with tick := 1600000, group := 8 + 16 + 2 ^ 12 * 5
                hd := { state0.hd with ports := 0xFFFF, reach := [(0, 2)], cut := [(1, 100000)]
                                       dir := [{ line := 0x20100, pkgv := 2, pkgw := true, pkgm := true }, { line := 0x20200, pkgv := 2, pkgw := true }] } }
def sAnswered : State :=
  { sLost [] with hd := { (sLost []).hd with replies := [(replyKey 1 0x40000, [{ seq := 0, line := 0x40000 }])] } }

theorem witness_members :
    (Serving sMember (4 + 1) 0x40000 ∧ posOf 0x40000 = sMember.groupPos ∧ sMember.hd.entry 0x40000 = none ∧
      (sMember.hd.ways 0x40000).length < 16) ∧ NoReleases sMember ∧
    (sMember.groupHas 1 = true ∧ 1 ≠ sMember.groupPos ∧ sMember.hd.unreach.getLsbD 1 = false ∧ sMember.hd.cut.look 1 = some 100000 ∧
      100000 + 1500000 ≤ sMember.tick ∧ sMember.hd.recalls = [] ∧ (sMember.hd.dir.any fun e => e.heldBy 1) = true ∧
      (sMember.hd.dir.any fun e => !e.heldBy 1) = true) ∧
    (∀ r ∈ (sLost []).hd.lostReq, (sLost []).hd.answered r = false ∧ sAnswered.hd.answered r = true) := by
  simp only [Serving]
  refine ⟨by decide +kernel, noReleases_of_none rfl, by decide +kernel, by decide +kernel⟩

theorem witness_LostPartsAreContained :
    (sParts.hd.up.getLsbD 0 = true ∧ sParts.hd.up.getLsbD 1 = true) ∧
    ((((sLost []).hd.lostReq.find? fun r => r.die == 1 && decide (r.tick + 30000 ≤ (sLost []).tick)).isSome = true)) ∧
    (∃ t, ({ sLost [] with hd := { (sLost []).hd with lostReq := [] } } : State).dirRequest 1 0x40000 true [] = some t) ∧
    ((sLost [entry0 [0, 4, 0, 0]]).hd.rebuild = true ∧ (sLost [entry0 [0, 4, 0, 0]]).hd.up ≠ 0 ∧
      (sLost [entry0 [0, 4, 0, 0]]).hd.lostDir = [entry0 [0, 4, 0, 0]] ∧ ((sLost [entry0 [0, 4, 0, 0]]).hd.ways 0x20000).length < 16) ∧
    (sParts.hd.ports.getLsbD 3 = true ∧ sParts.hd.replays.getD 3 0 + 1 < 16 ∧
      ({ sParts.hd with replays := [(3, 15)] } : Heddle).replays.getD 3 0 + 1 = 16) ∧
    ((sLost []).hd.ports.getLsbD 9 = true ∧ ({ sLost [] with hd := { (sLost []).hd with ports := 0 } } : State).hd.ports.getLsbD 9 = false ∧
      (sLost []).hd.up.getLsbD (9 / 8) = true) ∧
    (sParts.groupHas 1 = true ∧ 1 ≠ sParts.groupPos ∧ sParts.hd.unreach.getLsbD 1 = false ∧
      ∃ e ∈ sParts.hd.dir, e.pkgw = true ∧ e.pkgv = BitVec.ofNat 8 (2 ^ 1)) := by
  refine ⟨by decide +kernel, by decide +kernel, ⟨_, rfl⟩, ?_⟩
  decide +kernel

/-- A partition that owns every channel, its tables at 0x100000: a leaf of level 0 for address 0x5000 that gives page 0x40, and
one of level 1 for 0x200000 that gives 0x400000; the host tree's the same when asked; the die's TLB with that first leaf, or empty. -/
def sWalks (hpt held : Bool) : State :=
  { state0 with
    cores := [(0, { core0 with tlb := [] })]
    parts := [(0, { part0 with chan := BitVec.allOnes 64, ptbase := 0x100000, hptbase := if hpt then 0x105000 else 0 })]
    dies := if held then [(0, { tlb := [(tlbKey 0 false 0x5008, 0x4001F)] })] else []
    mem := writeN (writeN (writeN (writeN (writeN (writeN [] 0x100000 (bytesOf 8 0x101001)) 0x101000 (bytesOf 8 0x102001))
      0x102000 (bytesOf 8 0x103001)) 0x103000 (bytesOf 8 0x104001)) 0x103008 (bytesOf 8 0x40001F)) 0x104028 (bytesOf 8 0x4001F) }

theorem witness_PageWalksKeepTranslations :
    ((sWalks false false).part 0).en = true ∧ ((sWalks false false).core 0).tlb.has (tlbKey 0 false (0x5008 : BitVec 64).toNat) = false ∧
    (((sWalks false true).die (dieOf 0)).tlb.look (tlbKey 0 false (0x5008 : BitVec 64).toNat) = some 0x4001F ∧
      ((sWalks false true).core 0).tlb.has (tlbKey 0 false (0x5008 : BitVec 64).toNat) = false ∧
      ((sWalks false false).die (dieOf 0)).tlb.look (tlbKey 0 false (0x5008 : BitVec 64).toNat) = none) ∧
    (sWalks false false).walk 0 false (0x5008 : BitVec 64).toNat = .leaf 0x4001F 0 ∧
    (sWalks false false).walk 0 false (0x212345 : BitVec 64).toNat = .leaf 0x40001F 1 ∧
    (∀ e n, (sWalks false false).walk 0 false (0x9000 : BitVec 64).toNat ≠ .leaf e n) ∧
    (((sWalks true false).part 0).hptbase ≠ 0 ∧ ((sWalks true false).core 0).tlb.has (tlbKey 0 true (0x5008 : BitVec 64).toNat) = false) := by
  have h : (sWalks false false).walk 0 false (0x9000 : BitVec 64).toNat = .notPresent := by decide +kernel
  refine ⟨by decide +kernel, by decide +kernel, by decide +kernel, by decide +kernel, by decide +kernel, fun e n => ?_, by decide +kernel⟩
  rw [h]
  intro e
  cases e

/-- A page fault, sent or not, with a logged load that waits for its page. -/
def fault0 (num : Option Nat) : FaultPage := { part := 0, unit := 0, page := 0x30, kinds := 1, cores := 1, waiters := 1, num := num }
def sFault (num : Option Nat) (stage : BitVec 4) : State :=
  let s := withWarp fun w => { w with log := [{ logged0 loadOp with pages := [{ page := 0x30, kind := .read, lanes := 1, filed := true }] }], logNum := 4 }
  { s with
    faults := [fault0 num], bt := { s.bt with stage := stage }
    parts := [(0, { part0 with
      chan := 1, fqbase := 0x23000, faultNum := 7, invBusy := stage == 0, inval := 0x20003, pgBusy := stage == 0, pginit := 0x21001 })] }

theorem witness_PageFaultsAreReportedAndAnswered :
    ((sFault none 4).unsent 0 0 = some (fault0 none) ∧ (((sFault none 4).part 0).fqwidx - ((sFault none 4).part 0).fqridx).toNat < 2 ^ ((sFault none 4).part 0).fqlog2.toNat ∧
      isHostPlace (regPlace ((sFault none 4).part 0).fqbase + 32 * (((sFault none 4).part 0).fqwidx.toNat % 2 ^ ((sFault none 4).part 0).fqlog2.toNat)) = false) ∧
    ((sFault (some 7) 4).barOpen = true ∧ (∀ f ∈ (sFault (some 7) 4).faults, ¬ (f.part = 0 ∧ f.num = some (5 : BitVec 62).toNat)) ∧
      ((sFault (some 7) 4).faults.find? fun f => f.part == 0 && f.num == some (7 : BitVec 62).toNat) = some (fault0 (some 7)) ∧
      (sFault (some 7) 4).fills = [] ∧
      ∃ e, ((sFault (some 7) 4).warp 0 0).log[0]? = some e ∧
        ∃ q ∈ e.pages, answers (fault0 (some 7)) ((sFault (some 7) 4).warp 0 0).id.part (unitOfCore 0) q = true) ∧
    (((sFault none 4).part 0).invBusy = false ∧ bits (0x20003 : BitVec 64) 0 3 ≤ 3 ∧ bits (0x7 : BitVec 64) 0 3 = 7 ∧
      ((sFault none 4).part 0).pgBusy = false ∧ pginitLines ((0x21001 : BitVec 64) &&& 0x000FFFFFFFFFF00D) = some (0x21000, 32) ∧
      paOwned ((sFault none 4).part 0) 0x21000 = true) ∧
    (((sFault none 0).part 0).invBusy = true ∧ ((sFault none 0).part 0).pgBusy = true ∧
      pginitLines ((sFault none 0).part 0).pginit = some (0x21000, 32) ∧ (sFault none 0).barOpen = false) := by
  refine ⟨by decide +kernel, ⟨by decide +kernel, by decide +kernel, by decide +kernel, by decide +kernel, _, rfl, by decide +kernel⟩, ?_⟩
  decide +kernel

end Sys2Proof.Tests
end

