-- ==== Sys2Proof/Tests/WitnessHost.lean ====
section
/-! SUPPORT. States that meet the hypotheses of the statements about queues, contexts, time, partitions and the host. -/

namespace Sys2Proof.Tests

open Sys2Proof Sys2Proof.Machine Sys2Proof.Slice0

set_option maxRecDepth 100000
set_option Elab.async false

/-! ## Queues, packets, contexts -/

/-- Fields written at an address. -/
def fieldsAt (m : FMap Byte) (a : Nat) (fs : List (Nat × Nat × Nat)) : FMap Byte :=
  fs.foldl (fun m f => writeN m (a + f.1) (bytesOf f.2.1 f.2.2)) m

/-- Queue 0 of partition 0 with one packet at 0x20000: its type byte and these fields; other bytes of memory; the queue. -/
def sPacketQ (type : Nat) (fs ms : List (Nat × Nat × Nat)) (x : Queue) : State :=
  { state0 with
    mem := tables (fieldsAt (fieldsAt [] 0 ms) 0x20000 ((0, 1, type) :: fs)), parts := [(0, partFe)], queues := [(0, x)]
    bt := { state0.bt with stage := 4 } }
def queue0 : Queue := { base := 0x20000, log2 := 4, en := true, widx := 1, slot := true }
def sPacket (type : Nat) (fs ms : List (Nat × Nat × Nat)) : State := sPacketQ type fs ms queue0
/-- The bytes of that packet. -/
def packet (s : State) : List Byte := s.read 0x20000 64
def headB (s : State) (type : Nat) : Bool := s.queueStarts 0 0 && s.headOf 0 0 type == some (packet s)
theorem starts_of {s : State} {type : Nat} (h : headB s type = true) : Starts s 0 0 type (packet s) := by
  simp only [headB, Bool.and_eq_true, beq_iff_eq] at h
  exact h

/-- WAITW for 5 or more at 0x21000, or for its tag; SIGNAL; COPY of 16 bytes from 0x21000 to 0x22000; FENCE; MARK; TIMED. -/
def sWait (mode val : Nat) : State :=
  { sPacket 3 [(8, 8, 0x21000), (16, 8, 5), (24, 1, mode), (32, 8, 7)] [(0x21000, 8, val)] with tags := [(0x21000, true)] }
def sSignal (op : Nat) : State := sPacket 4 [(8, 8, 0x21000), (16, 8, 5), (24, 1, op)] [(0x21000, 8, 9)]
def sCopy : State := sPacket 5 [(8, 8, 0x21000), (16, 8, 0x22000), (24, 8, 16)] [(0x21000, 8, 9)]
def feB (s : State) (kind : AccessKind) (addr : W64) (n place : Nat) : Bool :=
  (s.feSpan 0 kind addr n).faults == [] && (s.feSpan 0 kind addr n).segs == [(place, n)] && !isHostPlace place
theorem feAt_of {s : State} {kind : AccessKind} {addr : W64} {n place : Nat} (h : feB s kind addr n place = true) :
    FeAt s 0 kind addr n place := by
  simp only [feB, Bool.and_eq_true, beq_iff_eq, Bool.not_eq_true'] at h
  exact ⟨h.1.1, h.1.2, h.2⟩
theorem feFree_of {s : State} {kind : AccessKind} {addr : W64} {n place : Nat} (h : feB s kind addr n place = true)
    (ho : s.owned.has (lineOf place) = false) : FeFree s 0 kind addr n place := ⟨feAt_of h, ho⟩

theorem witness_QueueRegistersControlTheirQueue :
    (sWait 1 5).feReady = true ∧ (sWait 1 5).feLost = false ∧ State.reset.feReady = false ∧
    (2 ^ ((sWait 1 5).queue 0 0).log2.toNat < ((17 : BitVec 32) - ((sWait 1 5).queue 0 0).ridx).toNat ∧
      ((16 : BitVec 32) - ((sWait 1 5).queue 0 0).ridx).toNat ≤ 2 ^ ((sWait 1 5).queue 0 0).log2.toNat) ∧
    ((sWait 1 5).queue 0 0).en = true ∧ ((sWait 1 5).queue 0 1).en = false := by
  decide +kernel

/-- WAITW for a value or for a signed value, met or not; for a tag; in progress, and at its time. -/
theorem witness_PacketsStartAndComplete_waits :
    (∀ mode ∈ [1, 2], ∀ v ∈ [4, 5], Starts (sWait mode v) 0 0 3 (packet (sWait mode v)) ∧
      (waitOf (sWait mode v) 0 0 (packet (sWait mode v))).mode = mode ∧
      FeFree (waiting (sWait mode v) 0 0 (packet (sWait mode v))) 0 .read (waitOf (sWait mode v) 0 0 (packet (sWait mode v))).addr 8 0x21000) ∧
    (Starts (sWait 0 5) 0 0 3 (packet (sWait 0 5)) ∧ (waitOf (sWait 0 5) 0 0 (packet (sWait 0 5))).mode = 0 ∧
      FeFree (waiting (sWait 0 5) 0 0 (packet (sWait 0 5))) 0 .tagRead (waitOf (sWait 0 5) 0 0 (packet (sWait 0 5))).addr 8 0x21000 ∧
      ((waiting (sWait 0 5) 0 0 (packet (sWait 0 5))).feSpan 0 .tagRead (waitOf (sWait 0 5) 0 0 (packet (sWait 0 5))).addr 8).tagged = true) ∧
    (let s := waiting (sWait 1 5) 0 0 (packet (sWait 1 5)); let z := waitOf (sWait 1 5) 0 0 (packet (sWait 1 5))
     ((s.queue 0 0).waitw = some z ∧ s.packetLives 0 0 = true ∧ (s.queue 0 0).parked = false ∧ z.mode = 1 ∧
       FeFree s 0 .read z.addr 8 0x21000 ∧ z.thr.toNat ≤ feValue s 0x21000) ∧
     (z.limit = some (7 * 2 ^ 16) ∧ 7 * 2 ^ 16 ≤ ({ s with tai := 2 ^ 20 } : State).tai ∧ s.feLost = false ∧ (s.queue 0 0).stopped = false)) := by
  refine ⟨fun mode hm v hv => ⟨starts_of ?_, ?_, feFree_of ?_ ?_⟩, ⟨starts_of ?_, ?_, feFree_of ?_ ?_, ?_⟩,
    ⟨?_, ?_, ?_, ?_, feFree_of ?_ ?_, ?_⟩, ?_⟩
  iterate 4 revert mode v; decide +kernel
  all_goals decide +kernel

theorem witness_PacketsStartAndComplete_writes :
    (∀ op ∈ [3, 2, 1], Starts (sSignal op) 0 0 4 (packet (sSignal op)) ∧
      descNat (packet (sSignal op)) 24 1 = op ∧ addrHost (BitVec.ofNat 64 (descNat (packet (sSignal op)) 8 8)) = false) ∧
    (FeFree ((sSignal 3).packetStarts 0 0) 0 .write 0x21000 8 0x21000 ∧ FeFree ((sSignal 2).packetStarts 0 0) 0 .atomic 0x21000 8 0x21000 ∧
      FeFree ((sSignal 1).packetStarts 0 0) 0 .write 0x21000 8 0x21000 ∧ (((sSignal 1).packetStarts 0 0).feSpan 0 .write 0x21000 8).tagged = true) ∧
    Starts sCopy 0 0 5 (packet sCopy) ∧ (Starts (sPacket 7 [] []) 0 0 7 (packet (sPacket 7 [] [])) ∧ ((sPacket 7 [] []).queue 0 0).started = []) ∧
    Starts (sPacket 8 [(8, 8, 0x21000)] []) 0 0 8 (packet (sPacket 8 [(8, 8, 0x21000)] [])) ∧
    FeFree ((sPacket 8 [(8, 8, 0x21000)] []).packetStarts 0 0) 0 .write
      (BitVec.ofNat 64 (descNat (packet (sPacket 8 [(8, 8, 0x21000)] [])) 8 8)) 32 0x21000 ∧
    NoReleases ((sPacket 8 [(8, 8, 0x21000)] []).packetStarts 0 0) := by
  refine ⟨fun op ho => ⟨starts_of ?_, ?_⟩, ⟨feFree_of ?_ ?_, feFree_of ?_ ?_, feFree_of ?_ ?_, ?_⟩, starts_of ?_, ⟨starts_of ?_, ?_⟩,
    starts_of ?_, feFree_of ?_ ?_, noReleases_of_none rfl⟩
  iterate 2 revert op; decide +kernel
  all_goals decide +kernel

/-- A copy of 16 bytes whose first 8 are moved. -/
def copy0 : CopyOp := { part := 0, pk := { q := 0, idx := 0 }, src := 0x21000, dst := 0x22000, len := 16, pos := 8 }
def sCopying : State := { sCopy with copies := [copy0], queues := [(0, { queue0 with started := [0], ridx := 1 })] }

theorem witness_PacketsStartAndComplete_copies :
    sCopying.feLost = false ∧ sCopying.copyOf 0 0 = some copy0 ∧ copy0.len ≤ copy0.pos + 4096 ∧ copy0.pk.stat = 0 ∧ copy0.pk.sigOp = 0 ∧
    FeAt sCopying 0 .engineRead (copy0.src + BitVec.ofNat 64 copy0.pos) 8 0x21008 ∧
    FeAt sCopying 0 .engineWrite (copy0.dst + BitVec.ofNat 64 copy0.pos) 8 0x22008 ∧
    (∀ l ∈ segLines ((sCopying.feSpan 0 .engineRead (copy0.src + BitVec.ofNat 64 copy0.pos) 8).segs ++
        (sCopying.feSpan 0 .engineWrite (copy0.dst + BitVec.ofNat 64 copy0.pos) 8).segs),
      sCopying.heldBefore (copyOwner copy0) copy0.order l = false) ∧
    (sCopying.feReads [(0x21008, 8)]).2.poisoned 0x21008 8 = false := by
  refine ⟨rfl, by decide +kernel, by decide +kernel, rfl, rfl, feAt_of ?_, feAt_of ?_, ?_, ?_⟩
  all_goals decide +kernel

/-! ## LAUNCH and RESUME -/

/-- A job record at 0x21000. -/
def launch0 : List (Nat × Nat × Nat) :=
  [(0x21000, 8, 0x10000), (0x21000 + 8, 4, 0x40), (0x21000 + 28, 1, 1), (0x21000 + 29, 1, 3), (0x21000 + 88, 2, 64),
   (0x21000 + 104, 8, 2 ^ 64 - 1), (0x21000 + 136, 8, 1500), (0x21000 + 144, 8, 0x20000), (0x21000 + 152, 8, 2 ^ 57)]

/-- A LAUNCH of the job record at 0x21000: one computer warp of 16 lanes a team; PARTITION as given. -/
def sLaunch (part : Nat) : State :=
  sPacket 1 [(4, 4, 77), (8, 8, 0x21000), (16, 8, 0x22000), (24, 4, 16)]
    ((0x21000 + 15, 1, part) :: launch0)
/-- What it reads. -/
def readsOf (s : State) : LaunchReads × State :=
  match s.launchReads 0 0 (packet s) with
  | .ok z => z
  | .error _ => ({}, s)
def readsOk (s : State) : Bool := match s.launchReads 0 0 (packet s) with | .ok _ => true | .error _ => false
theorem readsOf_eq {s : State} (h : readsOk s = true) : s.launchReads 0 0 (packet s) = .ok ((readsOf s).1, (readsOf s).2) := by
  unfold readsOk at h
  unfold readsOf
  split at h <;> rename_i e
  · rw [e]
  · cases h

theorem imageBlocks_le (n : Nat) : imageBytes n < 2 ^ 57 := by
  have h : Config.imageBlocks n ≤ 2 ^ 44 := Nat.min_le_right _ _
  show 4096 * (1 + (Config.imageBlocks n + 511) / 512 + Config.imageBlocks n) < 2 ^ 57
  omega

/-- The check of a record whose image is large enough. -/
theorem launchCheck_accepts {s : State} {x : LaunchReads} {raw : List Byte} (hr : x.raw = some raw)
    (hi : imageBytes (partCores (s.part 0)).length ≤ (jobRecOf raw).imageSz)
    (h : (recordLimits raw).isNone ∧ ¬ 2 ^ 32 < (jobRecOf raw).gx * (jobRecOf raw).gy * (jobRecOf raw).gz ∧
      ¬ ((teamRoles (jobRecOf raw)).length = 0 ∨ (if (jobRecOf raw).paired then 128 else 64) < (teamRoles (jobRecOf raw)).length) ∧
      ¬ capacity (jobRecOf raw) = 0 ∧ ((jobRecOf raw).gridMasks.any fun m => m != 0) = false ∧ noTable (descNat raw 104 4) = true ∧
      noTable (descNat raw 108 4) = true ∧ descNat raw 15 1 = 0 ∧ (jobRecOf raw).djid = 0 ∧ x.peers.isSome = true ∧ x.args = true) :
    s.launchCheck 0 x = none := by
  obtain ⟨h1, h2, h3, h4, h5, h6, h7, h8, h9, h10, h11⟩ := h
  have hp : x.peers.isNone = false := by cases hx : x.peers <;> simp_all
  rw [Option.isNone_iff_eq_none] at h1
  unfold State.launchCheck
  simp only [hr, h1, h2, h3, h4, h5, h6, h7, h8, h9, hp, h11, Nat.not_lt.mpr hi, if_false, Bool.false_eq_true, false_and, not_true,
    Bool.not_true, ne_eq]

theorem witness_LaunchStarts :
    Starts (sLaunch 0) 0 0 1 (packet (sLaunch 0)) ∧
    (sLaunch 0).launchReads 0 0 (packet (sLaunch 0)) = .ok ((readsOf (sLaunch 0)).1, (readsOf (sLaunch 0)).2) ∧
    (readsOf (sLaunch 0)).2.launchCheck 0 (readsOf (sLaunch 0)).1 = none ∧
    ((readsOf (sLaunch 0)).2.queue 0 0).ridx = ((sLaunch 0).queue 0 0).ridx := by
  refine ⟨starts_of (by decide +kernel), readsOf_eq (by decide +kernel), ?_, by decide +kernel⟩
  refine launchCheck_accepts (raw := (readsOf (sLaunch 0)).1.raw.getD []) (by decide +kernel) ?_ (by decide +kernel)
  exact Nat.le_of_lt (Nat.lt_of_lt_of_eq (imageBlocks_le _) (by decide +kernel))

theorem witness_LaunchIsRejected :
    Starts (sLaunch 1) 0 0 1 (packet (sLaunch 1)) ∧
    (sLaunch 1).launchReads 0 0 (packet (sLaunch 1)) = .ok ((readsOf (sLaunch 1)).1, (readsOf (sLaunch 1)).2) ∧
    (readsOf (sLaunch 1)).2.launchCheck 0 (readsOf (sLaunch 1)).1 = some (7, 15) := by
  refine ⟨starts_of (by decide +kernel), readsOf_eq (by decide +kernel), by decide +kernel⟩

/-- A packet that ends with a status record at 0x23000. -/
def pkt0 : Pkt := { q := 0, idx := 0, tag := 9, intr := true, stat := 0x23000 }
/-- Its machine, its interrupt's vector masked or not. -/
def sEnds (masked : Bool) : State := { sPacket 7 [] [] with msixTab := if masked then [(12, 1)] else [] }
theorem witness_PacketEnds : ∀ masked : Bool, (sEnds masked).feLost = false ∧ pkt0.stat ≠ 0 ∧ pkt0.sigOp = 0 ∧
    FeFree (sEnds masked) 0 .write pkt0.stat 32 0x23000 ∧ (sEnds masked).pcie = true ∧ pkt0.intr = true ∧
    (sEnds masked).masked ((sEnds masked).part 0).fn.toNat ((sEnds masked).queue 0 pkt0.q).vec.toNat = masked ∧
    ({ pkt0 with intr := false }).intr = false := by
  refine fun b => ⟨by cases b <;> rfl, by decide +kernel, rfl, feFree_of ?_ ?_, ?_⟩
  all_goals cases b <;> decide +kernel

/-- A header of an image of 4 KiB that names partition 0, STATE SAVED, and its tag. -/
def header0 : List Byte :=
  padTo 4096 (bytesOf 4 0x49435A47 ++ bytesOf 2 1 ++ bytesOf 2 0 ++ bytesOf 8 3 ++ bytesOf 4 0 ++ bytesOf 4 0 ++ bytesOf 16 0 ++ bytesOf 8 4096)
/-- The tag of that header under a key of zeros, and the context that this machine has saved with it. -/
def headTag : Nat := 15908894551973388214
def saved0 : SavedCtx := { part := 0, used := [0], bytes := splice (splice header0 88 (bytesOf 8 headTag)) 16 (bytesOf 4 1) }
/-- A TIMED packet with a trigger of 100 ns. -/
def timed0 (drop : Bool) (prep : Prep) : TimedPkt := { idx := 0, trigger := 100 * 2 ^ 16, drop := drop, prep := prep }

/-- Queue 0 with a RESUME of that image; queue 1 with a TIMED in progress and the same RESUME behind it. -/
def sImage (tag : Nat) (saves : List SavedCtx) : State :=
  { sPacket 2 [(8, 8, 0x21000)] [(0x21000, 8, 0x49435A47 + 2 ^ 32), (0x21000 + 8, 8, 3), (0x21000 + 16, 4, 1), (0x21000 + 40, 8, 4096), (0x21000 + 88, 8, tag)] with
    queues := [(0, queue0), (1, { queue0 with timed := some (timed0 false .waiting) })], saves := saves }

def imageOk (c : ImageCheck) (ctx : SavedCtx) : Bool := match c with | .ok x => x == ctx | _ => false
theorem imageOk_eq {c : ImageCheck} {ctx : SavedCtx} (h : imageOk c ctx = true) : c = .ok ctx := by
  cases c <;> simp_all [imageOk]

/-- The check of an image of one block: the header's words and its tag, and then its bytes again. -/
theorem checkImage_of {s : State} {a : W64} {h : List Byte} {u : State} {c : ImageCheck} (q : Nat) (hr : s.feRead 0 0 a 4096 = .bytes h u)
    (hw : (s.feBad 0 a 4096 || descNat h 0 4 != 0x49435A47 || descNat h 4 2 != 1) = false)
    (ht : (h.drop 88).take 8 = blockTag (s.part 0).imageKey (splice (splice h 16 (bytesOf 4 0)) 88 (bytesOf 8 0)) 0 (descNat h 8 8))
    (hs : descNat h 16 4 = 1 ∧ descNat h 527 1 = 0 ∧ descNat h 40 8 = 4096) (hz : (s.feSpan 0 .read a 4096).faults = [])
    (hh : s.feHeld (s.feSpan 0 .read a 4096).segs = false)
    (hc : s.checkBytes 0 a h (fun _ => false) = c) : s.checkImage 0 q a = c := by
  simp only [Bool.or_eq_false_iff] at hw
  replace hr : s.feRead 0 q a 4096 = .bytes h u := by
    rw [← hr]
    unfold State.feRead
    simp only [hz]
  have h1 : List.range (4096 / 4096) = [0] := rfl
  have h0 : a + BitVec.ofNat 64 (4096 * 0) = a := by simp
  unfold State.checkImage
  simp only [hr, ← ht, hs, hw, hz, hh, h1, h0, hc, bne_self_eq_false, Bool.or_self, Bool.false_eq_true, if_false, ne_eq, not_true,
    Nat.reduceBNe, Bool.false_and, List.filter_nil, List.any_nil, List.flatMap_cons, List.flatMap_nil, List.append_nil]
  exact if_neg (by decide)

theorem header_tag : bytesOf 8 headTag = blockTag (bytesOf 32 0) header0 0 3 := by decide +kernel

/-- The bytes of the image, as the front end reads them. -/
def readIt (s : State) : List Byte := match s.feRead 0 0 0x21000 4096 with | .bytes h _ => h | _ => []
def readTo (s : State) : State := match s.feRead 0 0 0x21000 4096 with | .bytes _ u => u | _ => s
def readsIt (s : State) : Bool := match s.feRead 0 0 0x21000 4096 with | .bytes _ _ => true | _ => false
theorem feRead_of {s : State} (h : readsIt s = true) :
    s.feRead 0 0 0x21000 4096 = .bytes (readIt s) (readTo s) := by
  unfold readsIt at h
  unfold readIt readTo
  split at h <;> rename_i e
  · rw [e]
  · cases h
theorem image_reads : readIt (sImage headTag [saved0]) = saved0.bytes ∧
    splice (splice saved0.bytes 16 (bytesOf 4 0)) 88 (bytesOf 8 0) = header0 := by decide +kernel

theorem image_checked : ∀ q, (sImage headTag [saved0]).checkImage 0 q 0x21000 = .ok saved0 := by
  intro q
  have h := feRead_of (s := sImage headTag [saved0]) (by decide +kernel)
  rw [image_reads.1] at h
  refine checkImage_of q h (by decide +kernel) ?_ (by decide +kernel) (by decide +kernel) (by decide +kernel) (imageOk_eq (by decide +kernel))
  rw [image_reads.2, show ((sImage headTag [saved0]).part 0).imageKey = bytesOf 32 0 from rfl,
    show descNat saved0.bytes 8 8 = 3 from by decide +kernel, ← header_tag]
  decide +kernel

theorem witness_ResumeStarts :
    Starts (sImage headTag [saved0]) 0 0 2 (packet (sImage headTag [saved0])) ∧
    BitVec.ofNat 64 (descNat (packet (sImage headTag [saved0])) 8 8) = 0x21000 ∧
    (sImage headTag [saved0]).checkImage 0 0 0x21000 = .ok saved0 :=
  ⟨starts_of (by decide +kernel), by decide +kernel, image_checked 0⟩

/-- A block of zeros is no image. -/
def sNoImage : State := sPacket 2 [(8, 8, 0x21000)] []
theorem witness_ResumeEnds :
    Starts sNoImage 0 0 2 (packet sNoImage) ∧
    sNoImage.checkImage 0 0 (BitVec.ofNat 64 (descNat (packet sNoImage) 8 8)) = .ends 4 0 0 := by
  refine ⟨starts_of (by decide +kernel), ?_⟩
  have h : (match sNoImage.checkImage 0 0 (BitVec.ofNat 64 (descNat (packet sNoImage) 8 8)) with
    | .ends a b c => decide (a = 4 ∧ b = 0 ∧ c = 0) | _ => false) = true := by decide +kernel
  revert h
  cases sNoImage.checkImage 0 0 (BitVec.ofNat 64 (descNat (packet sNoImage) 8 8)) <;> simp

/-! ## TIMED packets, slots, contexts -/

/-- A queue that holds that TIMED packet, and the packet behind it at 0x20040: LAUNCH, RESUME of an image at 0x21000, SIGNAL. -/
def sTimed (type : Nat) (tai : Nat) (x : TimedPkt) : State :=
  { state0 with
    mem := tables (fieldsAt (fieldsAt [] 0 (if type = 1 then launch0 else []))
      0x20040 ((0, 1, type) :: (8, 8, 0x21000) :: (if type = 1 then [(16, 8, 0x22000), (24, 4, 16)] else if type = 4 then [(16, 8, 5), (24, 1, 3)] else [])))
    tai := tai, nextJob := 2, parts := [(0, partFe)]
    queues := [(0, { queue0 with ridx := 1, widx := 2, started := [0], timed := some x })]
    restores := [{ part := 0, pk := { q := 0, idx := 1 }, addr := 0x21000, ctx := saved0, held := true, map := some [] }]
    jobs := [(0, job0), (1, { job0 with phase := .prepared, gate := .shut, r := { job0.r with stage := 4 } })] }
def behind (s : State) : List Byte := s.read 0x20040 64
def timedB (s : State) (x : TimedPkt) : Bool := (s.queue 0 0).timed == some x && s.follower 0 0 == some (behind s)
theorem timedAt_of {s : State} {x : TimedPkt} (h : timedB s x = true) : TimedAt s 0 0 x (behind s) := by
  simp only [timedB, Bool.and_eq_true, beq_iff_eq] at h
  exact h
def timedReads (s : State) : LaunchReads × State :=
  match s.launchReads 0 0 (behind s) with
  | .ok z => z
  | .error _ => ({}, s)
def timedReadsOk (s : State) : Bool := match s.launchReads 0 0 (behind s) with | .ok _ => true | .error _ => false
theorem timedReads_eq {s : State} (h : timedReadsOk s = true) :
    s.launchReads 0 0 (behind s) = .ok ((timedReads s).1, (timedReads s).2) := by
  unfold timedReadsOk at h
  unfold timedReads
  split at h <;> rename_i e
  · rw [e]
  · cases h
def sTimedPkt : State := sPacket 6 [(8, 8, 100), (18, 1, 1)] []
def sFirst : State := { state0 with tai := 90, jobs := [(0, { job0 with gate := .from 100 })] }

/-- The TIMED packet begun: with a job that may be placed, a RESUME whose restore is placed, a SIGNAL; with a failed check. -/
def begun0 (type : Nat) (c : Nat) : TimedPkt := timed0 false (.begun (if type = 1 then some 1 else none) c 0 0)
/-- It done, its trigger at 100 ns, POLICY as given. -/
def done0 (drop : Bool) : TimedPkt := timed0 drop (.done (some 1) 0 0 0)

theorem witness_TimedPacketsBegin :
    Starts sTimedPkt 0 0 6 (packet sTimedPkt) ∧
    (∀ type ∈ [1, 2, 4], let s := sTimed type 0 (timed0 false .waiting)
      TimedAt s 0 0 (timed0 false .waiting) (behind s) ∧ (timed0 false .waiting).prep = .waiting ∧
      (timed0 false .waiting).trigger ≤ s.tai + 2 ^ 16 * (s.part 0).tlead.toNat ∧ descNat (behind s) 0 1 = type) ∧
    (sTimed 1 0 (timed0 false .waiting)).launchReads 0 0 (behind (sTimed 1 0 (timed0 false .waiting))) =
      .ok ((timedReads (sTimed 1 0 (timed0 false .waiting))).1, (timedReads (sTimed 1 0 (timed0 false .waiting))).2) ∧
    (timedReads (sTimed 1 0 (timed0 false .waiting))).2.launchCheck 0 (timedReads (sTimed 1 0 (timed0 false .waiting))).1 = none := by
  refine ⟨starts_of (by decide +kernel), fun b hb => ⟨timedAt_of ?_, ?_⟩, timedReads_eq (by decide +kernel), ?_⟩
  · revert b; decide +kernel
  · revert b; decide +kernel
  · refine launchCheck_accepts (raw := (timedReads (sTimed 1 0 (timed0 false .waiting))).1.raw.getD []) (by decide +kernel) ?_ (by decide +kernel)
    exact Nat.le_of_lt (Nat.lt_of_lt_of_eq (imageBlocks_le _) (by decide +kernel))

/-- A RESUME behind a TIMED: its image checked, and refused. -/
theorem witness_TimedResumesBegin :
    (let s := sImage headTag [saved0]; let x := timed0 false .waiting
     TimedAt s 0 1 x (packet s) ∧ x.prep = .waiting ∧ x.trigger ≤ s.tai + 2 ^ 16 * (s.part 0).tlead.toNat ∧
     descNat (packet s) 0 1 = 2 ∧ s.checkImage 0 1 (BitVec.ofNat 64 (descNat (packet s) 8 8)) = .ok saved0) ∧
    (let s := sTimed 2 0 (timed0 false .waiting)
     s.checkImage 0 0 (BitVec.ofNat 64 (descNat (behind s) 8 8)) = .ends 4 0 0) := by
  refine ⟨⟨?_, rfl, by decide +kernel, by decide +kernel, ?_⟩, ?_⟩
  · show _ = _ ∧ _ = _
    decide +kernel
  · rw [show BitVec.ofNat 64 (descNat (packet (sImage headTag [saved0])) 8 8) = 0x21000 from by decide +kernel]
    exact image_checked 1
  · have h : (match (sTimed 2 0 (timed0 false .waiting)).checkImage 0 0
        (BitVec.ofNat 64 (descNat (behind (sTimed 2 0 (timed0 false .waiting))) 8 8)) with
      | .ends a b c => decide (a = 4 ∧ b = 0 ∧ c = 0) | _ => false) = true := by decide +kernel
    revert h
    dsimp only
    generalize (sTimed 2 0 (timed0 false .waiting)).checkImage 0 0 _ = c
    cases c <;> simp

theorem witness_TimedPacketsArePreparedAndReleased :
    (∀ type ∈ [1, 2, 4], ∀ c ∈ [0, 1], let s := sTimed type 0 (begun0 type c)
      TimedAt s 0 0 (begun0 type c) (behind s) ∧ s.tai ≤ (begun0 type c).trigger + tenNs ∧ descNat (behind s) 0 1 = type ∧
      (type = 1 → ∃ e ∈ (s.job 1).onDies, (s.placeFor 1 e).isSome = true) ∧
      (type = 2 → (s.heldRestore 0 0).any (fun y => y.map.isSome) = true)) ∧
    (∀ drop : Bool, ∀ tai ∈ [100 * 2 ^ 16, 111 * 2 ^ 16], let s := sTimed 1 tai (done0 drop)
      TimedAt s 0 0 (done0 drop) (behind s) ∧ descNat (behind s) 0 1 = 1 ∧ s.jobs.has 1 = true ∧
      (done0 drop).trigger ≤ tai + tenNs ∧ (done0 drop).drop = drop) ∧
    (100 * 2 ^ 16 ≤ (done0 true).trigger + tenNs ∧ (done0 true).trigger + tenNs < 111 * 2 ^ 16) ∧
    (sFirst.feLost = false ∧
     (sFirst.jobs.find? fun y => y.2.part == 0 && y.2.pk.q == 0 && match y.2.gate with | .from t => decide (t ≤ sFirst.tai + tenNs) | _ => false) =
      some (0, { job0 with gate := .from 100 })) := by
  refine ⟨fun b hb c hc => ⟨timedAt_of ?_, ?_⟩, fun b t ht => ⟨timedAt_of ?_, ?_⟩, by decide +kernel, by decide +kernel⟩
  · revert b c; decide +kernel
  · revert b c; decide +kernel
  · revert b t; decide +kernel
  · revert b t; decide +kernel

/-- Queues 0 to n - 1 hold slots and WAITWs; queue 20 has a packet and waits for a slot. -/
def sQueues (n : Nat) : State :=
  { state0 with
    mem := tables [], parts := [(0, partFe)]
    queues := ((List.range n).map fun k => (k, { queue0 with widx := 5, waitw := some {} })) ++ [(20, { queue0 with slot := false })] }

theorem witness_SlotsAndLookAhead :
    (let x := (sQueues 1).queue 0 0
     x.en = true ∧ x.stopped = false ∧ x.slot = true ∧ (sQueues 1).headBlocked 0 0 = true ∧ (sQueues 1).feLost = false ∧
      x.look < min 8 ((x.widx - x.ridx).toNat - if x.waitw.isSome || x.timed.isSome then 0 else 1) ∧
      ((sQueues 1).lookPacket 0 0 ((if x.waitw.isSome || x.timed.isSome then 0 else 1) + x.look)).any
        (fun z => descNat z.1 0 1 != 1) = true) ∧
    (∀ n ∈ [7, 8], (sQueues n).wantsSlot 0 20 = true ∧
      ∀ k ∈ (sQueues n).queuesOf 0, k ≠ 20 → (sQueues n).wantsSlot 0 k = true → (sQueues n).slotBefore 0 k 20 = false) ∧
    (((sQueues 7).queuesOf 0).filter fun k => ((sQueues 7).queue 0 k).slot).length < 8 ∧
    (8 ≤ (((sQueues 8).queuesOf 0).filter fun k => ((sQueues 8).queue 0 k).slot).length ∧
      ((((sQueues 8).queuesOf 0).filter fun k => ((sQueues 8).queue 0 k).slot).find? fun k => (sQueues 8).yields 0 k) = some 0) := by
  decide +kernel

theorem witness_LookAhead_quiet : NoReleases (sQueues 1) ∧ ∀ d, ((sQueues 1).die d).hdirty = [] :=
  ⟨noReleases_of_none rfl, fun _ => rfl⟩

/-- The job under a stop, or with its die under one; without pulses for 200 ticks. -/
def sStop (stop : Option CtxStop) (die : Option Nat) : State :=
  { state0 with tick := 200, jobs := [(0, { job0 with stop := stop, dieStop := die, r := { job0.r with wdog := 100 } })] }

/-- Where engines own no line, a quiet context may be saved. -/
theorem mayPreempt_of_none {s : State} {j : Nat} {die : Option Nat} (ho : s.owned = [])
    (h : s.contextQuiet j (contextCores (s.job j) die) = true) : s.mayPreempt j die = true := by
  have hn : (fun p : Nat × Nat => (s.owned.getD (lineOf p.1) []).any fun k => !(decide (k < 2 ^ 14) &&
      decide (k / 16 ∈ contextCores (s.job j) die))) = fun _ => false := by
    funext p
    simp [ho, FMap.getD, FMap.look]
  unfold State.mayPreempt State.imageHeld
  simp only [h, hn, List.any_eq_false.mpr (fun _ _ => Bool.false_ne_true), Bool.and_false, Bool.not_false, Bool.and_self]

theorem witness_JobsAreSaved :
    (sStop (some { reason := 5 }) none).mayPreempt 0 none = true ∧ (sStop none (some 0)).mayPreempt 0 (some 0) = true :=
  ⟨mayPreempt_of_none rfl (by decide +kernel), mayPreempt_of_none rfl (by decide +kernel)⟩

theorem witness_JobsAreStoppedSavedAndKilled :
    (let s := sStop none none; s.jobs.has 0 = true ∧ (s.job 0).runs = true ∧ (s.job 0).gate = .open ∧ (s.job 0).pulse + (s.job 0).r.wdog ≤ s.tick) ∧
    (let s := sStop (some { reason := 5 }) none
     s.jobs.has 0 = true ∧ (s.job 0).phase = .running ∧ (s.job 0).stop = some { reason := 5 } ∧
      0 ∈ (s.job 0).cores ∧ (s.warp 0 0).id.job = 0 ∧ (s.warp 0 0).st ≠ .free) ∧
    (let s := sStop none (some 0)
     s.jobs.has 0 = true ∧ (s.job 0).phase = .running ∧ (s.job 0).stop = none ∧ (s.job 0).dieStop = some 0 ∧
      0 ∈ (s.job 0).cores ∧ dieOf 0 = 0) ∧
    (let s := sStop none none
     s.feReady = true ∧ s.feLost = false ∧ (s.part 0).jbusy = false ∧ s.jobNumbered 0 (5 : BitVec 32).toNat .running = none ∧
      s.jobNumbered 0 (1 : BitVec 32).toNat .running = some 0 ∧ (∀ m ∈ (s.job 0).r.gridMasks, m = 0) ∧ (s.job 0).r.taskSlots = 0) ∧
    (let s := (sStop none none).updJob 0 fun jb => { jb with phase := .saved }
     s.jobNumbered 0 (1 : BitVec 32).toNat .running = none ∧ s.jobNumbered 0 (1 : BitVec 32).toNat .saved = some 0) ∧
    (((sBob [] []).job 0).r.taskSlots ≠ 0 ∧ (sBob [] []).jobNumbered 0 (1 : BitVec 32).toNat .running = some 0) := by
  decide +kernel

/-- A checked image of one warp and one scratchpad byte; its job is saved, or of another machine's die form. -/
def savedWarp0 (wait : Wait) : Warp :=
  { warp0 with gen := 4, regs := { s := [(3, 9)] }, st := if wait = .none then .active else .asleep, wait := wait }
def restore0 (die : Option Nat) (map : Option (List (Nat × Nat))) (wait : Wait := .none) : Restore :=
  { part := 0, pk := { q := 0, idx := 6 }, addr := 0x21000, map := map
    ctx := { part := 0, job := 0, die := die, jb := job0, used := [0], slots := [(0, savedWarp0 wait)], mem := [(2 ^ 59 + 5, 7)] } }
def sRestore (r : Restore) (jobs : FMap Job) : State :=
  { state0 with
    slots := [], cores := [], jobs := jobs, restores := [r], mem := tables [], parts := [(0, { partFe with clus := 6 })] }

theorem witness_RestoredContextsRunAgain :
    ((sRestore (restore0 none none) []).restoreOf 0 0 (fun r => r.map.isNone) = some (restore0 none none) ∧ (restore0 none none).ctx.die = none ∧
      (sRestore (restore0 none none) []).mapClusters (restore0 none none).ctx = some [(0, 1)]) ∧
    ((sRestore (restore0 (some 0) none) []).restoreOf 0 0 (fun r => r.map.isNone) = some (restore0 (some 0) none) ∧
      (sRestore (restore0 (some 0) none) []).rejoins (restore0 (some 0) none).ctx = false) ∧
    ((sRestore (restore0 (some 0) (some [(0, 1)])) []).restoreOf 0 0 (fun r => r.map.isSome && !r.held && r.pages.isEmpty) =
        some (restore0 (some 0) (some [(0, 1)])) ∧
      (sRestore (restore0 (some 0) (some [(0, 1)])) []).rejoins (restore0 (some 0) (some [(0, 1)])).ctx = false) ∧
    (∀ wait ∈ [Wait.none, .record 0x20200 9], let r := restore0 none (some [(0, 1)]) wait; let s := sRestore r [(0, { job0 with phase := .saved })]
     s.restoreOf 0 0 (fun r => r.map.isSome && !r.held && r.pages.isEmpty) = some r ∧ r.dead = false ∧ r.map = some [(0, 1)] ∧ r.ctx.die = none ∧
      s.jobs.has r.ctx.job = true ∧ (s.job r.ctx.job).phase = .saved ∧ r.ctx.slots = [(0, savedWarp0 wait)] ∧ (savedWarp0 wait).wait = wait ∧
      r.ctx.mma = [] ∧ FeFree s 0 .write (r.addr + 16) 4 0x21010 ∧ 0x21010 + 4 ≤ 2 ^ 58 ∧ r.ctx.mem = [(2 ^ 59 + 5, 7)]) := by
  refine ⟨by decide +kernel, by decide +kernel, by decide +kernel, fun w hw =>
    ⟨?_, ?_, ?_, ?_, ?_, ?_, ?_, ?_, ?_, feFree_of ?_ ?_, ?_, ?_⟩⟩
  all_goals revert w; decide +kernel

/-! ## Time, partitions, the host -/

/-- The ready stage, with the discipline as given. -/
def sTai (src : BitVec 2) (d : Tai) (lock : Bool) : State :=
  { state0 with bt := { state0.bt with stage := 4 }, tick := 10000000000, tai := 2 ^ 30, taiD := d, taiLock := lock, parts := [(0, { part0 with taiSrc := src })] }

theorem witness_TheTaiCounterIsDisciplined :
    (sTai 1 {} false).taiD.slew.natAbs ≤ nsUnits 10000 ∧ (sTai 1 {} false).barOpen = true ∧
    ((sTai 1 {} false).tai < nsUnits (20000 : BitVec 64).toNat ∧ nsUnits (100 : BitVec 64).toNat ≤ (sTai 1 {} false).tai) ∧
    ((sTai 1 { waiting := true, good := 15 } false).feRuns = true ∧ (sTai 1 { waiting := true } false).taiSrc = 1 ∧
      (sTai 1 {} false).taiD.asked + msTicks ((sTai 1 {} false).part (sTai 1 {} false).taiD.part).ptmper.toNat ≤ (sTai 1 {} false).tick ∧
      (sTai 1 { waiting := true, good := 15 } false).taiD.waiting = true ∧ 15 ≤ (sTai 1 { waiting := true, good := 15 } false).taiD.good) ∧
    ((-10001 : Int) < -10000 ∧ (-10000 : Int) ≤ -10000 ∧ 100 < (101 : Int).natAbs ∧ (-20 : Int).natAbs ≤ 20) ∧
    ((sTai 1 {} false).taiSrc ≠ 2 ∧ (sTai 2 {} false).taiSrc = 2) ∧
    ((sTai 1 {} true).taiLock = true ∧ (sTai 1 {} true).taiD.sampled + msTicks 4000 ≤ (sTai 1 {} true).tick) := by
  decide +kernel

/-- Partition 1 with cluster 5, a channel group, ways and a share on die 0, function 3, of a package that is ready. -/
def part1 : Partition := { clus := 32, chan := 2, l2w := 2, bkt := 4, fn := 3 }
def sPart (en busy : Bool) (phase : JobPhase) : State :=
  { state0 with
    bt := { state0.bt with stage := 4 }, parts := [(1, { part1 with en := en, rstBusy := busy })], refills := []
    slots := [(slotKey 20 0, { warp0 with id := { warp0.id with part := 1 } })]
    jobs := [(0, { job0 with part := 1, phase := phase, cores := [20], onDies := [0] })]
    cores := [(20, { occ := some 0, places := 1 })] }

theorem witness_PartitionsAreEnabledAndReset :
    (sPart false false .saved).barOpen = true ∧ ((sPart false false .saved).part 1).en = false ∧ (sPart false false .saved).enableError 1 = 0 ∧
    ((sPart false false .saved).part 1).clus.getLsbD 5 = true ∧
    (∀ y ∈ (sPart true false .saved).jobs, y.2.part = 1 → y.2.phase = .saved) ∧
    (∃ y ∈ (sPart true false .running).jobs, y.2.part = 1 ∧ y.2.phase = .running) ∧
    (((sPart true false .running).part 1).rstBusy = false ∧ (sPart true false .running).partOf 3 = some 1) ∧
    ((∀ q < 8, ((sPart false false .saved).part q).en = false) ∧ ∃ q, q < 8 ∧ ((sPart true false .saved).part q).en = true) ∧
    (((sPart true true .running).part 1).rstBusy = true ∧ resetPlace 1 ((sPart true true .running).part 1) (2 ^ 59 + 2 ^ 19 * 20 + 5) = true ∧
      ((sPart true true .running).part 1).clus.getLsbD (20 / 4) = true) ∧
    ((sPart true false .running).refills.getD 0 0 < (sPart true false .running).tick / 1024 + 1 ∧
      ((sPart true false .running).part 1).en = true ∧ (sPart true false .running).idleOn 1 0 = false ∧ ((sPart true false .running).part 2).en = false) := by
  refine ⟨by decide +kernel, by decide +kernel, by decide +kernel, by decide +kernel, by decide +kernel, by decide +kernel, by decide +kernel,
    ⟨by decide +kernel, 1, by decide +kernel⟩, ?_⟩
  decide +kernel

/-- A byte of the package's own memory, where no partition is enabled; a leaf that partition 1 holds. -/
theorem witness_GroupsMoveMemory :
    (let s : State := { sPart false false .saved with mem := [(0x5000, 7)] }
     (∀ q < 8, (s.part q).en = false) ∧ s.mem = [(0x5000, 7)] ∧ 0x5000 < 2 ^ 42 ∧ posOf 0x5000 = s.groupPos) ∧
    tlbKey 1 false 0x5000 / 2 ^ 47 = 1 := by
  decide +kernel

/-- A package whose function 3 has a partition with a BAR2 window at 0x20000. -/
def sHost (en : Bool) (stage : BitVec 4) (masked : Bool := false) : State :=
  { state0 with
    mem := tables [], msixTab := if masked then [(12, 1)] else []
    bt := { state0.bt with stage := stage }, parts := [(0, { partFe with en := en, fn := 3, b2base := 0x20000 })], pcie := stage != 5 }

theorem witness_TheHostReachesTheDevice :
    ((sHost true 4).pcie = true ∧ 16 + 8 ≤ 2 ^ 36 ∧ (sHost true 4).bar2Segs 3 16 8 .read = some [(0x20010, 8)] ∧
      (sHost true 4).feHeld [(0x20010, 8)] = false ∧ (sHost true 4).owned.has (lineOf 0x20010) = false ∧
      (sHost true 4).bar2Segs 3 0x40000008 8 .read = none ∧ (sHost true 4).partOf 3 = some 0) ∧
    ((sHost true 4).bar2Segs 3 16 (bytesOf 8 5).length .write = some [(0x20010, (bytesOf 8 5).length)] ∧ isHostPlace 0x20010 = false ∧
      (sHost true 4).bar2Segs 3 0x40000008 (bytesOf 8 5).length .write = none ∧ (sHost true 4).pcie = true) ∧
    (∀ b : Bool, (sHost true 5 b).pcie = false ∧ 2 ≤ (sHost true 5 b).bt.stage.toNat ∧ (sHost true 5 b).bt.stage = 5 ∧
      (sHost true 5 b).masked 0 0 = b) ∧ (sHost true 4).barOpen = true ∧
    (((sHost false 4).part 0).en = false ∧ (sHost false 4).partOf 3 = some 0) ∧ ((sHost true 4).part 0).en = true ∧
    (sHost true 4).partOf 4 = none := by
  decide +kernel

end Sys2Proof.Tests
end

