-- ==== Sys2Proof/Tests/WitnessBoot.lean ====
section
/-! SUPPORT. States that meet the hypotheses of the statements about boot, power, words and steps. -/

namespace Sys2Proof.Tests

open Sys2Proof Sys2Proof.Machine Sys2Proof.Slice0

set_option maxRecDepth 100000
set_option Elab.async false

/-! ## Boot, bundles, power and health -/

/-- A bundle of security version 3 with no firmware and no bitstream (R425). Its signing key is the multiple
0x1234567890abcdef of P-256's generator, and its signature was computed outside the model. -/
def bundle0 : List Byte := bytesOf 256
  0x14241afb6a07b62c09b6c11aa3fc880e5302cf8f0ed21c95452c6240cd5e8c74e9f9cd1da060967d82d8b9818792991a243b36dcd3203333d773320f7ba4c5534ffd072aeca89137bfa44ec6cdb0c03331e6bfb1e50f47c2e270109f7645cb0734599aa5131d4f0cceb571f80c2bde096aef2cd81400017fefbb08aeae84ad9f55b852781b9995a44c939b64e441ae2724b96f99c8f4fb9a141cfc9842c4b0e355b852781b9995a44c939b64e441ae2724b96f99c8f4fb9a141cfc9842c4b0e300000000000000000003000142465a47
def keyHash0 : List Byte := bytesOf 32 0x42aa6050310d420c13e2bf2f0ec5240621e208ef80625e14cc1943626a171e99

theorem bundle_accepted : bundleError keyHash0 2 bundle0 = 0 := by decide +kernel

/-- The package in a stage, with a flash, a work of the recovery core and a power state. -/
def sBt (stage : BitVec 4) (flash : List Byte) (busy : BtBusy) : State :=
  { state0 with bt := { stage := stage, rootKey := keyHash0, fsvn := 2, svn := 3, flash := flash, busy := busy, updaddr := 0x20000, updlen := 16, maddr := 0x21000 } }
def sOff (power : Power) : State := { sBt 4 [] .idle with hm := { power := power } }
/-- It before the front end starts. -/
def sStart : State := { sBt 4 [] .idle with feReady := false }

theorem bundle_refused : bundleError keyHash0 2 [] = 1 := by decide +kernel

theorem witness_TheDeviceBoots :
    (sOff .stageOff).hm.power = .stageOff ∧ CoreIdle (sBt 4 [] .idle) ∧ (0 : BitVec 16) ≠ 0xA5C3 ∧
    ((sBt 1 bundle0 .idle).bt.stage = 1 ∧
      bundleError (sBt 1 bundle0 .idle).bt.rootKey (sBt 1 bundle0 .idle).bt.fsvn (sBt 1 bundle0 .idle).bt.flash = 0) ∧
    ((sBt 1 [] .idle).bt.stage = 1 ∧
      bundleError (sBt 1 [] .idle).bt.rootKey (sBt 1 [] .idle).bt.fsvn (sBt 1 [] .idle).bt.flash ≠ 0) ∧
    (sBt 2 [] .idle).bt.stage = 2 ∧ (sBt 3 [] .idle).bt.stage = 3 ∧
    (sStart.bt.stage = 4 ∧ sStart.feReady = false ∧ sStart.hd.up.getLsbD 0 = true) := by
  refine ⟨rfl, ⟨by decide +kernel, rfl⟩, by decide, ⟨rfl, bundle_accepted⟩, ⟨rfl, ?_⟩, rfl, rfl, ⟨rfl, rfl, by decide +kernel⟩⟩
  have h : bundleError (sBt 1 [] .idle).bt.rootKey (sBt 1 [] .idle).bt.fsvn (sBt 1 [] .idle).bt.flash = 1 := bundle_refused
  rw [h]
  decide

/-- In recovery, with the bundle's one block received. -/
def sBlock (x : List Byte) : State := { sBt 5 [] .idle with bt := { (sBt 5 [] .idle).bt with blocks := [(0, x)] } }

theorem witness_BundlesAndMeasurements :
    (CoreIdle (sBt 4 [] .idle) ∧ (sBt 4 [] .idle).bt.stage = 4 ∧ CoreIdle (sBt 5 [] .idle) ∧ (sBt 5 [] .idle).bt.stage = 5) ∧
    (((sBt 4 [] (.update [])).bt.stage ≠ 5 ∧ (sBt 4 [] (.update [])).bt.pending = false) ∧ (sBt 5 [] (.update [])).bt.stage = 5) ∧
    ((sBt 4 [] .idle).bt.fsvn < (sBt 4 [] .idle).bt.svn.toNat ∧ (0 : BitVec 16) ≠ 0xA5C3) ∧
    (∀ i ∈ (sBlock bundle0).bt.blocks.keys, i < ((256 : BitVec 32).toNat + 4095) / 4096) ∧
    bundleError (sBlock bundle0).bt.rootKey (sBlock bundle0).bt.fsvn (joinBlocks (sBlock bundle0).bt.blocks (256 : BitVec 32).toNat) = 0 ∧
    bundleError (sBlock []).bt.rootKey (sBlock []).bt.fsvn (joinBlocks (sBlock []).bt.blocks (256 : BitVec 32).toNat) ≠ 0 ∧
    (sOff .on).coreAlive = true ∧ (sOff .stageOff).coreAlive = false ∧
    (cuts 128 4 (sBt 4 [] .idle).bt.maddr.toNat 256 = [(0x21000, 128), (0x21000 + 128, 128)] ∧
      isHostPlace 0x21000 = false ∧ isHostPlace (0x21000 + 128) = false) ∧ NoReleases (sBt 4 [] (.measure [] false)) := by
  have hb : joinBlocks (sBlock bundle0).bt.blocks (256 : BitVec 32).toNat = bundle0 := by decide +kernel
  have hr : bundleError (sBlock []).bt.rootKey (sBlock []).bt.fsvn (joinBlocks (sBlock []).bt.blocks (256 : BitVec 32).toNat) = 1 := by
    decide +kernel
  refine ⟨⟨⟨by decide +kernel, rfl⟩, rfl, ⟨by decide +kernel, rfl⟩, rfl⟩, ⟨⟨by decide +kernel, rfl⟩, rfl⟩, by decide +kernel,
    by decide +kernel, by rw [hb]; exact bundle_accepted, by rw [hr]; decide, by decide +kernel, by decide +kernel, by decide +kernel, noReleases_of_none rfl⟩

theorem beBytes_length (n x : Nat) : (beBytes n x).length = n := by
  induction n <;> simp_all [beBytes]
theorem sha256_length (m : List Byte) : (sha256 m).length = 32 := by
  simp only [sha256, List.length_flatMap, beBytes_length]
  decide
theorem signature_length (d k : Nat) (m : List Byte) : (ecdsaSign d k m).length = 64 := by
  unfold ecdsaSign
  generalize hx : ((List.range 16).findSome? _ : Option (List Byte)) = x
  cases x with
  | none => simp
  | some y =>
    obtain ⟨i, -, hi⟩ := List.exists_of_findSome?_eq_some hx
    unfold ecdsaSignWith at hi
    repeat' split at hi
    all_goals simp at hi
    simp [← hi.2, beBytes_length]

theorem reportBody_length (s : State) {nonce : List Byte} (h : nonce.length ≤ 32 ∧ s.bt.fwHash.length ≤ 32 ∧ s.bt.bsHash.length ≤ 32) :
    (s.reportBody nonce).length = 192 := by
  simp only [State.reportBody, padTo, List.length_append, bytesOf_length, sha256_length, List.length_replicate]
  omega

/-- The lengths that the report's clause asks for, and what a measurement waits for. -/
theorem witness_MeasurementReports :
    ((sBt 4 [] (.measure [] false)).reportBody []).length = 192 ∧
    (ecdsaSign (sBt 4 [] (.measure [] false)).bt.idKey (Config.freeNat (sBt 4 [] (.measure [] false)).freeIdx)
      ((sBt 4 [] (.measure [] false)).reportBody [])).length = 64 ∧
    (∀ b : Bool, (sBt 4 [] (.measure [] b)).coreAlive = true ∧ (sBt 4 [] (.measure [] b)).bt.pending = false ∧
      (sBt 4 [] (.measure [] b)).bt.busy = .measure [] b) := by
  exact ⟨reportBody_length _ (by decide +kernel), signature_length _ _ _, by decide +kernel⟩

/-- In the ready stage, with the health block as given. -/
def sHm (h : Health) : State := { state0 with bt := { state0.bt with stage := 4, flash := [] }, hm := h, tick := 20000000000 }
/-- An hour after the last trends, with so many of them. -/
def sEol (n : Nat) : State := { sHm { trendHours := n } with tick := hourTicks }
/-- A cluster that has reached its threshold, and one that has not. -/
def trend0 (ppm : BitVec 16) : Trend := { kind := 1, ident := 0, value := ppm, margin := 100 }

theorem witness_HoursAreRecomputed :
    (∀ n ∈ [166, 167], (sEol n).coreAlive = true ∧ (sEol n).hm.eolAt + hourTicks ≤ (sEol n).tick ∧ (sEol n).hm.trendHours = n) ∧
    leastTrend ((sEol 167).hoursOf [trend0 40000]).1 = some (0, trend0 40000) ∧
    (∃ x ∈ [trend0 39999, trend0 40000], trendReached x = true) ∧ trendReached (trend0 39999) = false ∧
    ([trend0 39999, trend0 40000].filter fun t => decide (1 ≤ t.kind.toNat) && decide (t.kind.toNat ≤ 4)) =
      [trend0 39999, trend0 40000] := by
  decide +kernel

theorem witness_PowerAndHealthAreWatched :
    ((40000 : BitVec 16).toNat = 40000 ∧ (39999 : BitVec 16).toNat < 40000) ∧
    ((sHm {}).mayStep = true ∧
      ((sHm { overCap := true }).hm.overCap = true ∧ (sHm { overCap := true }).fastest ((sHm { overCap := true }).clustersWhere false) = some 0) ∧
      ((sHm { calm := some 0 }).hm.overCap = false ∧ 0 + msTicks 10 ≤ (sHm {}).tick) ∧
      (1050 ≤ (sHm { tj := 1050 }).hm.tj.toNat ∧
        (sHm {}).fastest (((sHm {}).clustersWhere false).filter fun k => k / 32 == (0 : DieId).val) = some 0)) ∧
    1250 ≤ (1250 : BitVec 16).toNat ∧ 0 + msTicks 1000 ≤ (sHm {}).tick ∧
    ((35999 : BitVec 16).toNat < 36000 ∧ 63000 < (63001 : BitVec 16).toNat) ∧
    ((sHm {}).feRuns = true ∧ (sHm {}).feReady = true ∧ (sHm {}).hm.pulse + msTicks 1000 ≤ (sHm {}).tick ∧
      (sHm {}).coreAlive = true ∧ (sHm {}).hm.fehb = false ∧ (sHm {}).pcie = true ∧ (sHm {}).masked 0 (sHm {}).hm.vec.toNat = false ∧
      (sHm {}).masked 0 0 = false) ∧
    (let s := sHm { fehb := true, autorst := true }
     s.coreAlive = true ∧ s.hm.fehb = true ∧ s.hm.autorst = true ∧ s.hm.fehbAt + msTicks 1000 ≤ s.tick ∧ s.bt.busy = .idle) := by
  decide +kernel

/-! ## Words, steps, and what every step keeps -/

theorem witness_DecodingAndEncodingAgree :
    (Instr.wf (.sadd 3 1 2) = true ∧ encode (.sadd 3 1 2) = some 0x020C0820) ∧
    ((0x020C0820 : Nat) < 2 ^ 32 ∧ decodeWord 0x020C0820 = .ok (.sadd 3 1 2)) := by
  decide +kernel

/-- SADD s3, s1, s2 at 0x10000, and this turn. -/
def sTurn (t : Turn) : State :=
  { state0 with mem := [(0x10000, 0x20), (0x10001, 0x08), (0x10002, 0x0C), (0x10003, 0x02)], turns := [t] }
/-- Before VADD v3, v1, v127, with a load of v1 under way. -/
def sHeld : State :=
  { withWarp (fun w => { w with log := [{ op := .load 2 1 2 4, la := 5 }] }) with
    mem := [(0x10000, 0xF0), (0x10001, 0x0F), (0x10002, 0x0C), (0x10003, 0x20)] }

def isNext (o : Host.Outcome State Fault Refusal) (f : State → Bool) : Bool := match o with | .next t => f t | _ => false

/-- Core 0 with warps that are ready in slots 0, 1 and 2, the last two promoted; a cluster whose reservation table is full before a
warp's MMA. -/
def sRivals : State :=
  let w := { warp0 with ctl := { warp0.ctl with promo := true } }
  { sTurn (.issue 0 0) with slots := [(0, warp0), (1, w), (2, w)] }
def sFull : State :=
  { sTurn (.issue 0 0) with mem := writeN [] 0x10000 (bytesOf 4 0xE1000854), mma := [(0, List.replicate 16 { core := 1 })] }
/-- Its instruction's register s1 has an uncorrectable element; the page of its code is declared unresolvable. -/
def sUpset : State :=
  let s := sTurn (.issue 0 0)
  s.setWarp 0 0 { warp0 with bad := [(8194, true)] }
def sDead : State :=
  let s := sTurn (.issue 0 0)
  s.setWarp 0 0 { warp0 with fetchDead := some (6, 0x10) }
/-- A far store to core 1's bank. -/
def sFar : State :=
  { state0 with cores := [(0, { state0.core 0 with far := [{ place := 2 ^ 59 + 2 ^ 19, bytes := [7] }] })], turns := [.far 0 0] }

theorem fetches_of {s : State} {va n v place : Nat} {tg bk : Bool}
    (h : s.translate s.cur.1 s.cw.id.part false .fetch va = .ok place tg bk)
    (h' : s.cw.oldWords (lineOf place) (place - lineOf place) n = [] ∧ (s.core s.cur.1).l1.icache.has (lineOf place) = false ∧
      s.poisoned place n = false ∧ isHostPlace place = false ∧ (s.core s.cur.1).l1.icache.length < icacheLines ∧ v = codeAt s place n)
    (hd : s.dies = []) : Fetches s va n v :=
  ⟨place, tg, bk, h, h'.1, .inr ⟨h'.2.1, h'.2.2.1, h'.2.2.2.1, h'.2.2.2.2.1, noReleases_of_none hd⟩, h'.2.2.2.2.2⟩

/-- The line of its word in the instruction cache, and still as memory holds it; poisoned, and so read from the cache. -/
def sCached (bad : Bool) : State :=
  let s := sTurn (.issue 0 0)
  let line := s.read 0x10000 128
  { s with
    cores := [(0, { core0 with l1 := { icache := [(0x10000, line)] } })], poison := if bad then [(0x10000, true)] else []
    mem := if bad then [] else s.mem }
/-- A word whose register lies beyond the warp's allotment, and which reads an uncorrectable element. -/
def sBadWord : State :=
  let s := { sTurn (.issue 0 0) with mem := sHeld.mem }
  s.setWarp 0 0 { warp0 with bad := [(65 * 64, true), (64, true)], id := { warp0.id with allot := 0 } }
/-- A copy of three chunks whose pages are absent. -/
def sChunks : State := { sCopy with mem := [], copies := [{ copy0 with len := 12288, pos := 0 }], turns := [.copy 0 0] }

theorem witness_FetchesFromTheInstructionCache : ∀ bad : Bool, Fetches (issuing (sCached bad) [] 0 0) 0x10000 4 0x020C0820 := by
  intro b
  refine ⟨0x10000, true, false, ?_, ?_, .inl ⟨?_, ?_⟩, ?_⟩
  all_goals cases b <;> decide +kernel

theorem witness_CopyChunks :
    sChunks.turns = .copy 0 0 :: [] ∧ (∃ x, sChunks.copyOf 0 0 = some x ∧ x.pos + 4096 < x.len) ∧
    ((sChunks.copyOf 0 0).bind sChunks.copyChunk).any (fun t => t.short == false) = true :=
  ⟨rfl, ⟨{ copy0 with len := 12288, pos := 0 }, by decide +kernel, by decide⟩, by decide +kernel⟩

theorem witness_DecodeChecksComeFirst :
    (let u := issuing sBadWord [] 0 0
     sBadWord.mayIssue 0 0 = true ∧ sBadWord.warpReady 0 0 = true ∧ u.cw.fetchDead = none ∧ u.cw.cap = none ∧
      decodeWord 0x200C0FF0 = .ok (.vadd 3 1 127) ∧ u.cw.blocks 0x200C0FF0 (.vadd 3 1 127) = false ∧
      (u.decodeSub (.vadd 3 1 127)).isSome = true ∧ isNext (exec (.vadd 3 1 127) u) (fun t => t.short == false) = true) ∧
    Fetches (issuing sBadWord [] 0 0) 0x10000 4 0x200C0FF0 := by
  refine ⟨by decide +kernel, fetches_of (place := 0x10000) (tg := true) (bk := false) ?_ ?_ rfl⟩
  all_goals decide +kernel

theorem witness_StepRunsTheDecodedInstruction :
    ((sTurn (.issue 0 0)).hm.power = .on ∧ (sTurn (.issue 0 0)).turns = .issue 0 0 :: []) ∧
    (let s := { sTurn (.issue 0 1) with turns := [] }; s.mayIssue 0 1 = true ∧ s.warpReady 0 1 = false) ∧
    sRivals.chosen 0 0 = false ∧ (sFull.chosen 0 0 = true ∧ sFull.granted 0 0 = false) ∧
    (let s' := { sTurn (.issue 0 0) with turns := [] }
     let u := issuing (sTurn (.issue 0 0)) [] 0 0
     s'.mayIssue 0 0 = true ∧ s'.warpReady 0 0 = true ∧ u.cw.fetchDead = none ∧ u.cw.cap = none ∧ u.cw.bad = [] ∧
      decodeWord 0x020C0820 = .ok (.sadd 3 1 2) ∧
      u.cw.blocks 0x020C0820 (.sadd 3 1 2) = false ∧ isNext (exec (.sadd 3 1 2) u) (fun t => t.short == false) = true) ∧
    Fetches (issuing (sTurn (.issue 0 0)) [] 0 0) 0x10000 4 0x020C0820 ∧
    ((issuing sHeld [] 0 0).cw.blocks 0x200C0FF0 (.vadd 3 1 127) = true ∧ sHeld.warpReady 0 0 = true ∧ sHeld.mayIssue 0 0 = true ∧
      decodeWord 0x200C0FF0 = .ok (.vadd 3 1 127)) ∧
    Fetches (issuing sHeld [] 0 0) 0x10000 4 0x200C0FF0 ∧
    Fetches (issuing state0 [] 0 0) 0x10000 4 0 ∧ (∃ r, decodeWord 0 = .bad r) ∧ state0.short = false ∧
    Fetches (issuing sUpset [] 0 0) 0x10000 4 0x020C0820 ∧
    ((Instr.elemsRead (issuing sUpset [] 0 0).cw (.sadd 3 1 2)).find? (issuing sUpset [] 0 0).cw.bad.has = some 8194 ∧
      (issuing sUpset [] 0 0).cw.blocks 0x020C0820 (.sadd 3 1 2) = false ∧ sUpset.mayIssue 0 0 = true ∧ sUpset.warpReady 0 0 = true ∧
      (issuing sUpset [] 0 0).decodeSub (.sadd 3 1 2) = none ∧ (issuing sUpset [] 0 0).short = false) ∧
    ((issuing sDead [] 0 0).cw.fetchDead.isSome = true ∧ sDead.short = false ∧ sDead.mayIssue 0 0 = true ∧ sDead.warpReady 0 0 = true) ∧
    (Instr.isEvent (.powerSample 1 2 3) = true ∧ isNext (exec (.powerSample 1 2 3) state0) (fun t => t.short == false) = true ∧
      Instr.isEvent .throttleStep = true ∧ isNext (exec .throttleStep state0) (fun _ => true) = false) ∧
    (sFar.core 0).far[0]? = some { place := 2 ^ 59 + 2 ^ 19, bytes := [7] } ∧ (state0.upset .corrected).isSome = true := by
  refine ⟨?_, ?_, ?_, ?_, ?_, fetches_of (place := 0x10000) (tg := true) (bk := false) ?_ ?_ rfl, ?_,
    fetches_of (place := 0x10000) (tg := true) (bk := false) ?_ ?_ rfl,
    fetches_of (place := 0x10000) (tg := true) (bk := false) ?_ ?_ rfl, ⟨_, rfl⟩, ?_,
    fetches_of (place := 0x10000) (tg := true) (bk := false) ?_ ?_ rfl, ?_⟩
  all_goals repeat' apply And.intro
  all_goals decide +kernel

theorem witness_EveryStepKeepsTheMemoryForm :
    (sTurn (.issue 0 0)).memoryOk = true ∧ isNext (step (sTurn (.issue 0 0))) (fun t => t.memoryOk && t.cw.ctl.pc == 0x10004) = true := by
  decide +kernel

theorem witness_QuietEventsLeaveProgramsAlone :
    (quiet (.powerSample 1 2 3) = true ∧ readsLines (.powerSample 1 2 3) = false ∧ regroups (.powerSample 1 2 3) = false ∧
      isNext (exec (.powerSample 1 2 3) state0) (fun _ => true) = true) ∧
    (quiet (.lookaheadParse 0 0) = true ∧ readsLines (.lookaheadParse 0 0) = true ∧
      isNext (exec (.lookaheadParse 0 0) (sQueues 1)) (fun _ => true) = true) ∧
    (let s := sPart false false .saved
     quiet (.hdGroupWrite 0 8) = true ∧ regroups (.hdGroupWrite 0 8) = true ∧
      isNext (exec (.hdGroupWrite 0 8) s) (fun t => t.groupPos == s.groupPos && t.hd.gmem == s.hd.gmem) = true) := by
  decide +kernel

/-! ## An instruction placed in the machine after reset runs (`withFetchWord`) -/

/-- The first step after reset runs SADD's word of R245. -/
theorem test_placed_runs : isNext (step (State.reset.withFetchWord 32 0x020C0820)) (fun t => (t.warp 0 0).ctl.pc == 0x10004) = true := by
  decide +kernel

end Sys2Proof.Tests
end

section
/-! ## What the slices' work changes: drains, write-backs, flushes and the lines that slices obtain

Drains and obtains move bytes between caches and memory and change the directory. They touch no warp, no tag, no line bit, no
register and no TLB, whatever they drain on their way. -/

namespace Sys2Proof.Machine

/-- t differs from s at most in what the slices' work changes: bytes and their poison, L1s, the dies' records and host lines, the
directory, tokens and free choices (R99, R139 to R142). -/
structure SliceFrame (s t : State) : Prop where
  rest : t = { s with mem := t.mem, poison := t.poison, touched := t.touched, cores := t.cores, dies := t.dies, hd := t.hd
                      buckets := t.buckets, short := t.short, freeIdx := t.freeIdx }
  core : ∀ c, t.core c = { s.core c with l1 := (t.core c).l1 }
  die : ∀ d, (t.die d).tlb = (s.die d).tlb

namespace SliceFrame

variable {s t u : State}

theorem refl (s : State) : SliceFrame s s := ⟨rfl, fun _ => rfl, fun _ => rfl⟩

theorem trans (h : SliceFrame s t) (k : SliceFrame t u) : SliceFrame s u where
  rest := by
    have e := k.rest
    rw [h.rest] at e
    exact e
  core c := by
    have e := k.core c
    rw [h.core c] at e
    exact e
  die d := (k.die d).trans (h.die d)

/-- Everything that the frame lets change besides cores and dies may be replaced. -/
theorem upd (s : State) (mem : FMap Byte) (poison : FMap Bool) (touched : List Nat) (hd : Heddle) (buckets : FMap Nat)
    (short : Bool) (freeIdx : Nat) :
    SliceFrame s { s with mem := mem, poison := poison, touched := touched, hd := hd, buckets := buckets, short := short
                          freeIdx := freeIdx } := ⟨rfl, fun _ => rfl, fun _ => rfl⟩

theorem foldl {β : Type} {f : State → β → State} (hf : ∀ u x, SliceFrame u (f u x)) :
    ∀ (xs : List β) (s : State), SliceFrame s (xs.foldl f s)
  | [], s => refl s
  | x :: xs, s => (hf s x).trans (foldl hf xs (f s x))

theorem slots (h : SliceFrame s t) : t.slots = s.slots := by rw [h.rest]
theorem tags (h : SliceFrame s t) : t.tags = s.tags := by rw [h.rest]
theorem lineFull (h : SliceFrame s t) : t.lineFull = s.lineFull := by rw [h.rest]
theorem parts (h : SliceFrame s t) : t.parts = s.parts := by rw [h.rest]
theorem part (h : SliceFrame s t) (p : Nat) : t.part p = s.part p := by rw [State.part, h.parts]; rfl
theorem coreTlb (h : SliceFrame s t) (c : Nat) : (t.core c).tlb = (s.core c).tlb := by rw [h.core c]

end SliceFrame

/-! ### One update each -/

theorem setDie_die (s : State) (d e : Nat) (x : Die) : (s.setDie d x).die e = if e = d then x else s.die e :=
  FMap.getD_ins ..

theorem setCore_core (s : State) (c e : Nat) (x : Core) : (s.setCore c x).core e = if e = c then x else s.core e :=
  FMap.getD_ins ..

/-- A die that keeps its TLB is replaced. -/
theorem setDie_frame (s : State) (d : Nat) (x : Die) (h : x.tlb = (s.die d).tlb) : SliceFrame s (s.setDie d x) := by
  refine ⟨rfl, fun _ => rfl, fun e => ?_⟩
  rw [setDie_die]
  split
  · rw [h, ‹e = d›]
  · rfl

/-- A core's L1 is replaced. -/
theorem setL1_frame (s : State) (c : Nat) (l1 : L1) : SliceFrame s (s.setCore c { s.core c with l1 := l1 }) := by
  refine ⟨rfl, fun e => ?_, fun _ => rfl⟩
  rw [setCore_core]
  split
  · rw [‹e = c›]
  · rfl

theorem write_frame (s : State) (a : Nat) (bs : List Byte) : SliceFrame s (s.write a bs) := .upd ..

theorem hostWrite_frame (s : State) (a : Nat) (bs : List Byte) : SliceFrame s (s.hostWrite a bs) := by
  unfold State.hostWrite
  split
  · exact write_frame s a bs
  · exact .refl s

theorem hostFlush_frame (s : State) (line : Nat) : SliceFrame s (s.hostFlush line) := by
  unfold State.hostFlush
  dsimp only
  have h := SliceFrame.foldl (fun (u : State) (r : Nat × List Byte) => hostWrite_frame u r.1 r.2)
    (runsOf ((s.die (homeDie line)).hdirty.keep fun a _ => lineOf a == line)) s
  revert h
  generalize (runsOf _).foldl _ s = t
  intro h
  refine (h.trans (u := { t with poison := s.poison, touched := s.touched }) (.upd ..)).trans (setDie_frame _ _ _ rfl)

theorem l2Room_frame (s : State) (p line : Nat) : SliceFrame s (s.l2Room p line) := by
  unfold State.l2Room
  dsimp only
  split
  · exact .refl s
  · split
    · exact setDie_frame s _ _ rfl
    · split
      · exact setDie_frame s _ _ rfl
      · exact ((SliceFrame.upd ..).trans (hostFlush_frame _ _)).trans (setDie_frame _ _ _ rfl)

theorem l2Keep_frame (s : State) (p line : Nat) : SliceFrame s (s.l2Keep p line) := by
  unfold State.l2Keep
  split
  · dsimp only
    split
    · exact l2Room_frame s p line
    · exact (l2Room_frame s p line).trans (setDie_frame _ _ _ rfl)
  · exact .refl s

theorem slicePut_frame (s : State) (p a : Nat) (bs : List Byte) : SliceFrame s (s.slicePut p a bs) := by
  unfold State.slicePut
  split
  · have h := l2Room_frame s p (lineOf a)
    revert h
    generalize s.l2Room p (lineOf a) = t
    intro h
    dsimp only
    split
    · exact (h.trans (setDie_frame t _ _ (by rfl))).trans (.upd ..)
    · exact h.trans (hostWrite_frame _ a bs)
  · exact write_frame s a bs

theorem takeDirty_frame (s : State) (c : Nat) (f : Nat → Bool) : SliceFrame s (s.takeDirty c f).2.2 := setL1_frame s c _

theorem poisonAt_frame (s : State) (us : List Nat) : SliceFrame s (s.poisonAt us) := by
  refine ⟨rfl, fun _ => rfl, fun d => ?_⟩
  simp only [State.die, State.poisonAt, FMap.getD, FMap.look_mapV]
  cases s.dies.look d <;> rfl

theorem takeTokens_sliceFrame (s : State) (d p n : Nat) : SliceFrame s (s.takeTokens d p n) := by
  obtain ⟨b, x, h⟩ := takeTokens_frame s d p n
  rw [h]
  exact .upd ..

theorem charge_frame (s : State) (c n : Nat) : SliceFrame s (s.charge c n) := by
  unfold State.charge
  split
  · exact .refl s
  · exact takeTokens_sliceFrame s _ _ n

/-! ### Drains: what one drain leaves alone, every set of drains does -/

section Drains

variable {dr : State → Nat → State} (hd : ∀ s x, SliceFrame s (dr s x))
include hd

theorem drainSome_frame (s : State) (d line : Nat) (f : Nat × Nat → Option Bool) : SliceFrame s (s.drainSome dr d line f) := by
  unfold State.drainSome
  refine SliceFrame.foldl (fun u p => ?_) _ s
  cases f p with
  | none =>
    dsimp only
    split
    · exact ((SliceFrame.upd ..).trans (hd u.takeBit.2 p.1)).trans (setDie_frame _ _ _ rfl)
    · exact .upd ..
  | some b =>
    dsimp only
    split
    · exact (hd u p.1).trans (setDie_frame _ _ _ rfl)
    · exact .refl u

theorem gatherBy_frame (s : State) (line except scope : Nat) : SliceFrame s (s.gatherBy dr line except scope) :=
  SliceFrame.foldl (fun u d => drainSome_frame hd u d line _) _ s

theorem direct_frame (s : State) (d line : Nat) (write : Bool) : SliceFrame s (s.direct dr d line write) := by
  unfold State.direct
  dsimp only
  split
  · exact .upd ..
  · split
    · exact .upd ..
    · split
      · rename_i v _
        exact (SliceFrame.foldl (fun u e => drainSome_frame hd u e v.line fun _ => some true) (List.range 4) s).trans (.upd ..)
      · exact .refl s

theorem request_frame (s : State) (q line : Nat) (write : Bool) : SliceFrame s (s.request dr q line write) := by
  have h := direct_frame hd { s with hd := (s.hd.nextSeq q).2 } q line write
  exact ((SliceFrame.upd ..).trans h).trans (.upd ..)

theorem obtainBy_frame (s : State) (d line scope : Nat) (write : Bool) : SliceFrame s (s.obtainBy dr d line scope write) := by
  have h := (gatherBy_frame hd s line d scope).trans (request_frame hd _ d line write)
  unfold State.obtainBy
  dsimp only
  repeat' split
  all_goals first
    | exact .refl s
    | exact .upd ..
    | exact h

end Drains

theorem writeBackN_frame : ∀ (n : Nat) (s : State) (c : Nat) (f : Nat → Bool), SliceFrame s (State.writeBackN n s c f)
  | 0, s, _, _ => .refl s
  | n + 1, s, c, f => by
    have step : ∀ (t : State) (rs : List (Nat × List Byte)), SliceFrame t (rs.foldl (fun (u : State) r =>
        (u.obtainBy (fun s x => State.writeBackN n s x fun _ => true) (dieOf c) (lineOf r.1) 3 true).slicePut
          (s.corePart c) r.1 r.2) t) := fun t rs =>
      SliceFrame.foldl (fun u r =>
        (obtainBy_frame (fun s x => writeBackN_frame n s x _) u _ _ _ _).trans (slicePut_frame _ _ _ _)) rs t
    have ht := takeDirty_frame s c f
    simp only [State.writeBackN]
    generalize s.takeDirty c f = x at ht ⊢
    have hu : ∀ k, SliceFrame s (if x.1.isEmpty then x.2.2 else x.2.2.spend (dieOf c) (s.corePart c) k) := fun k => by
      split
      · exact ht
      · exact ht.trans (.upd ..)
    split
    · exact (hu _).trans (step _ _)
    · exact ((hu _).trans (step _ _)).trans (poisonAt_frame _ _)

theorem drain_frame (s : State) (c : Nat) : SliceFrame s (s.drain c) := writeBackN_frame _ s c _

theorem gather_frame (s : State) (line except : Nat) : SliceFrame s (s.gather line except) :=
  gatherBy_frame drain_frame s line except 3

theorem obtain_frame (s : State) (d line : Nat) (write : Bool) : SliceFrame s (s.obtain d line write) :=
  obtainBy_frame drain_frame s d line 3 write

theorem drainAll_frame (s : State) (line : Nat) : SliceFrame s (s.drainAll line) :=
  SliceFrame.foldl (fun u d => drainSome_frame drain_frame u d line _) _ s

theorem obtainHome_frame (s : State) (line : Nat) : SliceFrame s (s.obtainHome line) := by
  have h0 : SliceFrame s
      (if (s.hd.entry line).any fun e => e.beyond s.groupPos then { s with touched := addNew s.touched line } else s) := by
    split
    · exact .upd ..
    · exact .refl s
  unfold State.obtainHome
  revert h0
  dsimp only
  generalize (if ((s.hd.entry line).any fun e => e.beyond s.groupPos) = true then
    ({ s with touched := addNew s.touched line } : State) else s) = u
  intro hu
  split
  · exact hu.trans (gather_frame u _ _)
  · split
    · exact hu.trans (obtain_frame u _ _ _)
    · split
      · exact hu.trans (.upd ..)
      · exact (hu.trans (gather_frame u _ _)).trans (.upd ..)

/-- The lines that a walk touches are drained and obtained. -/
theorem walkReads_frame (s : State) (part : Nat) (host : Bool) (va : Nat) : SliceFrame s (s.walkReads part host va) := by
  unfold State.walkReads
  dsimp only
  generalize BitVec.toNat _ = base
  split
  · refine SliceFrame.foldl (fun u line => ?_) _ s
    split
    · exact (drainAll_frame u line).trans (obtain_frame _ _ _ _)
    · exact drainAll_frame u line
  · exact .refl s

end Sys2Proof.Machine
end

section
/-! ## The slices' work where no release is recorded

With no release recorded nothing drains: a request for a line changes the directory, and reading lines changes no byte. -/

namespace Sys2Proof.Machine

open Sys2Proof.Slice0

/-- t differs from s at most in the directory, the lines noted for watches and the note that the step waits. -/
def DirFrame (s t : State) : Prop := t = { s with hd := t.hd, touched := t.touched, short := t.short }

namespace DirFrame

variable {s t u : State}

theorem refl (s : State) : DirFrame s s := rfl

theorem upd (s : State) (hd : Heddle) (touched : List Nat) (short : Bool) :
    DirFrame s { s with hd := hd, touched := touched, short := short } := rfl

theorem trans (h : DirFrame s t) (k : DirFrame t u) : DirFrame s u := by
  unfold DirFrame at h k
  rw [h] at k
  exact k

theorem mem (h : DirFrame s t) : t.mem = s.mem := by rw [h]
theorem dies (h : DirFrame s t) : t.dies = s.dies := by rw [h]

theorem noReleases (h : DirFrame s t) (hn : NoReleases s) : NoReleases t := by
  intro d line
  rw [State.die, h.dies]
  exact hn d line

end DirFrame

section Quiet

variable {s : State} (hn : NoReleases s)
include hn

theorem drainSome_quiet (dr : State → Nat → State) (d line : Nat) (f : Nat × Nat → Option Bool) :
    s.drainSome dr d line f = s := by
  unfold State.drainSome
  rw [hn d line]
  rfl

/-- Drains of the dies in a list change nothing. -/
theorem foldl_drainSome_quiet (dr : State → Nat → State) (line : Nat) (f : Nat × Nat → Option Bool) (ds : List Nat) :
    ds.foldl (fun (u : State) d => u.drainSome dr d line f) s = s := by
  induction ds with
  | nil => rfl
  | cons d ds ih => rw [List.foldl_cons, drainSome_quiet hn, ih]

theorem gatherBy_quiet (dr : State → Nat → State) (line except scope : Nat) : s.gatherBy dr line except scope = s :=
  foldl_drainSome_quiet hn dr line _ _

theorem gather_quiet (line except : Nat) : s.gather line except = s := gatherBy_quiet hn _ line except 3

theorem drainAll_quiet (line : Nat) : s.drainAll line = s := foldl_drainSome_quiet hn _ line _ _

theorem direct_quiet (dr : State → Nat → State) (d line : Nat) (write : Bool) : DirFrame s (s.direct dr d line write) := by
  unfold State.direct
  dsimp only
  split
  · exact .upd ..
  · split
    · exact .upd ..
    · split
      · rename_i v _
        rw [foldl_drainSome_quiet hn dr v.line (fun _ => some true)]
        exact .upd ..
      · exact .refl s

theorem request_quiet (dr : State → Nat → State) (q line : Nat) (write : Bool) : DirFrame s (s.request dr q line write) := by
  have h0 : DirFrame s { s with hd := (s.hd.nextSeq q).2 } := .upd ..
  exact (h0.trans (direct_quiet (h0.noReleases hn) dr q line write)).trans (.upd ..)

/-- A slice that obtains a line changes the directory, the notes for watches and the note of a wait alone. -/
theorem obtain_quiet (d line : Nat) (write : Bool) : DirFrame s (s.obtain d line write) := by
  have h := request_quiet hn State.drain d line write
  unfold State.obtain State.obtainBy
  rw [gatherBy_quiet hn]
  dsimp only
  repeat' split
  all_goals first
    | exact .refl s
    | exact .upd ..
    | exact h

/-- A walk's reads change no byte. -/
theorem walkReads_quiet (part : Nat) (host : Bool) (va : Nat) : DirFrame s (s.walkReads part host va) := by
  unfold State.walkReads
  dsimp only
  generalize BitVec.toNat _ = base
  split
  · refine foldl_keeps (DirFrame s) _ (fun u line h => ?_) _ s (.refl s)
    have hu := h.noReleases hn
    rw [drainAll_quiet hu]
    split
    · exact h.trans (obtain_quiet hu _ _ _)
    · exact h
  · exact .refl s

end Quiet

end Sys2Proof.Machine
end

section
/-! ## TLB fills and the leaves that they hold (R2, R220, R406) -/

namespace Sys2Proof.Machine

/-! ### A TLB takes a leaf -/

/-- The pairs of a list but for the one at a place, as `State.tlbTake` leaves them. -/
theorem filterMap_zipIdx_length {α : Type} (t : List α) (i n : Nat) :
    ((t.zipIdx n).filterMap fun p => if p.2 = i then none else some p.1).length =
      if n ≤ i ∧ i < n + t.length then t.length - 1 else t.length := by
  induction t generalizing n with
  | nil => simp
  | cons x t ih =>
    rw [List.zipIdx_cons, List.filterMap_cons]
    by_cases h : n = i
    · subst h
      rw [if_pos rfl]
      simp only [ih, List.length_cons]
      rw [if_neg (by omega), if_pos (by omega)]
      rfl
    · simp only [h, if_false, List.length_cons, ih]
      split <;> split <;> omega

theorem length_ins_le {α : Type} (m : FMap α) (x : Nat) (v : α) : (FMap.ins m x v).length ≤ m.length + 1 := by
  induction m with
  | nil => simp [FMap.ins]
  | cons p m ih =>
    obtain ⟨k, w⟩ := p
    simp only [FMap.ins]
    split
    · simp
    · split
      · simp
      · simpa using ih

section Take

variable (s : State) (size : Nat) (t : FMap W64) (key : Nat) (e : W64)

/-- A full TLB's choice of what to give up uses a free value; nothing else changes. -/
theorem tlbTake_state : (s.tlbTake size t key e).2 = { s with freeIdx := (s.tlbTake size t key e).2.freeIdx } := by
  unfold State.tlbTake
  dsimp only
  split <;> rfl

theorem tlbTake_look : (s.tlbTake size t key e).1.look key = some e := FMap.look_ins_self ..

/-- A TLB holds no more than its entries. -/
theorem tlbTake_length (hk : t.has key = false) (hl : t.length ≤ size) (hs : 0 < size) :
    (s.tlbTake size t key e).1.length ≤ size := by
  unfold State.tlbTake
  refine Nat.le_trans (length_ins_le _ key e) ?_
  rw [filterMap_zipIdx_length]
  by_cases h : t.length < size
  · simp only [h, decide_true, Bool.true_or, if_true]
    split <;> omega
  · have hm : Config.freeNat s.freeIdx % t.length < t.length := Nat.mod_lt _ (by omega)
    simp only [h, hk, decide_false, Bool.or_false, Bool.false_eq_true, if_false, State.takeOne]
    rw [if_pos (by omega)]
    omega

end Take

/-- A fill of a core's L1 TLB changes that TLB and the count of free values alone. -/
theorem tlbFill1_eq (s : State) (c key : Nat) (e : W64) :
    s.tlbFill1 c key e = ({ s with freeIdx := (s.tlbFill1 c key e).freeIdx } : State).setCore c
      { s.core c with tlb := (s.tlbTake tlbEntries1 (s.core c).tlb key e).1 } := by
  unfold State.tlbFill1
  dsimp only
  rw [tlbTake_state]
  rfl

theorem tlbFill2_eq (s : State) (d key : Nat) (e : W64) :
    s.tlbFill2 d key e = ({ s with freeIdx := (s.tlbFill2 d key e).freeIdx } : State).setDie d
      { s.die d with tlb := (s.tlbTake tlbEntries2 (s.die d).tlb key e).1 } := by
  unfold State.tlbFill2
  dsimp only
  rw [tlbTake_state]
  rfl

section Fill

variable (s : State) (c d key : Nat) (e : W64)

theorem tlbFill1_tlb : ((s.tlbFill1 c key e).core c).tlb = (s.tlbTake tlbEntries1 (s.core c).tlb key e).1 := by
  rw [tlbFill1_eq, setCore_core, if_pos rfl]

@[simp] theorem tlbFill1_mem : (s.tlbFill1 c key e).mem = s.mem := by rw [tlbFill1_eq]; rfl
@[simp] theorem tlbFill1_dies : (s.tlbFill1 c key e).dies = s.dies := by rw [tlbFill1_eq]; rfl
@[simp] theorem tlbFill1_parts : (s.tlbFill1 c key e).parts = s.parts := by rw [tlbFill1_eq]; rfl

theorem tlbFill2_tlb : ((s.tlbFill2 d key e).die d).tlb = (s.tlbTake tlbEntries2 (s.die d).tlb key e).1 := by
  rw [tlbFill2_eq, setDie_die, if_pos rfl]

@[simp] theorem tlbFill2_mem : (s.tlbFill2 d key e).mem = s.mem := by rw [tlbFill2_eq]; rfl
@[simp] theorem tlbFill2_cores : (s.tlbFill2 d key e).cores = s.cores := by rw [tlbFill2_eq]; rfl
@[simp] theorem tlbFill2_parts : (s.tlbFill2 d key e).parts = s.parts := by rw [tlbFill2_eq]; rfl

end Fill

/-! ### Leaves -/

/-- The entry of a table that a walk reads at a level. -/
def walkEntry (rd : Nat → W64) (va n table : Nat) : W64 := rd (table + 8 * (va / 2 ^ (12 + 9 * n) % 512))

section Walk

variable {rd : Nat → W64} {p : Partition} {host : Bool} {va : Nat}

theorem walkFrom_zero (table : Nat) : let e := walkEntry rd va 0 table
    walkFrom rd p host va 0 table =
      if !pteV e then .notPresent else if !pteOk p host 0 e then .refused else if pteLeaf e then .leaf e 0 else .refused := rfl

theorem walkFrom_succ (n table : Nat) : let e := walkEntry rd va (n + 1) table
    walkFrom rd p host va (n + 1) table =
      if !pteV e then .notPresent else if !pteOk p host (n + 1) e then .refused
      else if pteLeaf e then .leaf e (n + 1) else walkFrom rd p host va n (ptePa e) := rfl

/-- A walk that reaches a leaf has found it well formed at its level. -/
theorem walkFrom_leaf {e : W64} {l : Nat} :
    ∀ {n table : Nat}, walkFrom rd p host va n table = .leaf e l → pteOk p host l e = true ∧ pteLeaf e = true := by
  intro n
  induction n with
  | zero =>
    intro table h
    rw [walkFrom_zero] at h
    split at h
    · cases h
    · split at h
      · cases h
      · split at h
        · cases h
          simp_all
        · cases h
  | succ n ih =>
    intro table h
    rw [walkFrom_succ] at h
    split at h
    · cases h
    · split at h
      · cases h
      · split at h
        · cases h
          simp_all
        · exact ih h

end Walk

theorem walk_leaf {s : State} {part : Nat} {host : Bool} {va : Nat} {e : W64} {n : Nat} (h : s.walk part host va = .leaf e n) :
    n < 3 ∧ ptePa e % 2 ^ (12 + 9 * n) = 0 := by
  unfold State.walk at h
  dsimp only at h
  generalize BitVec.toNat _ = base at h
  split at h
  · obtain ⟨hok, hleaf⟩ := walkFrom_leaf h
    simp only [pteOk, hleaf, Bool.and_eq_true, Bool.not_true, Bool.false_or, beq_iff_eq] at hok
    obtain ⟨⟨⟨⟨⟨⟨⟨⟨-, -⟩, hlevel⟩, -⟩, -⟩, -⟩, -⟩, halign⟩, -⟩ := hok
    refine ⟨Nat.lt_of_not_le fun hn => ?_, halign⟩
    rw [if_neg (by omega), if_pos hn] at hlevel
    exact absurd hlevel Bool.false_ne_true
  · cases h

theorem bits_lt (x : W64) (lo n : Nat) : bits x lo n < 2 ^ n := Nat.mod_lt _ (Nat.two_pow_pos n)

section Leaf

variable (e : W64) (n va : Nat)

/-- The low 12 bits of a leaf, its flags, are those that the TLB's copy has. -/
theorem tlbLeaf_getLsbD {i : Nat} (h : i < 12) : (tlbLeaf e n va).getLsbD i = e.getLsbD i := by
  have hb : bits e 0 12 < 2 ^ 12 := bits_lt e 0 12
  unfold tlbLeaf
  rw [BitVec.getLsbD_ofNat, show (4096 : Nat) = 2 ^ 12 from rfl, Nat.add_comm, Nat.testBit_two_pow_mul_add _ hb]
  rw [if_pos h, bits, Nat.testBit_mod_two_pow]
  simp [h, BitVec.getLsbD, show i < 64 by omega]

theorem tlbLeaf_ptePa : ptePa (tlbLeaf e n va) = (ptePa e + va % 2 ^ (12 + 9 * n)) / 4096 % 2 ^ 40 * 4096 := by
  have hb : bits e 0 12 < 2 ^ 12 := bits_lt e 0 12
  unfold tlbLeaf
  generalize (ptePa e + va % 2 ^ (12 + 9 * n)) / 4096 = pa
  simp only [ptePa, bits, BitVec.toNat_ofNat] at hb ⊢
  omega

@[simp] theorem tlbLeaf_permits (k : AccessKind) : permits (tlbLeaf e n va) k = permits e k := by
  have hr : pteR (tlbLeaf e n va) = pteR e := tlbLeaf_getLsbD e n va (by decide)
  have hw : pteW (tlbLeaf e n va) = pteW e := tlbLeaf_getLsbD e n va (by decide)
  have hx : pteX (tlbLeaf e n va) = pteX e := tlbLeaf_getLsbD e n va (by decide)
  cases k <;> simp only [permits, hr, hw, hx]

@[simp] theorem tlbLeaf_pteTag : pteTag (tlbLeaf e n va) = pteTag e := tlbLeaf_getLsbD e n va (by decide)
@[simp] theorem tlbLeaf_pteBank : pteBank (tlbLeaf e n va) = pteBank e := tlbLeaf_getLsbD e n va (by decide)
@[simp] theorem tlbLeaf_pteHost : pteHost (tlbLeaf e n va) = pteHost e := tlbLeaf_getLsbD e n va (by decide)

variable {e n}

/-- The TLB's copy of an aligned leaf leads where the leaf does. -/
theorem tlbLeaf_leafPlace (hn : n < 3) (ha : ptePa e % 2 ^ (12 + 9 * n) = 0) :
    leafPlace (tlbLeaf e n va) 0 va = leafPlace e n va := by
  have hb : bits e 12 40 < 2 ^ 40 := bits_lt e 12 40
  have key : (ptePa e + va % 2 ^ (12 + 9 * n)) / 4096 % 2 ^ 40 * 4096 + va % 2 ^ 12 = ptePa e + va % 2 ^ (12 + 9 * n) := by
    unfold ptePa at *
    obtain rfl | rfl | rfl : n = 0 ∨ n = 1 ∨ n = 2 := by omega
    all_goals
      simp only [Nat.reduceMul, Nat.reduceAdd, Nat.reducePow] at ha hb ⊢
      omega
  simp only [leafPlace, tlbLeaf_ptePa, tlbLeaf_pteHost, Nat.mul_zero, Nat.add_zero, key]

end Leaf

/-! ### Translation -/

/-- A tree that translates: a partition's own, or the host tree where it has one. -/
def translates (s : State) (part : Nat) (host : Bool) : Prop := host = false ∨ (s.part part).hptbase ≠ 0

/-- What a leaf at a level gives an access: its place, or a refused permission (R406). -/
def leafTrans (e : W64) (n va : Nat) (kind : AccessKind) : Trans :=
  if permits e kind then .ok (leafPlace e n va) (pteTag e) (pteBank e) else .fault true

section Translate

variable {s : State} {c part va n : Nat} {host : Bool} {e : W64} (ht : translates s part host) (kind : AccessKind)
include ht

theorem hostBypass_false : (host && (s.part part).hptbase == 0) = false := by
  rcases ht with h | h
  · simp [h]
  · rw [beq_eq_false_iff_ne.mpr h, Bool.and_false]

theorem translate_of_held (h : s.heldLeaf c (tlbKey part host va) = some e) :
    s.translate c part host kind va = leafTrans e 0 va kind := by
  unfold State.translate
  simp only [hostBypass_false ht, h]
  rfl

theorem translate_of_walk (h : s.heldLeaf c (tlbKey part host va) = none) (hw : s.walk part host va = .leaf e n) :
    s.translate c part host kind va = leafTrans e n va kind := by
  unfold State.translate
  simp only [hostBypass_false ht, h, hw]
  rfl

end Translate

theorem leafTrans_tlbLeaf {e : W64} {n : Nat} (va : Nat) (kind : AccessKind) (hn : n < 3)
    (ha : ptePa e % 2 ^ (12 + 9 * n) = 0) : leafTrans (tlbLeaf e n va) 0 va kind = leafTrans e n va kind := by
  simp [leafTrans, tlbLeaf_leafPlace va hn ha]

/-- What a core's own TLB or, after it, its die's holds. -/
theorem heldLeaf_core (s : State) (c : CoreId) (key : Nat) :
    s.heldLeaf c.val key = ((s.core c.val).tlb.look key <|> (s.die (dieOf c.val)).tlb.look key) := by
  unfold State.heldLeaf
  rw [if_neg (by have := c.isLt; simp only [frontEnd]; omega)]
  rfl

theorem look_of_has {α : Type} {m : FMap α} {x : Nat} (h : m.has x = false) : m.look x = none := by
  simpa [FMap.has] using h

theorem has_of_look {α : Type} {m : FMap α} {x : Nat} (h : m.look x = none) : m.has x = false := by
  simp [FMap.has, h]

end Sys2Proof.Machine
end

section
/-! ## O44: page walks keep translations (R2, R220, R406) -/

namespace Sys2Proof.Machine

open Sys2Proof.Slice0

section PageWalk

variable {s : State} {p : PartId} {host : Bool} {va : BitVec 64} {k : AccessKind} {c : CoreId}
  (hen : (s.part p.val).en = true) (hmiss : (s.core c.val).tlb.has (tlbKey p.val host va.toNat) = false)
  (ht : translates s p.val host)
include hen hmiss ht

theorem pageWalk_guard : (!(s.part p.val).en || (s.core c.val).tlb.has (tlbKey p.val host va.toNat) ||
    (host && (s.part p.val).hptbase == 0)) = false := by
  rw [hen, hmiss, hostBypass_false ht]
  rfl

theorem pageWalk_held {e : W64} (h : (s.die (dieOf c.val)).tlb.look (tlbKey p.val host va.toNat) = some e) :
    exec (.pageWalk p host va k c) s = .next (s.tlbFill1 c.val (tlbKey p.val host va.toNat) e) := by
  simp only [exec_pageWalk, execPageWalk, pageWalk_guard hen hmiss ht, h]
  rfl

variable (hl2 : (s.die (dieOf c.val)).tlb.look (tlbKey p.val host va.toNat) = none)
include hl2

theorem pageWalk_leaf {e : W64} {n : Nat} (h : s.walk p.val host va.toNat = .leaf e n) :
    exec (.pageWalk p host va k c) s =
      .next (((s.walkReads p.val host va.toNat).tlbFill2 (dieOf c.val) (tlbKey p.val host va.toNat)
        (tlbLeaf e n va.toNat)).tlbFill1 c.val (tlbKey p.val host va.toNat) (tlbLeaf e n va.toNat)) := by
  simp only [exec_pageWalk, execPageWalk, pageWalk_guard hen hmiss ht, hl2, h]
  rfl

theorem pageWalk_noLeaf (h : ∀ e n, s.walk p.val host va.toNat ≠ .leaf e n) :
    exec (.pageWalk p host va k c) s = .next (s.walkReads p.val host va.toNat) := by
  simp only [exec_pageWalk, execPageWalk, pageWalk_guard hen hmiss ht, hl2]
  cases hw : s.walk p.val host va.toNat with
  | leaf e n => exact absurd hw (h e n)
  | notPresent => rfl
  | refused => rfl

end PageWalk

/-- Both TLBs take a leaf that a walk gave: they hold it, no more than their entries, and the memory is as the walk left it. -/
theorem tlbFills_hold (w : State) (c : CoreId) (key : Nat) (e : W64) (h1 : (w.core c.val).tlb.has key = false)
    (h2 : (w.die (dieOf c.val)).tlb.has key = false) :
    let t := (w.tlbFill2 (dieOf c.val) key e).tlbFill1 c.val key e
    (t.core c.val).tlb.look key = some e ∧ (t.die (dieOf c.val)).tlb.look key = some e ∧
      ((w.core c.val).tlb.length ≤ 128 → (t.core c.val).tlb.length ≤ 128) ∧
      ((w.die (dieOf c.val)).tlb.length ≤ 16384 → (t.die (dieOf c.val)).tlb.length ≤ 16384) ∧
      t.mem = w.mem ∧ t.parts = w.parts := by
  have hcore : (w.tlbFill2 (dieOf c.val) key e).core c.val = w.core c.val := by rw [State.core, tlbFill2_cores]; rfl
  have hdie : ((w.tlbFill2 (dieOf c.val) key e).tlbFill1 c.val key e).die (dieOf c.val) =
      (w.tlbFill2 (dieOf c.val) key e).die (dieOf c.val) := by rw [State.die, tlbFill1_dies]; rfl
  dsimp only
  rw [tlbFill1_tlb, hdie, tlbFill2_tlb, hcore]
  exact ⟨tlbTake_look .., tlbTake_look .., fun h => tlbTake_length _ _ _ _ _ h1 h (by decide),
    fun h => tlbTake_length _ _ _ _ _ h2 h (by decide), by simp, by simp⟩

/-- Settles O44: the walk's reads leave the TLBs and the registers alone, each TLB then takes the leaf, and the 4 KiB copy of an
aligned leaf permits and leads where the leaf does. -/
theorem pageWalksKeepTranslations : Obligations.PageWalksKeepTranslations := by
  unfold Obligations.PageWalksKeepTranslations
  intro s p host va k c x key L2 hen hmiss ht
  refine ⟨fun e he => ⟨_, pageWalk_held hen hmiss ht he, ?_⟩,
    fun hl2 => ⟨fun e n hw => ⟨_, pageWalk_leaf hen hmiss ht hl2 hw, ?_⟩, pageWalk_noLeaf hen hmiss ht hl2⟩⟩
  · dsimp only
    rw [tlbFill1_tlb]
    exact ⟨tlbTake_look .., by simp, by simp, fun h => tlbTake_length _ _ _ _ _ hmiss h (by decide)⟩
  · have hf := walkReads_frame s p.val host va.toNat
    have h1 : ((s.walkReads p.val host va.toNat).core c.val).tlb = (s.core c.val).tlb := hf.coreTlb c.val
    have h2 : ((s.walkReads p.val host va.toNat).die (dieOf c.val)).tlb = (L2 s) := hf.die (dieOf c.val)
    obtain ⟨hlook1, hlook2, hlen1, hlen2, hmem, hparts⟩ := tlbFills_hold (s.walkReads p.val host va.toNat) c key
      (tlbLeaf e n va.toNat) (by rw [h1]; exact hmiss) (by rw [h2]; exact has_of_look hl2)
    rw [h1] at hlen1
    rw [h2] at hlen2
    refine ⟨hlook1, hlook2, hlen1, hlen2, fun hn => hmem.trans (walkReads_quiet hn ..).mem, fun kind => ?_⟩
    obtain ⟨hlevel, halign⟩ := walk_leaf hw
    have hs : s.heldLeaf c.val key = none := by
      rw [heldLeaf_core, look_of_has hmiss]
      exact hl2
    have hpart := (congrArg (fun m => FMap.getD m p.val {}) (hparts.trans hf.parts))
    rw [translate_of_walk ht kind hs hw, translate_of_held (e := tlbLeaf e n va.toNat) ?_ kind ?_,
      leafTrans_tlbLeaf va.toNat kind hlevel halign]
    · unfold translates State.part
      rw [hpart]
      exact ht
    · rw [heldLeaf_core, hlook1]
      rfl

end Sys2Proof.Machine
end

section
/-! ## O55: sample words decode (R8, R231, R245) -/

namespace Sys2Proof.Machine

open Sys2Proof.Slice0

/-- Settles O55: the 25 words are fixed, and the decode table gives each its instruction. -/
theorem sampleWordsDecode : Obligations.SampleWordsDecode := by
  unfold Obligations.SampleWordsDecode
  decide +kernel

end Sys2Proof.Machine
end

section
/-! ## O18: control registers are read and written (R10, R190, R194, R197, R249, R266, R284) -/

namespace Sys2Proof.Machine

open Sys2Proof.Slice0

@[simp] theorem need_true (cause sub : Nat) : need true cause sub = .ok () := rfl
@[simp] theorem need_false (cause sub : Nat) : need false cause sub = .error (.trap { cause := cause, sub := sub }) := rfl

/-- An allotment is a whole number of pairs, so the second register of an even pair lies in it with the first. -/
theorem has_pair {w : Warp} {d : Nat} (he : d % 2 = 0) (hd : d < w.vregs) : w.has [d, d + 1] = .ok () := by
  have hv : w.vregs % 2 = 0 := by
    unfold Warp.vregs
    split <;> omega
  have : d + 1 < w.vregs := by omega
  simp [Warp.has, hd, this]

theorem aligned_pair {d : Nat} (he : d % 2 = 0) : aligned 2 [d] = .ok () := by simp [aligned, he]

theorem aligned_odd {d : Nat} (ho : d % 2 = 1) : aligned 2 [d] = .error (.trap { cause := ILLEGAL, sub := 4 }) := by
  simp [aligned, ho]

section Read

variable (s : State) {d : Fin 128} {n : BitVec 11}

theorem crd_scalar (hr : crReadable n = true) (hw : s.crWaits n.toNat = false) (hl : perLane s.cw n.toNat = false) (hd : d.val < 64) :
    Becomes s (.crd d n) (s.cw.wrS d.val (s.crValue s.cw s.cur.1 s.cur.2 n.toNat)).advance := by
  simp only [Becomes, exec_crd, execCrd, hr, hw, hl, hd, decide_true, need_true]
  rfl

/-- A per-lane register does not depend on the elements that a CRD has written in other lanes. -/
theorem foldl_set_crLane (w : Warp) (v c r : Nat) (ls : List Nat) :
    ∀ z : Warp, (∀ l, s.crLane z c r l = s.crLane w c r l) →
      ls.foldl (fun z l => z.set v l 3 (s.crLane z c r l).toNat) z = ls.foldl (fun z l => z.set v l 3 (s.crLane w c r l).toNat) z := by
  induction ls with
  | nil => exact fun _ _ => rfl
  | cons l ls ih =>
    intro z hz
    rw [List.foldl_cons, List.foldl_cons, hz l]
    exact ih _ hz

theorem crd_lanes (hr : crReadable n = true) (hw : s.crWaits n.toNat = false) (hl : perLane s.cw n.toNat = true)
    (he : d.val % 2 = 0) (hd : d.val < s.cw.vregs) :
    Becomes s (.crd d n) (s.cw.lanes.foldl (fun z l => z.set d.val l 3 (s.crLane s.cw s.cur.1 n.toNat l).toNat) s.cw).advance := by
  rw [← foldl_set_crLane s s.cw d.val s.cur.1 n.toNat s.cw.lanes s.cw fun _ => rfl]
  simp only [Becomes, exec_crd, execCrd, hr, hw, hl, has_pair he hd, aligned_pair he]
  rfl

theorem crd_waits (hr : crReadable n = true) (hw : s.crWaits n.toNat = true) : exec (.crd d n) s = .next s := by
  simp only [exec_crd, execCrd, hr, hw]
  rfl

theorem crd_unassigned (hr : crReadable n = false) : Raises s (.crd d n) true ILLEGAL 6 := by
  simp only [Raises, exec_crd, execCrd, hr]
  rfl

theorem crValue_plainControl : ∀ p ∈ plainControl s,
    s.crValue s.cw s.cur.1 s.cur.2 p.1.toNat = p.2 ∧ crReadable p.1 = true := by
  simp only [plainControl, List.forall_mem_cons]
  repeat' apply And.intro
  all_goals first
    | rfl
    | exact List.forall_mem_nil _

theorem tai_pair {x : SReg} (he : x.val % 2 = 0) :
    Becomes s (.tai x) ((s.cw.wrS x.val (BitVec.ofNat 64 (s.tai / 2 ^ 16))).wrS (x.val + 1) (taiHigh s)).advance := by
  simp only [Becomes, exec_tai, execTai, aligned_pair he]
  rfl

theorem tai_odd {x : SReg} (ho : x.val % 2 = 1) : Raises s (.tai x) true ILLEGAL 4 := by
  simp only [Raises, exec_tai, execTai, aligned_odd ho]
  rfl

end Read

theorem controlRegistersRead : ControlRegistersRead := by
  intro s d x n w
  exact ⟨fun hr hw hl hd => crd_scalar s hr hw hl hd, crValue_plainControl s, fun hr hw hl he hd => crd_lanes s hr hw hl he hd,
    fun _ => rfl, fun hr hw => crd_waits s hr hw, fun hr => crd_unassigned s hr, by simp only [Becomes, exec_tick]; rfl,
    fun he => tai_pair s he, fun ho => tai_odd s ho⟩

section Write

variable (s : State) (a : SReg) {n : BitVec 11}

/-- A write that the register takes. -/
theorem cwr_ok {w' : Warp} (hw : s.crWaits n.toNat = false) (h : s.cw.crWrite n.toNat (s.cw.rdS a.val) = .ok w') :
    Becomes s (.cwr a n) w'.advance := by
  simp only [Becomes, exec_cwr, execCwr, hw, h]
  rfl

/-- A write that the register refuses. -/
theorem cwr_error {cause sub : Nat} (hw : s.crWaits n.toNat = false)
    (h : s.cw.crWrite n.toNat (s.cw.rdS a.val) = .error (.trap { cause := cause, sub := sub })) :
    Raises s (.cwr a n) true cause sub := by
  simp only [Raises, exec_cwr, execCwr, hw, h]
  rfl

end Write

section Registers

variable (w : Warp) (x : W64)

theorem crWrite_wmode (h : wmodeOk x = true) : w.crWrite 0x001 x = .ok (w.setMode x) := by
  simp only [Warp.crWrite, h]
  rfl

theorem crWrite_wmode_refused (h : wmodeOk x = false) :
    w.crWrite 0x001 x = .error (.trap { cause := ILLEGAL, sub := 2 }) := by
  simp only [Warp.crWrite, h]
  rfl

theorem crWrite_other {n : Nat} (h : n ∉ [0x000, 0x001, 0x012, 0x020, 0x021, 0x022]) :
    w.crWrite n x = .error (.trap { cause := ILLEGAL, sub := 6 }) := by
  unfold Warp.crWrite
  split
  all_goals first
    | rfl
    | simp at h

/-- cr.mstat after a write: its flags that the source has clear, and the source's count (R126, R266). -/
def mstatWritten (m x : W64) : W64 := BitVec.ofNat 64 (bits (m &&& ~~~x) 0 4 + 256 * bits x 8 8)

theorem crWrite_mstat : w.crWrite 0x021 x = .ok { w with stat := { w.stat with mstat := mstatWritten w.stat.mstat x } } := rfl

theorem mstatWritten_count (m : W64) : bits (mstatWritten m x) 8 8 = bits x 8 8 := by
  have hf : bits (m &&& ~~~x) 0 4 < 2 ^ 4 := bits_lt ..
  have hc : bits x 8 8 < 2 ^ 8 := bits_lt ..
  unfold mstatWritten
  generalize bits (m &&& ~~~x) 0 4 = f at hf ⊢
  generalize bits x 8 8 = c at hc ⊢
  simp only [bits, BitVec.toNat_ofNat]
  omega

theorem mstatWritten_flag (m : W64) {i : Nat} (hi : i < 4) :
    (mstatWritten m x).getLsbD i = (m.getLsbD i && !x.getLsbD i) := by
  have hf : bits (m &&& ~~~x) 0 4 < 2 ^ 8 := Nat.lt_trans (bits_lt ..) (by decide)
  unfold mstatWritten
  rw [BitVec.getLsbD_ofNat, show (256 : Nat) = 2 ^ 8 from rfl, Nat.add_comm, Nat.testBit_two_pow_mul_add _ hf,
    if_pos (by omega), bits, Nat.testBit_mod_two_pow, Nat.pow_zero, Nat.div_one, BitVec.testBit_toNat, BitVec.getLsbD_and,
    BitVec.getLsbD_not]
  simp [hi, show i < 64 by omega]

end Registers

theorem controlRegistersWrite : ControlRegistersWrite := by
  intro s a w x
  refine ⟨cwr_ok s a (n := 0x000) (w' := { w with ctl := { w.ctl with exec := x &&& w.ctl.path } }) rfl rfl, fun h => cwr_ok s a (n := 0x001) rfl (crWrite_wmode w x h),
    fun h => cwr_error s a (n := 0x001) rfl (crWrite_wmode_refused w x h), cwr_ok s a rfl rfl, fun h => cwr_ok s a h rfl,
    fun h => ⟨mstatWritten w.stat.mstat x, cwr_ok s a (n := 0x021) h (crWrite_mstat w x), mstatWritten_count x _,
      fun i hi => mstatWritten_flag x _ hi⟩,
    fun h => cwr_ok s a h rfl, fun n hn h => cwr_error s a h (crWrite_other w x hn)⟩

/-- Settles O18: CRD and CWR are commits of one warp, whose checks and registers the lemmas above go through one by one. -/
theorem controlRegistersAreReadAndWritten : Obligations.ControlRegistersAreReadAndWritten :=
  ⟨controlRegistersRead, controlRegistersWrite⟩

end Sys2Proof.Machine
end

section
/-! ## What leaves programs alone (R7, R46, R79, R82, R220, R385, R400, R413, R418, R427, R434, R437) -/

namespace Sys2Proof.Machine

open Sys2Proof.Slice0

/-- t has the warps of s, its bytes, tags and line bits, and its poison. -/
structure ProgramsAlone (s t : State) : Prop where
  slots : t.slots = s.slots
  mem : t.mem = s.mem
  tags : t.tags = s.tags
  lineFull : t.lineFull = s.lineFull
  poison : t.poison = s.poison

namespace ProgramsAlone

variable {s t u : State}

/-- An update of other fields. -/
theorem untouched (h : (t.slots, t.mem, t.tags, t.lineFull, t.poison) = (s.slots, s.mem, s.tags, s.lineFull, s.poison)) :
    ProgramsAlone s t := by
  obtain ⟨slots, mem, tags, lineFull, poison⟩ := by simpa only [Prod.mk.injEq] using h
  exact ⟨slots, mem, tags, lineFull, poison⟩

theorem refl (s : State) : ProgramsAlone s s := .untouched rfl

theorem trans (h : ProgramsAlone s t) (k : ProgramsAlone t u) : ProgramsAlone s u :=
  ⟨k.slots.trans h.slots, k.mem.trans h.mem, k.tags.trans h.tags, k.lineFull.trans h.lineFull, k.poison.trans h.poison⟩

theorem foldl {β : Type} {f : State → β → State} (hf : ∀ u x, ProgramsAlone u (f u x)) (xs : List β) (s : State) :
    ProgramsAlone s (xs.foldl f s) :=
  foldl_keeps (ProgramsAlone s) f (fun u x h => h.trans (hf u x)) xs s (refl s)

theorem of_dirFrame (h : DirFrame s t) : ProgramsAlone s t := by
  rw [h]
  exact .untouched rfl

end ProgramsAlone

/-! ### The forms of events -/

section Forms

variable {s t u : State}

theorem eventIf_alone {c : Bool} {name : String} (hu : ProgramsAlone s u) (h : eventIf c name u = .next t) : ProgramsAlone s t := by
  obtain ⟨-, rfl⟩ := eventIf_next.mp h
  exact hu

theorem next_alone (hu : ProgramsAlone s u) (h : (.next u : Host.Outcome State Fault Refusal) = .next t) : ProgramsAlone s t := by
  cases h
  exact hu

theorem hostWrites_alone {f : State → State} (hf : ProgramsAlone s (f s)) (h : s.hostWrites f = .next t) : ProgramsAlone s t := by
  refine next_alone ?_ h
  split
  · exact hf
  · exact .refl s

theorem queueWrite_alone {f : State → State} (hf : ProgramsAlone s (f s)) (h : s.queueWrite f = .next t) : ProgramsAlone s t := by
  refine next_alone ?_ h
  split
  · exact hf
  · exact .refl s

theorem btCommand_alone {op : Nat} {key : BitVec 16} {run : State → State} (hr : ∀ u, ProgramsAlone u (run u))
    (h : s.btCommand op key run = .next t) : ProgramsAlone s t := by
  refine next_alone ?_ h
  split
  · exact .refl s
  · split
    · exact .trans (.untouched (by rfl)) (hr _)
    · exact .refl s

theorem i3c_alone {run : State → List Byte × State} (hr : ProgramsAlone s (run s).2) (h : s.i3c run = .next t) :
    ProgramsAlone s t := by
  unfold State.i3c at h
  split at h
  · exact next_alone (hr.trans (.untouched (by rfl))) h
  · exact next_alone (.untouched (by rfl)) h

end Forms

/-! ### Operations -/

section Operations

variable (s : State)

theorem setCore_alone (c : Nat) (x : Core) : ProgramsAlone s (s.setCore c x) := .untouched rfl
theorem setDie_alone (d : Nat) (x : Die) : ProgramsAlone s (s.setDie d x) := .untouched rfl
theorem setPart_alone (p : Nat) (x : Partition) : ProgramsAlone s (s.setPart p x) := .untouched rfl
theorem setQueue_alone (p q : Nat) (x : Queue) : ProgramsAlone s (s.setQueue p q x) := .untouched rfl
theorem askClock_alone (k step : Nat) : ProgramsAlone s (s.askClock k step) := .untouched rfl
theorem countCut_alone : ProgramsAlone s s.countCut := .untouched rfl
theorem setPorts_alone (ports : BitVec 16) : ProgramsAlone s (s.setPorts ports) := .untouched rfl
theorem btRes_alone (r : Nat) : ProgramsAlone s (s.btRes r) := .untouched rfl
theorem own_alone (me : Nat) (lines : List Nat) : ProgramsAlone s (s.own me lines) := .untouched rfl
theorem commandRes_alone (p res : Nat) : ProgramsAlone s (s.commandRes p res) := .untouched rfl
theorem commandWaits_alone (p j : Nat) : ProgramsAlone s (s.commandWaits p j) := .untouched rfl

theorem stopJob_alone (j : Nat) (x : CtxStop) : ProgramsAlone s (s.stopJob j x) := by
  rw [stopJob_eq]
  exact .untouched rfl

theorem updJob_alone (j : Nat) (f : Job → Job) : ProgramsAlone s (s.updJob j f) := by
  unfold State.updJob
  split <;> exact .untouched rfl

theorem setTeams_alone (j d : Nat) (x : DieTeams) : ProgramsAlone s (s.setTeams j d x) := updJob_alone s j _

/-- An interrupt of the host reaches no program. -/
theorem sendVector_alone (fn vec : Nat) : ProgramsAlone s (s.sendVector fn vec) := by
  unfold State.sendVector
  split
  · exact .untouched rfl
  · split <;> exact .untouched rfl

theorem healthEvent_alone : ProgramsAlone s s.healthEvent := sendVector_alone s 0 _

theorem recover_alone (err : Nat) : ProgramsAlone s (s.recover err) :=
  .trans (.untouched (by rfl)) (sendVector_alone _ 0 0)

theorem stopQueue_alone (p q err idx : Nat) : ProgramsAlone s (s.stopQueue p q err idx) := by
  unfold State.stopQueue
  dsimp only
  split
  · exact .refl s
  · exact setQueue_alone s p q _

theorem failWait_alone (p q err idx : Nat) : ProgramsAlone s (s.failWait p q err idx) :=
  (stopQueue_alone s p q err idx).trans (setQueue_alone _ p q _)

/-! #### Clocks and power -/

theorem raiseClocks_alone (share : Nat) : ∀ (xs : List (Nat × Int)) (est : Nat) (s : State),
    ProgramsAlone s (State.raiseClocks share xs est s)
  | [], _, s => .refl s
  | x :: xs, est, s => by
    unfold State.raiseClocks
    split
    · exact (askClock_alone s _ _).trans (raiseClocks_alone share xs _ _)
    · exact .refl s

theorem askBase_alone (p : Nat) : ProgramsAlone s (s.askBase p) := ProgramsAlone.foldl (fun u k => askClock_alone u k _) _ s

theorem enable_alone (p : Nat) : ProgramsAlone s (s.enable p) := by
  unfold State.enable
  dsimp only
  split
  · exact .refl s
  · split
    · exact (setPart_alone s p _).trans (askBase_alone _ p)
    · exact setPart_alone s p _

theorem disable_alone (p : Nat) : ProgramsAlone s (s.disable p) := by
  unfold State.disable
  split
  · exact .refl s
  · exact setPart_alone s p _

theorem lowerOne_alone {s t : State} {f : Nat → Bool} (h : s.lowerOne f = some t) : ProgramsAlone s t := by
  unfold State.lowerOne at h
  dsimp only at h
  split at h
  · cases h
    exact .untouched rfl
  · cases h
    exact .untouched rfl
  · cases h

theorem raiseOne_alone {s t : State} (h : s.raiseOne = some t) : ProgramsAlone s t := by
  unfold State.raiseOne at h
  dsimp only at h
  split at h
  · cases h
  · cases h
    exact .untouched rfl

/-! #### Time and trends -/

theorem taiSample_alone (off : Int) : ProgramsAlone s (s.taiSample off) := by
  unfold State.taiSample
  dsimp only
  split <;> exact .untouched rfl

theorem setTai_alone (ns : W64) : ProgramsAlone s (s.setTai ns) := by
  unfold State.setTai
  dsimp only
  split <;> exact .untouched rfl

theorem hoursLeft_alone (t : Trend) : ProgramsAlone s (s.hoursLeft t).2 := by
  unfold State.hoursLeft
  split
  · exact .refl s
  · exact .untouched rfl

theorem hoursOf_alone : ∀ (ts : List Trend) (s : State), ProgramsAlone s (State.hoursOf ts s).2
  | [], s => .refl s
  | t :: ts, s => (hoursLeft_alone s t).trans (hoursOf_alone ts _)

theorem trended_alone (ts : List Trend) : ProgramsAlone s (s.trended ts) := by
  have h := hoursOf_alone ts s
  unfold State.trended
  dsimp only
  split
  · exact h.trans (.untouched (by rfl))
  · exact h.trans (.untouched (by rfl))

/-! #### The heddle, the front end and the host -/

theorem loseFront_alone : ProgramsAlone s s.loseFront :=
  (ProgramsAlone.foldl (fun u x => own_alone u (copyOwner x) []) s.copies s).trans (.untouched (by rfl))

theorem writeWidx_alone (p q : Nat) (n : BitVec 32) : ProgramsAlone s (s.writeWidx p q n) := by
  unfold State.writeWidx
  dsimp only
  split
  · exact setQueue_alone s p q _
  · split
    · exact setQueue_alone s p q _
    · exact .refl s

theorem writeRidx_alone (p q : Nat) (n : BitVec 32) : ProgramsAlone s (s.writeRidx p q n) := by
  unfold State.writeRidx
  dsimp only
  split
  · exact .refl s
  · exact setQueue_alone s p q _

theorem writeInval_alone (p : Nat) (v : W64) : ProgramsAlone s (s.writeInval p v) := by
  unfold State.writeInval
  dsimp only
  split
  · exact .refl s
  · exact setPart_alone s p _

theorem writePginit_alone (p : Nat) (v : W64) : ProgramsAlone s (s.writePginit p v) := by
  unfold State.writePginit
  dsimp only
  split
  · exact .refl s
  · exact setPart_alone s p _

/-- A write of the group's table moves no byte where the package's position and the members stay. -/
theorem writeGroup_alone (reg : Nat) (v : W64)
    (h : (s.writeGroup reg v).groupPos = s.groupPos ∧ (s.writeGroup reg v).hd.gmem = s.hd.gmem) :
    ProgramsAlone s (s.writeGroup reg v) := by
  have hcut : ∀ u : State, u.countCut.groupPos = u.groupPos ∧ u.countCut.hd.gmem = u.hd.gmem := fun _ => ⟨rfl, rfl⟩
  have hreg : ∀ u : State, (s.regroup u).groupPos = u.groupPos ∧ (s.regroup u).hd.gmem = u.hd.gmem := by
    intro u
    unfold State.regroup
    dsimp only
    split <;> exact ⟨rfl, rfl⟩
  have hsame : ∀ u : State, ProgramsAlone s u → u.groupPos = s.groupPos ∧ u.hd.gmem = s.hd.gmem → ProgramsAlone s (s.regroup u) := by
    intro u hu he
    unfold State.regroup
    dsimp only
    rw [if_pos ⟨he.1.symm, he.2.symm⟩]
    exact hu
  revert h
  unfold State.writeGroup
  split
  · exact fun _ => .refl s
  · dsimp only
    rw [(hcut _).1, (hcut _).2, (hreg _).1, (hreg _).2]
    intro h
    refine (hsame _ ?_ h).trans (countCut_alone _)
    split <;> exact .untouched rfl

/-! #### Job commands -/

theorem jobCommand_alone (p op num die : Nat) (run : State → State) (hr : ∀ u, ProgramsAlone u (run u)) :
    ProgramsAlone s (s.jobCommand p op num die run) := by
  unfold State.jobCommand
  dsimp only
  split
  · exact .refl s
  · exact (setPart_alone s p _).trans (hr _)

theorem cmdPreempt_alone (p job die : Nat) : ProgramsAlone s (s.cmdPreempt p job die) := by
  refine jobCommand_alone s p 1 job die _ fun u => ?_
  split
  · exact commandRes_alone u p 1
  · exact (stopJob_alone u _ _).trans (commandWaits_alone _ p _)

theorem cmdPreemptDie_alone (p job die : Nat) : ProgramsAlone s (s.cmdPreemptDie p job die) := by
  refine jobCommand_alone s p 2 job die _ fun u => ?_
  split
  · exact commandRes_alone u p 1
  · dsimp only
    split
    · exact commandRes_alone u p 2
    · split
      · exact commandWaits_alone u p _
      · exact (updJob_alone u _ _).trans (commandWaits_alone _ p _)

end Operations

end Sys2Proof.Machine
end

section
/-! ### Events that read lines where nothing drains -/

namespace Sys2Proof.Machine

open Sys2Proof.Slice0

/-- No release is recorded, and no L2 holds dirty bytes of the host: reading a line writes nothing. -/
def NothingHeld (s : State) : Prop := NoReleases s ∧ ∀ d, (s.die d).hdirty = []

/-- t leaves the programs of s alone, and holds back no more than s. -/
structure ReadFrame (s t : State) : Prop where
  alone : ProgramsAlone s t
  recs : ∀ d, (t.die d).recs = (s.die d).recs
  hdirty : ∀ d, (t.die d).hdirty = (s.die d).hdirty

namespace ReadFrame

variable {s t u : State}

theorem of_dies (ha : ProgramsAlone s t) (hd : t.dies = s.dies) : ReadFrame s t :=
  ⟨ha, fun d => by rw [State.die, hd]; rfl, fun d => by rw [State.die, hd]; rfl⟩

theorem refl (s : State) : ReadFrame s s := of_dies (.refl s) rfl

theorem trans (h : ReadFrame s t) (k : ReadFrame t u) : ReadFrame s u :=
  ⟨h.alone.trans k.alone, fun d => (k.recs d).trans (h.recs d), fun d => (k.hdirty d).trans (h.hdirty d)⟩

theorem nothingHeld (h : ReadFrame s t) (hs : NothingHeld s) : NothingHeld t :=
  ⟨fun d line => by rw [h.recs d]; exact hs.1 d line, fun d => (h.hdirty d).trans (hs.2 d)⟩

/-- A fold of steps each of which reads where nothing is held back. -/
theorem foldl {β : Type} {f : State → β → State} (hf : ∀ u x, NothingHeld u → ReadFrame u (f u x)) (xs : List β) {s : State}
    (hs : NothingHeld s) : ReadFrame s (xs.foldl f s) :=
  foldl_keeps (ReadFrame s) f (fun u x h => h.trans (hf u x (h.nothingHeld hs))) xs s (refl s)

end ReadFrame

theorem setCore_read (s : State) (c : Nat) (x : Core) : ReadFrame s (s.setCore c x) := .of_dies (setCore_alone s c x) rfl

/-- A die that keeps its release records and its dirty host bytes is replaced. -/
theorem setDie_read (s : State) (d : Nat) (x : Die) (hr : x.recs = (s.die d).recs)
    (hh : x.hdirty = (s.die d).hdirty) : ReadFrame s (s.setDie d x) := by
  refine ⟨setDie_alone s d x, fun e => ?_, fun e => ?_⟩
  all_goals
    rw [setDie_die]
    split
    · rw [‹e = d›]
      assumption
    · rfl

theorem takeOne_read (s : State) (n : Nat) : ReadFrame s (s.takeOne n).2 := .of_dies (.untouched rfl) rfl

theorem takeTokens_read (s : State) (d p n : Nat) : ReadFrame s (s.takeTokens d p n) := by
  obtain ⟨b, x, h⟩ := takeTokens_frame s d p n
  rw [h]
  exact .of_dies (.untouched rfl) rfl

theorem charge_read (s : State) (c n : Nat) : ReadFrame s (s.charge c n) := by
  unfold State.charge
  split
  · exact .refl s
  · exact takeTokens_read s _ _ n

theorem chargeFe_read (s : State) (p : Nat) (segs : Segs) : ReadFrame s (s.chargeFe p segs) := by
  obtain ⟨b, x, h⟩ := chargeFe_frame s p segs
  rw [h]
  exact .of_dies (.untouched rfl) rfl

section Held

variable {s : State} (hs : NothingHeld s)
include hs

theorem obtain_read (d line : Nat) (write : Bool) : ReadFrame s (s.obtain d line write) :=
  have h := obtain_quiet hs.1 d line write
  .of_dies (.of_dirFrame h) h.dies

/-- A line without dirty bytes leaves its L2 unwritten. -/
theorem hostFlush_read (line : Nat) : ReadFrame s (s.hostFlush line) := by
  have he : (s.die (homeDie line)).hdirty = [] := hs.2 _
  unfold State.hostFlush
  simp only [he, FMap.keep, List.filter_nil, runsOf, List.foldl_nil]
  exact setDie_read s _ _ rfl he.symm

theorem l2Room_read (p line : Nat) : ReadFrame s (s.l2Room p line) := by
  unfold State.l2Room
  dsimp only
  split
  · exact .refl s
  · split
    · exact setDie_read s _ _ rfl rfl
    · split
      · exact setDie_read s _ _ rfl rfl
      · have h0 := takeOne_read s (FMap.keys (FMap.keep (s.die (homeDie line)).hpart fun _ q =>
          s.l2Ways q (homeDie line) == s.l2Ways p (homeDie line))).length
        exact (h0.trans (hostFlush_read (h0.nothingHeld hs) _)).trans (setDie_read _ _ _ rfl rfl)

theorem l2Keep_read (p line : Nat) : ReadFrame s (s.l2Keep p line) := by
  unfold State.l2Keep
  split
  · dsimp only
    split
    · exact l2Room_read hs p line
    · exact (l2Room_read hs p line).trans (setDie_read _ _ _ rfl rfl)
  · exact .refl s

/-- A code line that a core fetches. -/
theorem fillCode_read (c line : Nat) : ReadFrame s (s.fillCode c line) := by
  have h0 := charge_read s c 128
  have h1 := h0.trans (obtain_read (h0.nothingHeld hs) (dieOf c) line false)
  have h2 := h1.trans (l2Keep_read (h1.nothingHeld hs) (s.corePart c) line)
  unfold State.fillCode
  dsimp only
  split
  · exact h2.trans (setCore_read _ c _)
  · exact (h2.trans (takeOne_read _ _)).trans (setCore_read _ c _)

theorem prefetch_read (part : Nat) (jr : JobRec) (args : Segs) (c : Nat) : ReadFrame s (s.prefetch part jr args c) := by
  have h : ReadFrame s ((s.entryLines part c jr).foldl (fun (u : State) p =>
      if (u.core c).l1.icache.has p.1 then u else u.fillCode c p.1) s) := by
    refine ReadFrame.foldl (fun u p hu => ?_) _ hs
    split
    · exact .refl u
    · exact fillCode_read hu c p.1
  unfold State.prefetch
  dsimp only
  split
  · exact h
  · exact h.trans (setCore_read _ c _)

theorem lookLaunch_read (part q : Nat) (p : List Byte) : ReadFrame s (s.lookLaunch part q p) := by
  unfold State.lookLaunch
  split
  · exact .refl s
  · dsimp only
    generalize (_ ++ _ : Segs) = segs
    have h := chargeFe_read s part segs
    split
    · exact h
    · exact h.trans (ReadFrame.foldl (fun u c hu => prefetch_read hu part _ _ c) _ (h.nothingHeld hs))

/-- An entry that is allocated again changes the directory alone. -/
theorem rebuilt_read (e : DirEntry) : ReadFrame s (s.rebuilt e) := by
  unfold State.rebuilt
  dsimp only
  split
  · exact .of_dies (.untouched rfl) rfl
  · split
    · rw [gather_quiet hs.1]
      exact .of_dies (.untouched rfl) rfl
    · exact .refl s

end Held

end Sys2Proof.Machine
end

section
/-! ## O60: quiet events leave programs alone -/

namespace Sys2Proof.Machine

open Sys2Proof.Slice0

section Events

variable {s t : State}

theorem clockBalance_alone {p : PartId} (h : execClockBalance p s = .next t) : ProgramsAlone s t := by
  refine eventIf_alone ?_ h
  have up := fun est xs => raiseClocks_alone (s.powerShare p.val) xs est s.takeNat.2
  have down := fun xs (u : State) => ProgramsAlone.foldl (fun (s : State) (x : Nat × Int) => askClock_alone s x.1 (s.clockGoal x.1 - 1)) xs u
  exact ((ProgramsAlone.trans (.untouched (by rfl)) (up _ _)).trans (down _ _)).trans (.untouched (by rfl))

theorem clusterClockChange_alone {k : ClusterId} (h : execClusterClockChange k s = .next t) : ProgramsAlone s t := by
  unfold execClusterClockChange at h
  split at h
  · exact next_alone (.untouched (by rfl)) h
  · cases h

theorem teamRequest_alone {d : DieId} {j : Nat} (h : execTeamRequest d j s = .next t) : ProgramsAlone s t := by
  unfold execTeamRequest at h
  dsimp only at h
  split at h
  · split at h
    · exact next_alone ((setTeams_alone s j _ _).trans (setTeams_alone _ j _ _)) h
    · exact next_alone (setTeams_alone s j _ _) h
  · cases h

theorem stealProbe_alone {c : CoreId} (h : execStealProbe c s = .next t) : ProgramsAlone s t := by
  unfold execStealProbe at h
  dsimp only at h
  split at h
  · split at h
    · exact next_alone (setCore_alone s _ _) h
    · cases h
  · cases h

theorem stagingCancelComplete_alone {c : CoreId} (h : execStagingCancelComplete c s = .next t) : ProgramsAlone s t := by
  unfold execStagingCancelComplete at h
  dsimp only at h
  split at h
  · cases h
  · exact next_alone (setCore_alone s _ _) h

theorem mmaPass_alone {k : ClusterId} (h : execMmaPass k s = .next t) : ProgramsAlone s t := by
  unfold execMmaPass at h
  split at h
  · cases h
  · exact next_alone (.untouched (by rfl)) h

theorem heddleDieLoss_alone {x : Fin 2} (h : execHeddleDieLoss x s = .next t) : ProgramsAlone s t := by
  refine eventIf_alone ?_ h
  split
  · exact .trans (.untouched (by rfl)) (loseFront_alone _)
  · exact .untouched rfl

theorem queueSlotAdmit_alone {p : PartId} {q : QueueNo} (h : execQueueSlotAdmit p q s = .next t) : ProgramsAlone s t := by
  unfold execQueueSlotAdmit at h
  dsimp only at h
  split at h
  · split at h
    · exact next_alone (setQueue_alone s _ _ _) h
    · split at h
      · exact next_alone ((setQueue_alone s _ _ _).trans (setQueue_alone _ _ _ _)) h
      · cases h
  · cases h

theorem waitwTimeout_alone {p : PartId} {q : QueueNo} (h : execWaitwTimeout p q s = .next t) : ProgramsAlone s t := by
  unfold execWaitwTimeout at h
  split at h
  · split at h
    · exact eventIf_alone (failWait_alone s _ _ _ _) h
    · cases h
  · cases h

theorem timedFirstIssue_alone {p : PartId} {q : QueueNo} (h : execTimedFirstIssue p q s = .next t) : ProgramsAlone s t := by
  unfold execTimedFirstIssue at h
  dsimp only at h
  split at h
  · exact next_alone (updJob_alone s _ _) h
  · cases h

theorem ppsEdge_alone (h : execPpsEdge s = .next t) : ProgramsAlone s t := by
  refine eventIf_alone ?_ h
  split
  · exact .trans (.untouched (by rfl)) (taiSample_alone _ _)
  · exact .untouched rfl

theorem pcieLinkUp_alone (h : execPcieLinkUp s = .next t) : ProgramsAlone s t := by
  refine eventIf_alone ?_ h
  split
  · exact .trans (.untouched (by rfl)) (sendVector_alone _ 0 0)
  · exact .untouched rfl

theorem bootVerify_alone (h : execBootVerify s = .next t) : ProgramsAlone s t := by
  refine eventIf_alone ?_ h
  split
  · exact .untouched rfl
  · exact recover_alone s _

theorem bootLoad_alone {ok : Bool} (h : execBootLoad ok s = .next t) : ProgramsAlone s t := by
  refine eventIf_alone ?_ h
  split
  · exact .untouched rfl
  · exact recover_alone s _

theorem commitSvn_alone {key : BitVec 16} (h : execCommitSvn key s = .next t) : ProgramsAlone s t := by
  refine btCommand_alone (fun u => ?_) h
  split
  · exact .trans (.untouched (by rfl)) (btRes_alone _ 0)
  · exact btRes_alone u 1

theorem measure_alone (h : execMeasure s = .next t) : ProgramsAlone s t := by
  unfold execMeasure State.measure at h
  refine btCommand_alone (fun u => ?_) h
  split
  · exact btRes_alone u 1
  · exact .trans (.untouched (by rfl)) (btRes_alone _ 3)

theorem i3cStatus_alone (h : execI3cStatus s = .next t) : ProgramsAlone s t := i3c_alone (.refl s) h

theorem i3cImageBlock_alone {num : BitVec 32} {bytes : List (BitVec 8)} (h : execI3cImageBlock num bytes s = .next t) :
    ProgramsAlone s t := by
  refine i3c_alone ?_ h
  split <;> exact .untouched rfl

theorem i3cImageEnd_alone {len : BitVec 32} (h : execI3cImageEnd len s = .next t) : ProgramsAlone s t := by
  refine i3c_alone ?_ h
  split
  · exact .refl s
  · dsimp only
    repeat' split
    all_goals exact .untouched rfl

theorem i3cMeasure_alone {nonce : List (BitVec 8)} (h : execI3cMeasure nonce s = .next t) : ProgramsAlone s t := by
  refine i3c_alone ?_ h
  split <;> exact .untouched rfl

theorem eolRecompute_alone {trend : List Trend} (h : execEolRecompute trend s = .next t) : ProgramsAlone s t := by
  have event : ∀ (b : Bool) (u : State), ProgramsAlone u (if b then u.healthEvent else u) := fun b u => by
    split
    · exact healthEvent_alone u
    · exact .refl u
  exact eventIf_alone (((trended_alone s _).trans (.untouched (by rfl))).trans ((event _ _).trans (event _ _))) h

theorem throttleStep_alone (h : execThrottleStep s = .next t) : ProgramsAlone s t := by
  unfold execThrottleStep at h
  extract_lets calm at h
  clear_value calm
  generalize s.mayStep = due at h
  split at h
  · rename_i u hu
    refine next_alone ?_ h
    split at hu
    · cases hu
    · split at hu
      · exact lowerOne_alone hu
      · exact raiseOne_alone (Option.ite_none_right_eq_some.mp hu).2
  · cases h

theorem thermalThrottle_alone {d : DieId} (h : execThermalThrottle d s = .next t) : ProgramsAlone s t := by
  unfold execThermalThrottle at h
  generalize s.mayStep = due at h
  split at h
  · exact next_alone (lowerOne_alone (Option.ite_none_right_eq_some.mp ‹_›).2) h
  · cases h

/-! Writes of registers. -/

theorem tlbInvalidate_alone {p : PartId} {v : BitVec 64} (h : execTlbInvalidate p v s = .next t) : ProgramsAlone s t :=
  hostWrites_alone (writeInval_alone s _ _) h

theorem pageTagInit_alone {p : PartId} {v : BitVec 64} (h : execPageTagInit p v s = .next t) : ProgramsAlone s t :=
  hostWrites_alone (writePginit_alone s _ _) h

theorem queueEnable_alone {p : PartId} {q : QueueNo} {v : BitVec 64} (h : execQueueEnable p q v s = .next t) : ProgramsAlone s t :=
  queueWrite_alone (setQueue_alone s _ _ _) h

theorem queueDisable_alone {p : PartId} {q : QueueNo} (h : execQueueDisable p q s = .next t) : ProgramsAlone s t :=
  queueWrite_alone (setQueue_alone s _ _ _) h

theorem feQwidxWrite_alone {p : PartId} {q : QueueNo} {n : BitVec 32} (h : execFeQwidxWrite p q n s = .next t) : ProgramsAlone s t :=
  queueWrite_alone (writeWidx_alone s _ _ _) h

theorem feQridxWrite_alone {p : PartId} {q : QueueNo} {n : BitVec 32} (h : execFeQridxWrite p q n s = .next t) : ProgramsAlone s t :=
  queueWrite_alone (writeRidx_alone s _ _ _) h

theorem taiSet_alone {ns : BitVec 64} (h : execTaiSet ns s = .next t) : ProgramsAlone s t :=
  hostWrites_alone (setTai_alone s _) h

theorem partitionEnable_alone {p : PartId} (h : execPartitionEnable p s = .next t) : ProgramsAlone s t :=
  hostWrites_alone (enable_alone s _) h

theorem partitionDisable_alone {p : PartId} (h : execPartitionDisable p s = .next t) : ProgramsAlone s t :=
  hostWrites_alone (disable_alone s _) h

theorem hdGroupWrite_alone {reg : Fin 3} {v : BitVec 64} (h : execHdGroupWrite reg v s = .next t)
    (hg : t.groupPos = s.groupPos ∧ t.hd.gmem = s.hd.gmem) : ProgramsAlone s t := by
  refine next_alone ?_ h
  cases h
  split
  · rename_i hopen
    rw [if_pos hopen] at hg
    exact writeGroup_alone s _ _ hg
  · exact .refl s

/-! The events that read lines. -/

theorem pageWalk_alone {p : PartId} {host : Bool} {va : BitVec 64} {k : AccessKind} {c : CoreId} (hn : NoReleases s)
    (h : execPageWalk p host va k c s = .next t) : ProgramsAlone s t := by
  have fill1 : ∀ (u : State) (key : Nat) (e : W64), ProgramsAlone u (u.tlbFill1 c.val key e) := fun u key e => by
    rw [tlbFill1_eq]
    exact .untouched rfl
  have fill2 : ∀ (u : State) (key : Nat) (e : W64), ProgramsAlone u (u.tlbFill2 (dieOf c.val) key e) := fun u key e => by
    rw [tlbFill2_eq]
    exact .untouched rfl
  have walk : ProgramsAlone s (s.walkReads p.val host va.toNat) := .of_dirFrame (walkReads_quiet hn _ _ _)
  unfold execPageWalk at h
  dsimp only at h
  split at h
  · cases h
  · split at h
    · exact next_alone (fill1 s _ _) h
    · split at h
      · exact next_alone ((walk.trans (fill2 _ _ _)).trans (fill1 _ _ _)) h
      · exact next_alone walk h

theorem directoryRebuildComplete_alone (hs : NothingHeld s) (h : execDirectoryRebuildComplete s = .next t) :
    ProgramsAlone s t := by
  refine eventIf_alone ?_ h
  have h0 : ReadFrame s { s with hd := { s.hd with lostDir := [], rebuild := false, degraded := true } } := .of_dies (.untouched rfl) rfl
  exact (h0.trans (ReadFrame.foldl (fun u e hu => rebuilt_read hu e) _ (h0.nothingHeld hs))).alone

theorem lookaheadParse_alone {p : PartId} {q : QueueNo} (hs : NothingHeld s) (h : execLookaheadParse p q s = .next t) :
    ProgramsAlone s t := by
  refine eventIf_alone ?_ h
  have parsed : ∀ x, ReadFrame s (s.setQueue p.val q.val x) := fun x => .of_dies (setQueue_alone s _ _ x) rfl
  split
  · exact (parsed _).alone
  · dsimp only
    have charged := fun x segs => (parsed x).trans (chargeFe_read _ p.val segs)
    split
    · exact ((charged _ _).trans (lookLaunch_read ((charged _ _).nothingHeld hs) _ _ _)).alone
    · exact (charged _ _).alone

end Events

/-- Settles O60, event by event: what each one's operations write is a clock, a link, a queue, a counter or the directory; those that
read lines do so where no drain and no dirty host line puts bytes in memory. -/
theorem quietEventsLeaveProgramsAlone : Obligations.QuietEventsLeaveProgramsAlone := by
  unfold Obligations.QuietEventsLeaveProgramsAlone
  intro i s t hq hr hg h
  suffices ha : ProgramsAlone s t from ⟨ha.slots, ha.mem, ha.tags, ha.lineFull, ha.poison⟩
  cases i
  case clockBalance => exact clockBalance_alone h
  case clusterClockChange => exact clusterClockChange_alone h
  case teamRequest => exact teamRequest_alone h
  case stealProbe => exact stealProbe_alone h
  case stealSweepWaitExpiry => exact eventIf_alone (setCore_alone s _ _) h
  case stagingCancelComplete => exact stagingCancelComplete_alone h
  case overflowSweep => exact eventIf_alone (.untouched (by rfl)) h
  case directoryRebuildComplete => exact directoryRebuildComplete_alone (hr rfl) h
  case heddleDieLoss => exact heddleDieLoss_alone h
  case scaskaxonPortDown => exact eventIf_alone (setPorts_alone s _) h
  case scaskaxonPortUp => exact eventIf_alone (.trans (.untouched (by rfl)) (setPorts_alone _ _)) h
  case linkLevelReplay => exact eventIf_alone (.trans (.untouched (by rfl)) (setPorts_alone _ _)) h
  case pageWalk p host va k c => exact pageWalk_alone (k := k) (hr rfl).1 h
  case tlbInvalidate => exact tlbInvalidate_alone h
  case pageTagInit => exact pageTagInit_alone h
  case queueEnable => exact queueEnable_alone h
  case queueDisable => exact queueDisable_alone h
  case feQwidxWrite => exact feQwidxWrite_alone h
  case feQridxWrite => exact feQridxWrite_alone h
  case lookaheadParse => exact lookaheadParse_alone (hr rfl) h
  case queueSlotAdmit => exact queueSlotAdmit_alone h
  case waitwTimeout => exact waitwTimeout_alone h
  case timedFirstIssue => exact timedFirstIssue_alone h
  case taiSet => exact taiSet_alone h
  case ptmRequest => exact eventIf_alone (.untouched (by rfl)) h
  case ptmSample => exact eventIf_alone (taiSample_alone s _) h
  case ppsEdge => exact ppsEdge_alone h
  case taiSampleTimeout => exact eventIf_alone (.untouched (by rfl)) h
  case partitionEnable => exact partitionEnable_alone h
  case partitionDisable => exact partitionDisable_alone h
  case bucketRefill => exact eventIf_alone (.untouched (by rfl)) h
  case hdGroupWrite => exact hdGroupWrite_alone h (hg rfl)
  case pcieLinkDown => exact eventIf_alone (.untouched (by rfl)) h
  case pcieLinkUp => exact pcieLinkUp_alone h
  case commitSvn => exact commitSvn_alone h
  case measure => exact measure_alone h
  case bootVerify => exact bootVerify_alone h
  case bootLoad => exact bootLoad_alone h
  case bootReady => exact eventIf_alone (.untouched (by rfl)) h
  case i3cStatus => exact i3cStatus_alone h
  case i3cImageBlock => exact i3cImageBlock_alone h
  case i3cImageEnd => exact i3cImageEnd_alone h
  case i3cMeasure => exact i3cMeasure_alone h
  case eolRecompute => exact eolRecompute_alone h
  case powerSample => exact next_alone (.untouched (by rfl)) h
  case throttleStep => exact throttleStep_alone h
  case inputUndervoltage => exact eventIf_alone (.untouched (by rfl)) h
  case inputVoltageHeld => exact eventIf_alone (.untouched (by rfl)) h
  case inputOutOfRange => exact eventIf_alone (.untouched (by rfl)) h
  case thermalThrottle => exact thermalThrottle_alone h
  case thermalShutdown => exact eventIf_alone (.untouched (by rfl)) h
  case feHeartbeat => exact eventIf_alone (.untouched (by rfl)) h
  case heartbeatTimeout => exact eventIf_alone (.trans (.untouched (by rfl)) ((healthEvent_alone _).trans (sendVector_alone _ 0 0))) h
  case watchdogExpiry => exact eventIf_alone (stopJob_alone s _ _) h
  case jobPreempt => exact next_alone (cmdPreempt_alone s _ _ _) h
  case jobPreemptDie => exact next_alone (cmdPreemptDie_alone s _ _ _) h
  case mmaPass => exact mmaPass_alone h
  all_goals exact absurd hq Bool.false_ne_true

end Sys2Proof.Machine
end

section
/-! ## O52: the host reaches the device (R10, R11, R421, R422, R427, R444) -/

namespace Sys2Proof.Machine

open Sys2Proof.Slice0

/-- What is written reads back. -/
theorem readN_writeN_same (m : FMap Byte) (a : Nat) (bs : List Byte) : readN (writeN m a bs) a bs.length = bs := by
  induction bs generalizing m a with
  | nil => rfl
  | cons b bs ih =>
    rw [List.length_cons, readN, writeN, ih, getD_writeN_out _ _ (.inl (Nat.lt_succ_self a)), FMap.getD_put_self]

/-! ### BAR2 (R422) -/

theorem bar2Error_mem (s : State) (fn : Nat) : (s.bar2Error fn).mem = s.mem := by
  unfold State.bar2Error
  split <;> rfl

theorem setPart_part (s : State) (p q : Nat) (x : Partition) : (s.setPart p x).part q = if q = p then x else s.part q :=
  FMap.getD_ins ..

theorem bar2Error_part {s : State} {fn q : Nat} (h : s.partOf fn = some q) :
    ((s.bar2Error fn).part q).b2err = (s.part q).b2err + 1 := by
  unfold State.bar2Error
  simp only [h]
  rw [setPart_part, if_pos rfl]

section Bar2

variable {s : State} {fn : FuncId} {off : Nat} (hp : s.pcie = true)
include hp

theorem bar2Read_gives {n : Nat} (ho : off + n ≤ 2 ^ 36) {segs : Segs} (h : s.bar2Segs fn.val off n .read = some segs)
    (hheld : s.feHeld segs = false) :
    exec (.bar2Read fn off n) s = .next { (s.feReads segs).2 with bar2 := (s.feReads segs).1 } := by
  simp only [exec_bar2Read, execBar2Read, h]
  exact eventIf_pos _ _ (by simp only [hp, State.bar2Waits, hheld, decide_eq_true ho]; rfl)

theorem bar2Read_refused {n : Nat} (ho : off + n ≤ 2 ^ 36) (h : s.bar2Segs fn.val off n .read = none) :
    exec (.bar2Read fn off n) s = .next { s.bar2Error fn.val with bar2 := List.replicate n 0xFF } := by
  simp only [exec_bar2Read, execBar2Read, h]
  exact eventIf_pos _ _ (by simp only [hp, State.bar2Waits, decide_eq_true ho]; rfl)

variable {bs : List (BitVec 8)} (ho : off + bs.length ≤ 2 ^ 36)
include ho

theorem bar2Write_gives {segs : Segs} (h : s.bar2Segs fn.val off bs.length .write = some segs) (hheld : s.feHeld segs = false) :
    exec (.bar2Write fn off bs) s = .next (s.feWrites segs bs) := by
  simp only [exec_bar2Write, execBar2Write, h]
  exact eventIf_pos _ _ (by simp only [hp, State.bar2Waits, hheld, decide_eq_true ho]; rfl)

theorem bar2Write_refused (h : s.bar2Segs fn.val off bs.length .write = none) :
    exec (.bar2Write fn off bs) s = .next (s.bar2Error fn.val) := by
  simp only [exec_bar2Write, execBar2Write, h]
  exact eventIf_pos _ _ (by simp only [hp, State.bar2Waits, decide_eq_true ho]; rfl)

end Bar2

/-- The front end's write of one segment of device memory: the home takes the line back, and the bytes are written. -/
theorem feWrites_device (s : State) {a : Nat} (bs : List Byte) (ha : isHostPlace a = false) :
    s.feWrites [(a, bs.length)] bs = (s.obtainHome (lineOf a)).write a bs := by
  simp only [State.feWrites, ha, List.take_length]
  rfl

theorem feHeld_one {s : State} {a n : Nat} (h : s.owned.has (lineOf a) = false) : s.feHeld [(a, n)] = false := by
  simp [State.feHeld, h]

/-! ### The link (R421) -/

theorem pcieLinkUp_gives {s : State} (hp : s.pcie = false) (hs : 2 ≤ s.bt.stage.toNat) :
    exec .pcieLinkUp s = .next (if s.bt.stage = 5 then ({ s with pcie := true } : State).sendVector 0 0 else { s with pcie := true }) := by
  rw [exec_pcieLinkUp]
  exact eventIf_pos _ _ (by simp [hp, hs])

/-- A vector that is masked becomes pending, and nothing goes to the host. -/
theorem sendVector_masked {s : State} {fn vec : Nat} (h : s.masked fn vec = true) :
    s.sendVector fn vec = { s with msixPba := s.msixPba.ins (64 * fn + vec) true } := by
  unfold State.sendVector
  rw [if_pos h]

/-- A vector that is not masked goes to the host while the link is up. -/
theorem sendVector_up {s : State} {fn vec : Nat} (h : s.masked fn vec = false) (hp : s.pcie = true) :
    s.sendVector fn vec = { s with msix := s.msix ++ [(fn, vec)] } := by
  unfold State.sendVector
  simp only [h, hp]
  rfl

/-- In recovery the link that comes up carries vector 0, or leaves it pending. -/
theorem sendVector_linkUp (s : State) (h5 : s.bt.stage = 5) : let t := ({ s with pcie := true } : State).sendVector 0 0
    t.pcie = true ∧ (s.bt.stage = 5 → s.masked 0 0 = false → t.msix = s.msix ++ [(0, 0)]) ∧
      (s.bt.stage = 5 → s.masked 0 0 = true → t.msix = s.msix ∧ t.msixPba.getD 0 false = true) ∧
      (s.bt.stage ≠ 5 → t.msix = s.msix) := by
  have hm : ({ s with pcie := true } : State).masked 0 0 = s.masked 0 0 := rfl
  cases h : s.masked 0 0 with
  | false =>
    rw [sendVector_up (hm.trans h) rfl]
    exact ⟨rfl, fun _ _ => rfl, fun _ => nofun, fun hne => absurd h5 hne⟩
  | true =>
    rw [sendVector_masked (hm.trans h)]
    exact ⟨rfl, fun _ => nofun, fun _ _ => ⟨rfl, FMap.getD_ins_self ..⟩, fun hne => absurd h5 hne⟩

/-! ### Registers (R10, R427, R444) -/

section Paths

variable {s : State} {fn off : Nat}

theorem readReg_bt (h1 : 0xA0000 ≤ off) (h2 : off < 0xA1000) : s.readReg 0 off = s.readBt (off - 0xA0000) := by
  unfold State.readReg
  rw [if_pos ⟨rfl, h1, h2⟩]

theorem readReg_msix (h1 : 0x80000 ≤ off) (h2 : off < 0x80400) : s.readReg fn off =
    BitVec.ofNat 64 (natOf ((List.range 8).map fun i => s.msixTab.getD (2048 * fn + (off - 0x80000) / 8 * 8 + i) 0)) := by
  unfold State.readReg
  rw [if_neg (by omega), if_pos ⟨h1, h2⟩]

variable (hb : s.barOpen = true)
include hb

theorem readReg_part {p : Nat} (hp : s.partOf fn = some p) (h : off < 0x40000) : s.readReg fn off = s.readPart p off := by
  unfold State.readReg
  rw [if_neg (by omega), if_neg (by omega), if_neg (by omega), hb, if_neg (by decide), if_pos h]
  simp only [hp]

theorem readReg_pf (h1 : 0x40000 ≤ off) (h2 : ¬ (0xA0000 ≤ off ∧ off < 0xA1000)) (h3 : ¬ (0x80000 ≤ off ∧ off < 0x81008)) :
    s.readReg 0 off = s.readPf off := by
  unfold State.readReg
  rw [if_neg (by omega), if_neg (by omega), if_neg (by omega), hb, if_neg (by decide), if_neg (by omega), if_pos rfl]

theorem registerWrite_part {fn : FuncId} {p : Nat} (v : W64) (hp : s.partOf fn.val = some p) (h : off < 0x40000) :
    exec (.registerWrite fn off v) s = .next (s.writePart p off v) := by
  rw [exec_registerWrite, execRegisterWrite, if_neg (by omega), if_neg (by omega)]
  simp only [State.hostWrites, hb, if_pos h, hp]
  rfl

theorem registerWrite_none {fn : FuncId} (v : W64) (hp : s.partOf fn.val = none) (h : off < 0x40000) :
    exec (.registerWrite fn off v) s = .next s := by
  rw [exec_registerWrite, execRegisterWrite, if_neg (by omega), if_neg (by omega)]
  simp only [State.hostWrites, hb, if_pos h, hp]
  rfl

theorem registerWrite_pf (v : W64) (h1 : 0x40000 ≤ off) (h2 : ¬ (0xA0000 ≤ off ∧ off < 0xA1000))
    (h3 : ¬ (0x80000 ≤ off ∧ off < 0x81000)) : exec (.registerWrite 0 off v) s = .next (s.writePf off v) := by
  rw [exec_registerWrite, execRegisterWrite, if_neg (by omega), if_neg (by omega)]
  simp only [State.hostWrites, hb, if_neg (Nat.not_lt.mpr h1)]
  rfl

end Paths

/-- Which partition a function has depends on FN, EN and CLUS of the partitions alone. -/
theorem partOf_congr {s t : State} (fn : Nat)
    (h : ∀ p, (t.part p).fn = (s.part p).fn ∧ (t.part p).en = (s.part p).en ∧ (t.part p).clus = (s.part p).clus) :
    t.partOf fn = s.partOf fn := by
  have hf : ∀ p, (t.part p).fn = (s.part p).fn := fun p => (h p).1
  have he : ∀ p, (t.part p).en = (s.part p).en := fun p => (h p).2.1
  have hc : ∀ p, (t.part p).clus = (s.part p).clus := fun p => (h p).2.2
  simp only [State.partOf, hf, he, hc]

theorem partOf_setPart (s : State) (fn p : Nat) (x : Partition) (hf : x.fn = (s.part p).fn) (he : x.en = (s.part p).en)
    (hc : x.clus = (s.part p).clus) : (s.setPart p x).partOf fn = s.partOf fn := by
  refine partOf_congr fn fun q => ?_
  rw [setPart_part]
  split
  · subst_vars
    exact ⟨hf, he, hc⟩
  · exact ⟨rfl, rfl, rfl⟩

/-! #### Field values -/

/-- A field of the n low bits reads back as the source's n low bits. -/
theorem truncate_zeroExtend (v : W64) (n : Nat) : (v.truncate n).zeroExtend 64 = v &&& BitVec.ofNat 64 (2 ^ n - 1) := by
  refine BitVec.eq_of_getLsbD_eq fun i hi => ?_
  simp only [BitVec.truncate_eq_setWidth, BitVec.getLsbD_setWidth, BitVec.getLsbD_and,
    BitVec.getLsbD_ofNat, Nat.testBit_two_pow_sub_one, hi, decide_true, Bool.true_and]
  exact Bool.and_comm ..

theorem w1c_all (old v : W64) : w1c old v 0 = old &&& ~~~v := by
  have h : bits v 0 64 = v.toNat := by
    rw [bits, Nat.pow_zero, Nat.div_one, Nat.mod_eq_of_lt v.isLt]
  rw [w1c, h, BitVec.ofNat_toNat, BitVec.setWidth_eq]

/-- The MSI-X table's eight bytes after a write of them. -/
theorem msixWord_written (m : FMap Byte) (a : Nat) (v : W64) :
    BitVec.ofNat 64 (natOf ((List.range 8).map fun i => (writeN m a (bytesOf 8 v.toNat)).getD (a + i) 0)) = v := by
  have h := readN_writeN_same m a (bytesOf 8 v.toNat)
  rw [bytesOf_length] at h
  have hr : (List.range 8).map (fun i => (writeN m a (bytesOf 8 v.toNat)).getD (a + i) 0) =
      readN (writeN m a (bytesOf 8 v.toNat)) a 8 := rfl
  rw [hr, h, natOf_bytesOf, show 256 ^ 8 = 2 ^ 64 from rfl, Nat.mod_eq_of_lt v.isLt, BitVec.ofNat_toNat, BitVec.setWidth_eq]

theorem sendVector_msixTab (s : State) (fn vec : Nat) : (s.sendVector fn vec).msixTab = s.msixTab := by
  unfold State.sendVector
  split
  · rfl
  · split <;> rfl

theorem writeMsix_msixTab (s : State) (fn : Nat) {off : Nat} (v : W64) (h : off < 1024) :
    (s.writeMsix fn off v).msixTab = writeN s.msixTab (2048 * fn + off / 8 * 8) (bytesOf 8 v.toNat) := by
  unfold State.writeMsix
  rw [if_pos h]
  dsimp only
  split
  · exact sendVector_msixTab _ _ _
  · rfl

/-! #### Each register that the host writes, and reads back -/

section Registers

variable (s : State) (v : W64)

theorem updlen_reads_back : EventGives s (.registerWrite 0 0xA0010 v) fun t => t.readReg 0 0xA0010 = v &&& 0xFFFFFFFF :=
  ⟨{ s with bt := { s.bt with updlen := v.truncate 32 } }, by rw [exec_registerWrite]; rfl,
    (readReg_bt (by decide) (by decide)).trans (truncate_zeroExtend v 32)⟩

theorem msix_reads_back (fn : FuncId) {i : Nat} (hi : i < 128) :
    EventGives s (.registerWrite fn (0x80000 + 8 * i) v) fun t => t.readReg fn.val (0x80000 + 8 * i) = v := by
  refine ⟨s.writeMsix fn.val (8 * i) v, ?_, ?_⟩
  · rw [exec_registerWrite, execRegisterWrite, if_neg (by omega), if_pos (by omega), Nat.add_sub_cancel_left]
  · dsimp only
    rw [readReg_msix (by omega) (by omega), Nat.add_sub_cancel_left, writeMsix_msixTab _ _ _ (by omega)]
    exact msixWord_written _ _ v

variable {s} (hb : s.barOpen = true)
include hb

/-- A register that only the physical function has reads as the state that its write leaves says. -/
theorem pf_reads_back {off : Nat} {t : State} {x : W64} (h1 : 0x40000 ≤ off) (h2 : ¬ (0xA0000 ≤ off ∧ off < 0xA1000))
    (h3 : ¬ (0x80000 ≤ off ∧ off < 0x81008)) (hw : s.writePf off v = t) (ht : t.barOpen = true) (hx : t.readPf off = x) :
    EventGives s (.registerWrite 0 off v) fun t => t.readReg 0 off = x :=
  ⟨t, by rw [registerWrite_pf hb v h1 h2 (by omega), hw], (readReg_pf ht h1 h2 h3).trans hx⟩

theorem b2sel_reads_back : EventGives s (.registerWrite 0 0x60030 v) fun t => t.readReg 0 0x60030 = v &&& 0x3F :=
  pf_reads_back v hb (t := { s with hd := { s.hd with b2sel := v.truncate 6 } }) (by decide) (by decide) (by decide) rfl hb
    (truncate_zeroExtend v 6)

theorem cap_reads_back : EventGives s (.registerWrite 0 0xC0018 v) fun t => t.readReg 0 0xC0018 = v &&& 0xFFF :=
  pf_reads_back v hb (t := { s with hm := { s.hm with cap := v.truncate 12 } }) (by decide) (by decide) (by decide) rfl hb
    (truncate_zeroExtend v 12)

/-- HM_CERR clears the bits that the write has set. -/
theorem cerr_clears : EventGives s (.registerWrite 0 0xC0080 v) fun t => t.readReg 0 0xC0080 = s.readReg 0 0xC0080 &&& ~~~v := by
  rw [readReg_pf hb (by decide) (by decide) (by decide)]
  exact pf_reads_back v hb (t := { s with hm := { s.hm with cerr := w1c s.hm.cerr v 0 } }) (by decide) (by decide) (by decide) rfl hb
    (w1c_all s.hm.cerr v)

variable {fn : FuncId} {p : PartId} (hp : s.partOf fn.val = some p.val)
include hp

/-- A register of the MM block whose write replaces the partition's registers and keeps FN, EN and CLUS reads as the new
registers have it. -/
theorem mm_reads_back {off : Nat} (ho : off < 0x1000) {x : Partition} (hw : s.writeMm p.val off v = s.setPart p.val x)
    (hf : x.fn = (s.part p.val).fn) (he : x.en = (s.part p.val).en) (hc : x.clus = (s.part p.val).clus) :
    EventGives s (.registerWrite fn (0x20000 + off) v) fun t =>
      t.readReg fn.val (0x20000 + off) = (s.setPart p.val x).readMm p.val off := by
  refine ⟨s.setPart p.val x, ?_, ?_⟩
  · rw [registerWrite_part hb v hp (by omega), State.writePart, if_neg (by omega), if_neg (by omega), if_pos (by omega),
      Nat.add_sub_cancel_left, hw]
  · have hp' : (s.setPart p.val x).partOf fn.val = some p.val := (partOf_setPart s fn.val p.val x hf he hc).trans hp
    have hb' : (s.setPart p.val x).barOpen = true := hb
    dsimp only
    rw [readReg_part hb' hp' (by omega), State.readPart, if_neg (by omega), if_neg (by omega), if_pos (by omega),
      Nat.add_sub_cancel_left]

theorem b2base_reads_back :
    EventGives s (.registerWrite fn 0x20050 v) fun t => t.readReg fn.val 0x20050 = v &&& 0x01FFFFFFFFFFFFFF := by
  obtain ⟨t, ht, hr⟩ := mm_reads_back v hb hp (off := 0x50) (by decide)
    (x := { s.part p.val with b2base := v &&& 0x01FFFFFFFFFFFFFF }) rfl rfl rfl rfl
  exact ⟨t, ht, hr.trans (by simp only [State.readMm]; rw [setPart_part, if_pos rfl])⟩

theorem ptbase_reads_back (hen : (s.part p.val).en = false) :
    EventGives s (.registerWrite fn 0x20000 v) fun t => t.readReg fn.val 0x20000 = v &&& 0x000FFFFFFFFFF000 := by
  obtain ⟨t, ht, hr⟩ := mm_reads_back v hb hp (off := 0) (by decide)
    (x := { s.part p.val with ptbase := v &&& 0x000FFFFFFFFFF000 })
    (by simp only [State.writeMm, hen]; rfl) rfl rfl rfl
  exact ⟨t, ht, hr.trans (by simp only [State.readMm]; rw [setPart_part, if_pos rfl])⟩

/-- While the partition is enabled, its tables stay where they are. -/
theorem ptbase_locked (hen : (s.part p.val).en = true) : exec (.registerWrite fn 0x20000 v) s = .next s := by
  rw [registerWrite_part hb v hp (by decide)]
  simp only [State.writePart, State.writeMm, hen]
  rfl

end Registers

/-- Settles O52: each clause runs one event, whose guard its premises meet, and reads the state that it leaves. -/
theorem theHostReachesTheDevice : Obligations.TheHostReachesTheDevice := by
  unfold Obligations.TheHostReachesTheDevice
  intro s fn off n bs v p
  refine ⟨fun hp ho => ⟨fun segs h hheld => ⟨_, bar2Read_gives hp ho h hheld, rfl⟩,
      fun h => ⟨_, bar2Read_refused hp ho h, rfl, bar2Error_mem s _, fun q hq => bar2Error_part hq⟩⟩,
    fun hp ho => ⟨fun a h ha howned => ⟨_, bar2Write_gives hp ho h (feHeld_one howned), ?_⟩,
      fun h => ⟨_, bar2Write_refused hp ho h, bar2Error_mem s _, fun q hq => bar2Error_part hq⟩⟩,
    fun hp => ?_, fun hp hs => ⟨_, pcieLinkUp_gives hp hs, ?_⟩, updlen_reads_back s v, fun i hi => msix_reads_back s v fn hi,
    fun hb => ⟨b2sel_reads_back v hb, cap_reads_back v hb, cerr_clears v hb,
      fun hq => ⟨b2base_reads_back v hb hq, fun hen => ptbase_reads_back v hb hq hen, fun hen => ptbase_locked v hb hq hen⟩,
      fun _ hq ho => registerWrite_none hb v hq ho⟩⟩
  · rw [feWrites_device s bs ha]
    exact ⟨readN_writeN_same _ a bs, (obtainHome_frame s (lineOf a)).tags⟩
  · rw [exec_pcieLinkDown]
    exact eventIf_pos _ _ hp
  · by_cases h5 : s.bt.stage = 5
    · rw [if_pos h5]
      exact sendVector_linkUp s h5
    · rw [if_neg h5]
      exact ⟨rfl, fun h => absurd h h5, fun h => absurd h h5, fun _ => rfl⟩

end Sys2Proof.Machine
end

section
/-! ## O16: reconvergence leaves the top entry (R40) -/

namespace Sys2Proof.Machine

/-- y differs from x at most in the program counter, the lanes, the path and the stack. -/
def PathFrame (x y : Ctl) : Prop := y = { x with pc := y.pc, exec := y.exec, path := y.path, stk := y.stk }

theorem PathFrame.trans {x y z : Ctl} (h : PathFrame x y) (k : PathFrame y z) : PathFrame x z := by
  unfold PathFrame at h k
  rw [h] at k
  exact k

theorem PathFrame.live {x y : Ctl} (h : PathFrame x y) : y.live = x.live := by rw [h]

/-! ### One round -/

theorem Ctl.pathEnd_frame (x : Ctl) : PathFrame x x.pathEnd := by
  unfold Ctl.pathEnd
  split
  · rfl
  · dsimp only
    repeat' split
    all_goals rfl

/-- The rounds that the entries of a stack can take: one to start a pending path, and one to pop each entry. -/
def roundsLeft (stk : List StkEntry) : Nat := (stk.map fun e => if e.pvalid then 2 else 1).sum

theorem roundsLeft_le (stk : List StkEntry) : roundsLeft stk ≤ 2 * stk.length := by
  induction stk with
  | nil => exact Nat.le_refl 0
  | cons e rest ih =>
    simp only [roundsLeft, List.map_cons, List.sum_cons, List.length_cons] at ih ⊢
    split <;> omega

section Round

variable {x : Ctl} {e : StkEntry} {rest : List StkEntry} (h : x.stk = e :: rest)
include h

/-- A round starts the pending path of the top entry, or pops it. -/
theorem Ctl.pathEnd_stk : x.pathEnd.stk = if e.pvalid then { e with pvalid := false } :: rest else rest := by
  unfold Ctl.pathEnd
  simp only [h]
  cases e.pvalid with
  | true => simp only [if_true]; split <;> rfl
  | false =>
    simp only [Bool.false_eq_true, if_false]
    cases rest with
    | nil => rfl
    | cons e' rest => dsimp only; split <;> rfl

theorem Ctl.pathEnd_rounds : roundsLeft x.stk = roundsLeft x.pathEnd.stk + 1 := by
  rw [pathEnd_stk h, h]
  cases hp : e.pvalid <;> simp [roundsLeft, hp] <;> omega

/-- The lanes of a round are live ones. -/
theorem Ctl.pathEnd_exec : x.pathEnd.exec &&& ~~~x.live = 0 := by
  have live : ∀ m : W64, m &&& x.live &&& ~~~x.live = 0 := fun m => by
    rw [BitVec.and_assoc, BitVec.and_not_self]
    exact BitVec.and_zero
  unfold Ctl.pathEnd
  simp only [h]
  cases e.pvalid with
  | true => simp only [if_true]; split <;> exact live _
  | false =>
    simp only [Bool.false_eq_true, if_false]
    repeat' split
    all_goals exact live _

/-- At an open reconvergence point a round runs, and the others follow. -/
theorem Ctl.reconverge_open (n : Nat) (hpc : x.pc = e.rpc) : x.reconverge (n + 1) = x.pathEnd.reconverge n := by
  simp [Ctl.reconverge, h, hpc]

theorem Ctl.reconverge_past (n : Nat) (hpc : x.pc ≠ e.rpc) : x.reconverge n = x := by
  cases n <;> simp [Ctl.reconverge, h, hpc]

end Round

theorem Ctl.reconverge_empty {x : Ctl} (n : Nat) (h : x.stk = []) : x.reconverge n = x := by
  cases n <;> simp [Ctl.reconverge, h]

/-! ### All rounds -/

/-- Rounds enough for the stack leave the warp at no open reconvergence point. -/
theorem Ctl.reconverge_settled : ∀ (n : Nat) (x : Ctl), roundsLeft x.stk ≤ n →
    let y := x.reconverge n
    y.stk = [] ∨ ∃ e rest, y.stk = e :: rest ∧ y.pc ≠ e.rpc
  | n, x, h => by
    cases hs : x.stk with
    | nil => exact .inl (by rw [reconverge_empty n hs, hs])
    | cons e rest =>
      by_cases hpc : x.pc = e.rpc
      · have hr := pathEnd_rounds hs
        obtain ⟨m, rfl⟩ : ∃ m, n = m + 1 := ⟨n - 1, by omega⟩
        rw [reconverge_open hs m hpc]
        exact reconverge_settled m x.pathEnd (by omega)
      · rw [reconverge_past hs n hpc]
        exact .inr ⟨e, rest, hs, hpc⟩

/-- The rounds change what one round changes, and join live lanes alone. -/
theorem Ctl.reconverge_frame : ∀ (n : Nat) (x : Ctl),
    PathFrame x (x.reconverge n) ∧ (x.reconverge n = x ∨ (x.reconverge n).exec &&& ~~~x.live = 0)
  | 0, x => ⟨rfl, .inl rfl⟩
  | n + 1, x => by
    cases hs : x.stk with
    | nil =>
      rw [reconverge_empty _ hs]
      exact ⟨rfl, .inl rfl⟩
    | cons e rest =>
      by_cases hpc : x.pc = e.rpc
      · obtain ⟨hf, hl⟩ := reconverge_frame n x.pathEnd
        rw [reconverge_open hs n hpc]
        refine ⟨(pathEnd_frame x).trans hf, .inr ?_⟩
        rcases hl with hl | hl
        · rw [hl]
          exact pathEnd_exec hs
        · rwa [(pathEnd_frame x).live] at hl
      · rw [reconverge_past hs _ hpc]
        exact ⟨rfl, .inl rfl⟩

/-- Settles O16: a round starts a pending path or pops an entry, so that twice the depth of rounds settles the warp. -/
theorem reconvergenceLeavesTheTopEntry : Obligations.ReconvergenceLeavesTheTopEntry := by
  unfold Obligations.ReconvergenceLeavesTheTopEntry
  intro w w'
  obtain ⟨hframe, hlive⟩ := w.ctl.reconverge_frame (2 * w.ctl.stk.length)
  exact ⟨Ctl.reconverge_settled _ w.ctl (roundsLeft_le _),
    fun hne => hlive.resolve_left fun he => hne (congrArg (fun c => { w with ctl := c }) he),
    congrArg (fun c => { w with ctl := c }) hframe⟩

end Sys2Proof.Machine
end

section
/-! ## O15: branches and divergence (R40, R244, R279, R280) -/

namespace Sys2Proof.Machine

open Sys2Proof.Slice0

/-! ### Commits of one warp -/

theorem becomes_of_ok {s : State} {i : Instr} {u : Bool} {r : Res Warp} {w : Warp} (hi : exec i s = commitW s u r)
    (hr : r = .ok w) : Becomes s i w := by
  rw [Becomes, hi, hr, commitW_ok]

theorem raises_of_error {s : State} {i : Instr} {u : Bool} {r : Res Warp} {cause sub : Nat} (hi : exec i s = commitW s u r)
    (hr : r = raise cause sub) : Raises s i u cause sub := by
  rw [Raises, hi, hr, raise, commitW_error]
  rfl

/-- A check before a result. -/
theorem need_bind_ok {α : Type} {c : Bool} (cause sub : Nat) (r : Res α) (h : c = true) :
    (need c cause sub >>= fun _ => r) = r := by rw [h]; rfl

theorem need_bind_error {α : Type} {c : Bool} (cause sub : Nat) (r : Res α) (h : c = false) :
    (need c cause sub >>= fun _ => r) = raise cause sub := by rw [h]; rfl

/-! ### Uniform branches (R40) -/

section Uniform

variable (w : Warp) (tgt : W64)

theorem uniformBranch_all (hne : branchLanes w ≠ 0) (hg : branchLanes w &&& w.guard = branchLanes w) :
    w.uniformBranch tgt = .ok (w.setPc tgt) := if_pos ⟨hne, hg⟩

theorem uniformBranch_none (hg : branchLanes w &&& w.guard = 0) : w.uniformBranch tgt = .ok w.advance := by
  have hne : ¬ (branchLanes w ≠ 0 ∧ branchLanes w &&& w.guard = branchLanes w) := fun h => h.1 (h.2.symm.trans hg)
  exact (if_neg hne).trans (if_pos hg)

theorem uniformBranch_some (hne : branchLanes w &&& w.guard ≠ 0) (hg : branchLanes w &&& w.guard ≠ branchLanes w) :
    w.uniformBranch tgt = raise DIVERGENT_BRANCH 0 := (if_neg fun h => hg h.2).trans (if_neg hne)

end Uniform

theorem branchesMoveTheProgramCounter : BranchesMoveTheProgramCounter := by
  intro s i d a w tgt
  refine ⟨fun hne hg => becomes_of_ok (exec_bra ..) (uniformBranch_all w tgt hne hg),
    fun hg => becomes_of_ok (exec_bra ..) (uniformBranch_none w tgt hg),
    fun hne hg => raises_of_error (exec_bra ..) (uniformBranch_some w tgt hne hg),
    becomes_of_ok (u := true) (exec_bsr ..) rfl,
    fun hi => becomes_of_ok (exec_pool ..) (need_bind_ok _ _ _ (decide_eq_true hi)),
    fun hi => raises_of_error (exec_pool ..) (need_bind_error _ _ _ (decide_eq_false (by omega))),
    fun ha => ⟨becomes_of_ok (exec_jmp ..) (need_bind_ok _ _ _ (beq_iff_eq.mpr ha)),
      becomes_of_ok (exec_rets ..) (need_bind_ok _ _ _ (beq_iff_eq.mpr ha))⟩,
    fun ha => ⟨raises_of_error (exec_jmp ..) (need_bind_error _ _ _ (beq_eq_false_iff_ne.mpr ha)),
      raises_of_error (exec_rets ..) (need_bind_error _ _ _ (beq_eq_false_iff_ne.mpr ha))⟩,
    becomes_of_ok (exec_nop ..) rfl⟩

/-! ### Divergence (R40) -/

section Split

variable (w : Warp) (tgt : W64)

theorem divSplit_none (hg : divTaken w = 0) : w.divSplit tgt = .ok w.advance := if_pos hg

variable (hg : divTaken w ≠ 0)
include hg

theorem divSplit_empty (hs : w.ctl.stk = []) :
    w.divSplit tgt = if divFall w = 0 then .ok (w.setPc tgt) else raise RECONVERGENCE_OVERFLOW 0 := by
  refine (if_neg hg).trans ?_
  simp only [hs]
  rfl

variable {e : StkEntry} {rest : List StkEntry} (hs : w.ctl.stk = e :: rest)
include hs

/-- A second target cannot be pending in one entry. -/
theorem divSplit_second (hp : e.pvalid = true) (ht : e.ptgt ≠ tgt) : w.divSplit tgt = raise RECONVERGENCE_OVERFLOW 0 := by
  refine (if_neg hg).trans ?_
  simp [hs, hp, ht]

/-- All lanes branch, and none waits at the entry. -/
theorem divSplit_all (hf : divFall w = 0) (hp : e.pvalid = false) : w.divSplit tgt = .ok (w.setPc tgt) := by
  refine (if_neg hg).trans ?_
  change w.execLanes &&& ~~~(w.execLanes &&& w.guard) = 0 at hf
  simp [hs, hp, hf]

/-- All lanes branch, and are joined by those that wait at the entry for the same target. -/
theorem divSplit_join (hf : divFall w = 0) (hp : e.pvalid = true) (ht : e.ptgt = tgt) :
    w.divSplit tgt = .ok { w with ctl := { w.ctl with
      exec := (divTaken w ||| e.pmask) &&& w.ctl.live, path := (divTaken w ||| e.pmask) &&& w.ctl.live, pc := tgt
      stk := { e with pvalid := false } :: rest } } := by
  refine (if_neg hg).trans ?_
  change w.execLanes &&& ~~~(w.execLanes &&& w.guard) = 0 at hf
  simp [hs, hp, hf, ht, divTaken]

/-- Some lanes branch: they wait at the entry, and the others go on. -/
theorem divSplit_some (hf : divFall w ≠ 0) (ht : e.pvalid = false ∨ e.ptgt = tgt) :
    w.divSplit tgt = .ok { w with ctl := { w.ctl with
      exec := divFall w, path := divFall w, pc := w.ctl.pc + 4
      stk := { e with
        pmask := (if e.pvalid then e.pmask else 0) ||| divTaken w, ptgt := tgt, pvalid := true } :: rest } } := by
  have hc : ¬ ((e.pvalid && e.ptgt != tgt) = true) := by
    rcases ht with h | h <;> simp [h]
  refine (if_neg hg).trans ?_
  simp only [hs]
  exact (if_neg hc).trans (if_neg hf)

end Split

theorem divergenceSplitsTheWarp : DivergenceSplitsTheWarp := by
  intro s i w tgt
  have bdiv : exec (.bdiv i) s = commitW s true (w.divSplit tgt) := exec_bdiv ..
  have rcv : ∀ {b : Bool}, decide (w.ctl.stk.length < 32) = b → exec (.rcv i) s = commitW s true
      (need b RECONVERGENCE_OVERFLOW 0 >>= fun _ => .ok ({ w with ctl := { w.ctl with
        pc := w.ctl.pc + 4, stk := { rpc := tgt, saved := w.ctl.exec, psaved := w.ctl.path } :: w.ctl.stk } } : Warp)) := by
    rintro b rfl
    rw [exec_rcv, execRcv, Warp.rcvPush]
    cases h : decide (s.cw.ctl.stk.length < 32) <;> rfl
  refine ⟨fun h => becomes_of_ok (rcv (decide_eq_true h)) rfl,
    fun h => raises_of_error (rcv (decide_eq_false (Nat.not_lt.mpr h))) rfl,
    fun hg => becomes_of_ok bdiv (divSplit_none w tgt hg), fun hg hf hp => becomes_of_ok bdiv ?_,
    fun e rest hs hg => ⟨fun hf hp ht => becomes_of_ok bdiv (divSplit_join w tgt hg hs hf hp ht),
      fun hf ht => becomes_of_ok bdiv (divSplit_some w tgt hg hs hf ht),
      fun hp ht => raises_of_error bdiv (divSplit_second w tgt hg hs hp ht)⟩,
    fun hs hg hf => raises_of_error bdiv ((divSplit_empty w tgt hg hs).trans (if_neg hf))⟩
  cases hs : w.ctl.stk with
  | nil => exact (divSplit_empty w tgt hg hs).trans (if_pos hf)
  | cons e rest => exact divSplit_all w tgt hg hs hf (hp e (by rw [hs]; rfl))

/-- Settles O15: each branch is a commit of one warp, whose procedure of R40 the lemmas above go through case by case. -/
theorem branchesAndDivergence : Obligations.BranchesAndDivergence :=
  ⟨branchesMoveTheProgramCounter, divergenceSplitsTheWarp⟩

end Sys2Proof.Machine
end

section
/-! ## O17: traps are taken (R36, R203 to R217, R281) -/

namespace Sys2Proof.Machine

open Sys2Proof.Slice0

/-- A value listed for each key of a list is found at the key. -/
theorem look_map_key {α : Type} (f : Nat → α) {l : Nat} :
    ∀ {ls : List Nat}, l ∈ ls → FMap.look (ls.map fun l => (l, f l)) l = some (f l)
  | k :: ls, h => by
    rw [List.map_cons, FMap.look]
    by_cases hk : l = k
    · rw [if_pos hk, hk]
    · rw [if_neg hk]
      exact look_map_key f ((List.mem_cons.mp h).resolve_left hk)

section Take

variable {s : State} {t : TrapInfo} {uniform : Bool} {cont : W64}

/-- A trap that need not wait is taken by the warp's slot. -/
theorem trapNow_takes (hl : s.cw.log = []) (hf : s.cw.fdsq = []) :
    s.trapNow t uniform cont = s.takeTrap s.cur.1 s.cur.2 t uniform s.cw.active s.curWord s.cw.ctl.pc cont none := by
  unfold State.trapNow
  simp [hl, hf]

variable (h : s.cw.id.handler = false)
include h

/-- The lanes of the trap join the core's pending origins. -/
theorem takeTrap_pend (active : W64) (word : W32) (pc : W64) :
    ((s.takeTrap s.cur.1 s.cur.2 t uniform active word pc cont none).core s.cur.1).pend = (s.core s.cur.1).pend ++
      (lanesIn 64 (s.cw.trapLanes t active)).map fun l =>
        ({ cause := BitVec.ofNat 8 t.cause, origin := { lane := l, slot := s.cur.2, sgen := s.cw.gen }, tick := s.tick } :
          PendingOrigin) := by
  change (s.warp s.cur.1 s.cur.2).id.handler = false at h
  unfold State.takeTrap
  simp only [h, Bool.false_eq_true, if_false, State.core_setCore]
  rfl

theorem trapNow_cw (hl : s.cw.log = []) (hf : s.cw.fdsq = []) :
    (s.trapNow t uniform cont).cw = s.cw.trapped t uniform s.cw.active s.curWord s.cw.ctl.pc cont none s.tick := by
  have hcur : (s.trapNow t uniform cont).cur = s.cur := by rw [trapNow_eq]
  rw [State.cw, hcur, trapNow_takes hl hf]
  exact takeTrap_warp s s.cur.1 s.cur.2 t uniform s.cw.active s.curWord s.cw.ctl.pc cont none h

end Take

/-- A handler warp's trap stops its context. -/
theorem takeTrap_handler {s : State} {c k : Nat} (t : TrapInfo) (uniform : Bool) (active : W64) (word : W32) (pc cont : W64)
    (h : (s.warp c k).id.handler = true) {jb : Job} (hj : s.jobs.look (s.warp c k).id.job = some jb) (hs : jb.stop = none) :
    let x : CtxStop := { reason := 4, info := BitVec.ofNat 64 (t.cause + 2 ^ 8 * (pc.toNat / 4)) }
    s.takeTrap c k t uniform active word pc cont none =
      { s with jobs := s.jobs.ins (s.warp c k).id.job { jb with stop := some x } } := by
  unfold State.takeTrap State.stopJob
  simp only [h, if_true, hj, hs]
  rfl

theorem takingATrapHoldsTheWarp : TakingATrapHoldsTheWarp := by
  intro s cause sub uniform cont w t mask
  refine ⟨fun hw => ?_, fun hl hf hh => ?_, fun hl hf hh jb hj hs => ?_⟩
  · refine trapNow_waits _ _ _ ?_
    rcases hw with h | h <;> simp [h, w] at *
  · have hcw : t.cw = w.trapped _ _ _ _ _ _ _ _ := trapNow_cw hh hl hf
    have htake : t = s.takeTrap _ _ _ _ _ _ _ _ _ := trapNow_takes hl hf
    have hrec : ∀ l ∈ lanesIn 64 mask, t.cw.trap.recs.look l =
        some (trapRec { cause := cause, sub := sub } mask s.curWord w.ctl.pc cont false s.tick l) := fun l hl => by
      rw [hcw]
      exact look_map_key _ hl
    refine ⟨by rw [hcw]; rfl, by rw [hcw]; rfl, by rw [hcw]; rfl, by rw [hcw]; rfl, by rw [hcw]; rfl, by rw [hcw]; rfl,
      by rw [hcw]; rfl, fun l hl => ⟨_, hrec l hl, rfl, rfl, rfl, rfl, rfl, rfl, rfl, rfl⟩, by rw [hcw]; rfl, ?_,
      trapNow_eq s _ uniform cont⟩
    rw [htake]
    exact takeTrap_pend hh ..
  · exact ⟨_, (trapNow_takes hl hf).trans (takeTrap_handler _ uniform _ _ _ cont hh hj hs)⟩

theorem softwareTrapEntersTheTrap : SoftwareTrapEntersTheTrap := by
  intro s c
  refine ⟨fun ha => becomes_of_ok (exec_trap ..) (if_pos ha), fun ha => ?_⟩
  have hr : Raises s (.trap c) false 16 c.toNat := raises_of_error (exec_trap ..) (if_neg ha)
  refine ⟨hr, fun hl hf hh => ⟨_, hr, ?_⟩⟩
  rw [trapNow_cw hh hl hf]
  exact ⟨rfl, if_neg ha, rfl, BitVec.ofNat_toNat .., rfl⟩

/-- Settles O17: a trap waits for what its warp is owed, and is then `Warp.trapped` of the warp, or a handler context's stop; TRAP
raises it in the active lanes. -/
theorem trapsAreTaken : Obligations.TrapsAreTaken := ⟨takingATrapHoldsTheWarp, softwareTrapEntersTheTrap⟩

end Sys2Proof.Machine
end

section
/-! ## O19: code reads and schedule selection (R43, R220, R265, R279)

A fetch of code in the core's instruction cache, or of sound code of device memory where nothing drains, changes the cache, the
directory and the bucket alone. -/

namespace Sys2Proof.Machine

open Sys2Proof.Slice0

/-! ### The line comes from the slice -/

/-- t differs from s at most in what a request for a line of code changes. -/
def RequestFrame (s t : State) : Prop :=
  t = { s with hd := t.hd, touched := t.touched, buckets := t.buckets, short := t.short }

theorem RequestFrame.trans {s t u : State} (h : RequestFrame s t) (k : RequestFrame t u) : RequestFrame s u := by
  unfold RequestFrame at h k
  rw [h] at k
  exact k

theorem charge_request (s : State) (c n : Nat) : RequestFrame s (s.charge c n) := by
  unfold State.charge
  split
  · rfl
  · rename_i j _
    obtain ⟨b, x, h⟩ := takeTokens_frame s (dieOf c) (s.jobs.getD j {}).part n
    rw [h]
    rfl

theorem obtain_request {s : State} (hn : NoReleases s) (d line : Nat) (write : Bool) : RequestFrame s (s.obtain d line write) := by
  rw [obtain_quiet hn d line write]
  rfl

/-- A line that is not the host's stays in no L2's host part. -/
theorem l2Keep_device (s : State) (p : Nat) {line : Nat} (h : isHostPlace line = false) : s.l2Keep p line = s := by
  unfold State.l2Keep
  rw [h]
  rfl

theorem isHostPlace_lineOf (a : Nat) : isHostPlace (lineOf a) = isHostPlace a := by
  unfold isHostPlace lineOf
  rw [Bool.eq_iff_iff]
  simp only [Bool.and_eq_true, decide_eq_true_eq]
  omega

/-- t differs from s at most in what a fetch by core c changes: the lines of the core's instruction cache, and what a request for
a line changes. -/
structure FetchFrame (s : State) (c : Nat) (t : State) : Prop where
  rest : t = { s with cores := t.cores, hd := t.hd, touched := t.touched, buckets := t.buckets, short := t.short }
  others : ∀ e, e ≠ c → t.core e = s.core e
  own : ∃ ic, t.core c = { s.core c with l1 := { (s.core c).l1 with icache := ic } }

theorem FetchFrame.refl (s : State) (c : Nat) : FetchFrame s c s := ⟨rfl, fun _ _ => rfl, _, rfl⟩

theorem FetchFrame.slots {s t : State} {c : Nat} (h : FetchFrame s c t) : t.slots = s.slots := by rw [h.rest]
theorem FetchFrame.cur {s t : State} {c : Nat} (h : FetchFrame s c t) : t.cur = s.cur := by rw [h.rest]

theorem FetchFrame.cw {s t : State} {c : Nat} (h : FetchFrame s c t) : t.cw = s.cw := by
  rw [State.cw, State.warp, h.cur, h.slots]
  rfl

section Fill

variable {s : State} {c line : Nat} (hn : NoReleases s) (hh : isHostPlace line = false)
  (hl : (s.core c).l1.icache.length < icacheLines)
include hn hh hl

/-- A cache with room takes the line as its slice has it. -/
theorem fillCode_eq : ∃ t ic, RequestFrame s t ∧ s.fillCode c line =
    t.setCore c { s.core c with l1 := { (s.core c).l1 with icache := FMap.ins ic line (s.read line 128) } } := by
  have hc := charge_request s c 128
  have hn1 : NoReleases (s.charge c 128) := by
    rw [hc]
    exact hn
  have ht := hc.trans (obtain_request hn1 (dieOf c) line false)
  unfold State.fillCode
  rw [l2Keep_device _ _ hh]
  generalize (s.charge c 128).obtain (dieOf c) line false = t at ht
  have hcore : t.core c = s.core c := by rw [ht]; rfl
  have hline : t.l2Line line = s.read line 128 := by
    rw [State.l2Line, hh, ht]
    rfl
  simp only [hcore, hl, if_true, hline]
  exact ⟨t, _, ht, rfl⟩

theorem fillCode_frame : FetchFrame s c (s.fillCode c line) := by
  obtain ⟨t, ic, ht, h⟩ := fillCode_eq hn hh hl
  rw [h]
  refine ⟨by rw [ht]; rfl, fun e he => ?_, _, State.core_setCore ..⟩
  rw [State.core_setCore_ne _ _ he, ht]
  rfl

theorem fillCode_codeLine : (s.fillCode c line).codeLine c line = s.l2Line line := by
  obtain ⟨t, ic, -, h⟩ := fillCode_eq hn hh hl
  have hline : s.l2Line line = s.read line 128 := by
    rw [State.l2Line, hh]
    rfl
  rw [h, hline, State.codeLine, State.core_setCore, FMap.look_ins_self]
  rfl

end Fill

/-! ### The fetch -/

/-- Where every content that the fetch may give is the same, no free choice is used. -/
theorem pickWord_same (s : State) (v : Nat) {vs : List Nat} (h : ∀ x ∈ vs, x = v) : s.pickWord v vs = (v, s) := by
  induction vs with
  | nil => rfl
  | cons x vs ih =>
    rw [State.pickWord, if_pos (h x (List.mem_cons_self ..))]
    exact ih fun y hy => h y (List.mem_cons_of_mem _ hy)

/-- A fetch that reads v gives v. -/
theorem fetchBytes_of_fetches {s : State} {va n v : Nat} (h : Fetches s va n v) :
    ∃ t, s.fetchBytes va n = .ok (v, t) ∧ FetchFrame s s.cur.1 t := by
  obtain ⟨place, tg, bk, htr, hold, hcache, rfl⟩ := h
  unfold State.fetchBytes
  simp only [htr, hold, List.append_nil]
  rcases hcache with ⟨hhas, hfresh⟩ | ⟨hhas, hsound, hhost, hroom, hn⟩
  · refine ⟨s, ?_, .refl s _⟩
    simp only [hhas, Bool.not_true, Bool.false_and, Bool.false_eq_true, if_false, if_true, Bool.true_and]
    refine congrArg Except.ok (pickWord_same s _ fun x hx => ?_)
    cases hp : s.poisoned place n with
    | true => simp [hp] at hx
    | false =>
      rw [hp] at hx hfresh
      rw [List.mem_singleton.mp hx]
      exact hfresh.resolve_left Bool.false_ne_true
  · have hline : isHostPlace (lineOf place) = false := (isHostPlace_lineOf place).trans hhost
    refine ⟨s.fillCode s.cur.1 (lineOf place), ?_, fillCode_frame hn hline hroom⟩
    have hmiss : s.codeLine s.cur.1 (lineOf place) = s.l2Line (lineOf place) := by
      rw [State.codeLine, look_of_has hhas]
      rfl
    simp only [hhas, hsound, Bool.and_false, Bool.false_eq_true, if_false, Bool.false_and, State.pickWord,
      fillCode_codeLine hn hline hroom, codeAt, hmiss]

/-! ### Literal loads -/

/-- The alignment trap of an address, which is its first detail in every lane. -/
def misalignedAt (q : W64) : TrapInfo :=
  { cause := ALIGNMENT, sub := 0, det := (List.range 64).map fun l => (l, (q, 0, 0)) }

section Literal

variable {s : State} {uniform : Bool} {disp : BitVec 18} {n x : Nat} {checks : Warp → Res Unit} {put : Warp → Nat → Warp}

/-- A literal load whose checks hold and whose fetch reads x retires its warp as `put` makes it. -/
theorem literal_done {i : Instr} (hi : exec i s = literal uniform disp n checks put s) (hc : checks s.cw = .ok ())
    (ha : (s.cw.ctl.pc + dispL disp).toNat % n = 0) (hf : Fetches s (s.cw.ctl.pc + dispL disp).toNat n x) :
    LiteralDone s i fun w => put w x := by
  obtain ⟨u, hu, hframe⟩ := fetchBytes_of_fetches hf
  have hcw := hframe.cw
  refine ⟨(u.setCw (put u.cw x).advance).retire (u.setCw (put u.cw x).advance).cw, ?_, ?_, ?_, fun key hk => ?_, fun c hc => ?_, ?_⟩
  · rw [hi, literal]
    simp only [hc, needDet, ha, beq_self_eq_true, if_true, hu]
    rfl
  · rw [retire_cw, State.cw_setCw, hcw]
  · rw [retire_eq]
    generalize (State.retire _ _).jobs = jobs
    rw [hframe.rest]
    rfl
  · rw [retire_look_ne _ _ (by rw [State.setCw_cur, hframe.cur]; exact hk), State.setCw_slots, hframe.cur,
      FMap.look_ins_ne _ _ hk, hframe.slots]
  · rw [State.core, retire_cores]
    exact hframe.others c hc
  · obtain ⟨ic, hic⟩ := hframe.own
    refine ⟨ic, ?_⟩
    rw [State.core, retire_cores]
    exact hic

/-- A literal load at an address that is no multiple of its width raises the alignment trap with the address (R265). -/
theorem literal_misaligned (hc : checks s.cw = .ok ()) (ha : (s.cw.ctl.pc + dispL disp).toNat % n ≠ 0) :
    literal uniform disp n checks put s = .next (s.trapNow (misalignedAt (s.cw.ctl.pc + dispL disp)) uniform (s.cw.ctl.pc + 4)) := by
  have hq : ((s.cw.ctl.pc + dispL disp).toNat % n == 0) = false := beq_eq_false_iff_ne.mpr ha
  unfold literal
  simp only [hc, hq, needDet]
  rfl

end Literal

theorem literalLoadsReadTheCode : LiteralLoadsReadTheCode := by
  intro s d v i x w q
  refine ⟨fun ha hf => ⟨literal_done (exec_ldl ..) rfl ha hf, fun hv => literal_done (exec_ldlv ..) ?_ ha hf⟩,
    fun ha hf => literal_done (exec_ldlq ..) rfl ha hf,
    fun ha => ⟨misalignedAt q, rfl, rfl, (exec_ldlq ..).trans (literal_misaligned rfl ha)⟩⟩
  simp [Warp.has, hv, w]

/-! ### Schedule selection (R43) -/

/-- One class against the best so far. -/
def betterClass (size : Nat) (best : Option (Nat × Nat)) (c : Nat × Nat) : Option (Nat × Nat) :=
  if c.1 < size then best
  else match best with
    | none => some c
    | some b => if c.1 < b.1 then some c else best

theorem chooseClass_eq (size : Nat) (cs : List (Nat × Nat)) : chooseClass size cs = cs.foldl (betterClass size) none := rfl

section Classes

variable {size : Nat} {c : Nat × Nat} {xs : List (Nat × Nat)}

theorem betterClass_small (best : Option (Nat × Nat)) (h : c.1 < size) : betterClass size best c = best := if_pos h

/-- A class that fits beats a best one with a larger maximum. -/
theorem betterClass_wins {best : Option (Nat × Nat)} (h : size ≤ c.1) (hb : ∀ b ∈ best, c.1 < b.1) :
    betterClass size best c = some c := by
  refine (if_neg (Nat.not_lt.mpr h)).trans ?_
  cases best with
  | none => rfl
  | some b => exact if_pos (hb b rfl)

/-- Classes that are small or no smaller than the best leave it. -/
theorem foldl_betterClass_keeps (h : ∀ x ∈ xs, size ≤ x.1 → c.1 ≤ x.1) : xs.foldl (betterClass size) (some c) = some c := by
  induction xs with
  | nil => rfl
  | cons x xs ih =>
    obtain ⟨hx, hxs⟩ := List.forall_mem_cons.mp h
    have hstep : betterClass size (some c) x = some c := by
      by_cases hs : x.1 < size
      · exact betterClass_small _ hs
      · exact (if_neg hs).trans (if_neg (Nat.not_lt.mpr (hx (Nat.not_lt.mp hs))))
    rw [List.foldl_cons, hstep]
    exact ih hxs

/-- The best of classes that fit only with larger maxima has a larger maximum. -/
theorem foldl_betterClass_above (h : ∀ x ∈ xs, size ≤ x.1 → c.1 < x.1) :
    ∀ {best : Option (Nat × Nat)}, (∀ b ∈ best, c.1 < b.1) → ∀ b ∈ xs.foldl (betterClass size) best, c.1 < b.1 := by
  induction xs with
  | nil => exact fun hb => hb
  | cons x xs ih =>
    obtain ⟨hx, hxs⟩ := List.forall_mem_cons.mp h
    intro best hb
    refine ih hxs fun b hmem => ?_
    unfold betterClass at hmem
    split at hmem
    · exact hb b hmem
    · rename_i hs
      have hxc := hx (Nat.not_lt.mp hs)
      split at hmem
      · cases hmem
        exact hxc
      · split at hmem
        · cases hmem
          exact hxc
        · exact hb b hmem

theorem foldl_betterClass_small (h : ∀ x ∈ xs, x.1 < size) (best : Option (Nat × Nat)) : xs.foldl (betterClass size) best = best := by
  induction xs with
  | nil => rfl
  | cons x xs ih =>
    obtain ⟨hx, hxs⟩ := List.forall_mem_cons.mp h
    rw [List.foldl_cons, betterClass_small _ hx, ih hxs]

end Classes

theorem chooseClass_first {size : Nat} {pre post : List (Nat × Nat)} {c : Nat × Nat} (hc : size ≤ c.1)
    (hpre : ∀ x ∈ pre, size ≤ x.1 → c.1 < x.1) (hpost : ∀ x ∈ post, size ≤ x.1 → c.1 ≤ x.1) :
    chooseClass size (pre ++ c :: post) = some c := by
  rw [chooseClass_eq, List.foldl_append, List.foldl_cons,
    betterClass_wins hc (foldl_betterClass_above hpre (best := none) nofun), foldl_betterClass_keeps hpost]

theorem scheduleSelectionPicksTheClass : ScheduleSelectionPicksTheClass := by
  intro s a w jb size
  refine ⟨fun pre c post hs hc hpre hpost => becomes_of_ok (exec_sels ..) ?_, fun h => raises_of_error (exec_sels ..) ?_⟩
  · have hcls : chooseClass size jb.sched = some c := by rw [hs]; exact chooseClass_first hc hpre hpost
    simp only [size, jb, w] at hcls
    rw [hcls]
  · have hcls : chooseClass size jb.sched = none := foldl_betterClass_small h none
    simp only [size, jb, w] at hcls
    rw [hcls]

/-- Settles O19: a literal load is a fetch and a commit of one warp; SELS folds over its job's classes. -/
theorem codeReadsAndScheduleSelection : Obligations.CodeReadsAndScheduleSelection :=
  ⟨literalLoadsReadTheCode, scheduleSelectionPicksTheClass⟩

end Sys2Proof.Machine
end

section
/-! ## O57: a step runs the decoded instruction (R35 to R37, R40, R123, R124, R148, R220, R231, R236, R265, R345) -/

namespace Sys2Proof.Machine

open Sys2Proof.Slice0

/-! ### The fetched word -/

/-- The word that a warp has fetched does not matter to what keeps its next instruction back. -/
theorem blocks_word (w : Warp) (x : W32) (word : Nat) (i : Instr) : ({ w with word := x } : Warp).blocks word i = w.blocks word i :=
  rfl

theorem afterFetch_cw {s u : State} {v : Nat} (h : AfterFetch s u v) : u.cw = { s.cw with word := BitVec.ofNat 32 v } := h.2.1

/-- A fetch that reads v leads to the issue of the word v. -/
theorem fetchIssue_of_fetches {u : State} {v : Nat} (h : Fetches u u.cw.ctl.pc.toNat 4 v) :
    ∃ t : State, u.fetchIssue = t.issueWord v ∧ AfterFetch u (t.withWord v) v := by
  obtain ⟨t, ht, hf⟩ := fetchBytes_of_fetches h
  have hcw : (t.withWord v).cw = { u.cw with word := BitVec.ofNat 32 v } := by
    rw [State.withWord, State.cw_setCw]
    exact congrArg (fun w : Warp => { w with word := BitVec.ofNat 32 v }) hf.cw
  refine ⟨t, ?_, ⟨?_, hcw, fun key hk => ?_, hf.others, hf.own⟩⟩
  · rw [State.fetchIssue, ht]
  · rw [hf.rest]
    rfl
  · rw [State.withWord, State.setCw_slots]
    dsimp only
    rw [hf.cur, FMap.look_ins_ne _ _ hk, hf.slots]

section Word

variable {t : State} {v : Nat}

theorem issueWord_bad {r : Reject} (hd : decodeWord v = .bad r) :
    t.issueWord v = some (.next ((t.withWord v).illegalWord r)) := by
  simp only [State.issueWord, hd]

variable {i : Instr} (hd : decodeWord v = .ok i) (hcap : (t.withWord v).cw.cap = none)
include hd hcap

theorem issueWord_blocked (hb : (t.withWord v).cw.blocks v i = true) : t.issueWord v = none := by
  simp only [State.issueWord, hd, hcap, hb, if_true]

theorem issueWord_runs (hb : (t.withWord v).cw.blocks v i = false) : t.issueWord v = some ((t.withWord v).execWith i) := by
  simp only [State.issueWord, hd, hcap, hb, Bool.false_eq_true, if_false]

end Word

/-- Outside a capsule a word that is no instruction traps in the active lanes. -/
theorem illegalWord_eq {x : State} (r : Reject) (hcap : x.cw.cap = none) :
    x.illegalWord r = x.trapNow { cause := ILLEGAL, sub := r.sub.toNat } true (x.cw.ctl.pc + 4) := by
  simp only [State.illegalWord, hcap]
  rfl

/-- An instruction whose decode check fails runs as its meaning says, whatever it reads. -/
theorem execWith_decodeTrap {x : State} {i : Instr} (h : (x.decodeSub i).isSome = true) : x.execWith i = exec i x := by
  simp only [State.execWith, h, Bool.or_true, if_true]

/-- An instruction that reads an uncorrectable element stops the context. -/
theorem execWith_poison {x : State} {i : Instr} {key : Nat} (h : x.decodeSub i = none)
    (hk : (Instr.elemsRead x.cw i).find? x.cw.bad.has = some key) : x.execWith i = .next (x.poisonNow (2 ^ 61 + key)) := by
  have hbad : x.cw.bad.isEmpty = false := by
    have hhas := List.find?_some hk
    cases hb : x.cw.bad with
    | nil =>
      rw [hb] at hhas
      exact absurd hhas Bool.false_ne_true
    | cons p m => rfl
  simp only [State.execWith, hbad, h, hk]
  rfl

/-! ### The issue of the current warp -/

section Current

variable {s : State}

theorem issueCur_dead (h : (s.setCw s.cw.reconverge).cw.fetchDead.isSome = true) :
    s.issueCur = some (.next (s.setCw s.cw.reconverge).fetchStop) := by
  unfold State.issueCur
  dsimp only
  split
  · rfl
  · rename_i hd
    rw [hd] at h
    exact absurd h Bool.false_ne_true

theorem issueCur_fetches (hd : (s.setCw s.cw.reconverge).cw.fetchDead = none) (hc : (s.setCw s.cw.reconverge).cw.cap = none) :
    s.issueCur = (s.setCw s.cw.reconverge).fetchIssue := by
  unfold State.issueCur
  simp only [hd, hc]

theorem fetchStop_short (s : State) : s.fetchStop.short = s.short := by
  unfold State.fetchStop
  dsimp only
  rw [stopJob_eq]
  rfl

theorem trapNow_short (t : TrapInfo) (u : Bool) (cont : W64) : (s.trapNow t u cont).short = s.short := by
  rw [trapNow_eq]

theorem poisonNow_short (place : Nat) : (s.poisonNow place).short = s.short := by
  rw [State.poisonNow, poisonJob_eq]

end Current

/-! ### A turn of a warp -/

section Turn

variable {s : State} {ts : List Turn} {c : CoreId} {k : SlotNo} (hon : s.hm.power = .on) (ht : s.turns = .issue c k :: ts)
include hon ht

theorem step_not_chosen (h : ({ s with turns := ts } : State).chosen c.val k.val = false) :
    step s = .next ({ s with turns := ts } : State).finishStep := by
  rw [step_turn hon ht, State.takeTurn]
  simp only [h]
  rfl

theorem step_not_granted (h : ({ s with turns := ts } : State).chosen c.val k.val = true)
    (hg : ({ s with turns := ts } : State).granted c.val k.val = false) :
    step s = .next (({ s with turns := ts } : State).notGranted c.val k.val).finishStep := by
  rw [step_turn hon ht, State.takeTurn]
  simp only [h, hg]
  rfl

variable (hm : ({ s with turns := ts } : State).mayIssue c.val k.val = true)
include hm

/-- The turn of a warp that may issue is its slot's issue. -/
theorem step_issueSlot : step s = match ({ s with turns := ts } : State).issueSlot c.val k.val with
    | some (.next t) => .next (({ s with turns := ts } : State).othersWait t c.val k.val).finishStep
    | some x => x
    | none => .next ({ s with turns := ts } : State).finishStep := by
  obtain ⟨hch, hg⟩ := Bool.and_eq_true_iff.mp hm
  rw [step_turn hon ht, State.takeTurn]
  simp only [hch, hg, if_true]
  rfl

theorem step_not_ready (h : ({ s with turns := ts } : State).warpReady c.val k.val = false) :
    step s = .next ({ s with turns := ts } : State).finishStep := by
  rw [step_issueSlot hon ht hm, issueSlot_none h]

variable (hr : ({ s with turns := ts } : State).warpReady c.val k.val = true)
include hr

theorem step_issues {t : State} (h : ({ s with turns := ts, cur := (c.val, k.val) } : State).issueCur = some (.next t))
    (hs : t.short = false) : step s = .next (({ s with turns := ts } : State).othersWait t c.val k.val).finishStep := by
  rw [step_issueSlot hon ht hm, State.issueSlot, if_pos hr]
  simp only [h, hs]
  rfl

theorem step_short {t : State} (h : ({ s with turns := ts, cur := (c.val, k.val) } : State).issueCur = some (.next t))
    (hs : t.short = true) : step s = .next ({ s with turns := ts } : State).finishStep := by
  rw [step_issueSlot hon ht hm, State.issueSlot, if_pos hr]
  simp only [h, hs]
  rfl

theorem step_kept_back (h : ({ s with turns := ts, cur := (c.val, k.val) } : State).issueCur = none) :
    step s = .next ({ s with turns := ts } : State).finishStep := by
  rw [step_issueSlot hon ht hm, State.issueSlot, if_pos hr]
  simp only [h]

theorem step_refused {r : Refusal} (h : ({ s with turns := ts, cur := (c.val, k.val) } : State).issueCur = some (.refused r)) :
    step s = .refused r := by
  rw [step_issueSlot hon ht hm, State.issueSlot, if_pos hr]
  simp only [h]

theorem step_fault {f : Fault} (h : ({ s with turns := ts, cur := (c.val, k.val) } : State).issueCur = some (.fault f)) :
    step s = .fault f := by
  rw [step_issueSlot hon ht hm, State.issueSlot, if_pos hr]
  simp only [h]

/-- A warp whose code cannot be fetched stops its context. -/
theorem step_fetchDead (h : (issuing s ts c.val k.val).cw.fetchDead.isSome = true) (hs : s.short = false) :
    step s = .next (({ s with turns := ts } : State).othersWait (issuing s ts c.val k.val).fetchStop c.val k.val).finishStep :=
  step_issues hon ht hm hr (issueCur_dead h) ((fetchStop_short _).trans hs)

section Fetched

variable {v : Nat} (hdead : (issuing s ts c.val k.val).cw.fetchDead = none) (hcap : (issuing s ts c.val k.val).cw.cap = none)
  (hf : Fetches (issuing s ts c.val k.val) (issuing s ts c.val k.val).cw.ctl.pc.toNat 4 v)
include hdead hcap hf

omit hon ht hm hr in
/-- The warp that issues has fetched the word at its program counter. -/
theorem issueCur_word : ∃ y : State, ({ s with turns := ts, cur := (c.val, k.val) } : State).issueCur = y.issueWord v ∧
    AfterFetch (issuing s ts c.val k.val) (y.withWord v) v ∧ (y.withWord v).cw.cap = none ∧
    ∀ i, (y.withWord v).cw.blocks v i = (issuing s ts c.val k.val).cw.blocks v i := by
  obtain ⟨y, hy, hx⟩ := fetchIssue_of_fetches hf
  have hcw := afterFetch_cw hx
  refine ⟨y, (issueCur_fetches hdead hcap).trans hy, hx, by rw [hcw]; exact hcap, fun i => by rw [hcw, blocks_word]⟩

/-- A word that is no instruction traps. -/
theorem step_bad_word {r : Reject} (hd : decodeWord v = .bad r) : ∃ x, AfterFetch (issuing s ts c.val k.val) x v ∧
    (x.short = false → step s = .next (({ s with turns := ts } : State).othersWait
      (x.trapNow { cause := ILLEGAL, sub := r.sub.toNat } true ((issuing s ts c.val k.val).cw.ctl.pc + 4)) c.val k.val).finishStep) := by
  obtain ⟨y, hy, hx, hxcap, -⟩ := issueCur_word hdead hcap hf
  have hpc : (y.withWord v).cw.ctl = (issuing s ts c.val k.val).cw.ctl := by rw [afterFetch_cw hx]
  refine ⟨y.withWord v, hx, fun hshort => ?_⟩
  rw [issueWord_bad hd, illegalWord_eq r hxcap, hpc] at hy
  exact step_issues hon ht hm hr hy ((trapNow_short ..).trans hshort)

variable {i : Instr} (hd : decodeWord v = .ok i)
include hd

theorem step_blocked (hb : (issuing s ts c.val k.val).cw.blocks v i = true) :
    step s = .next ({ s with turns := ts } : State).finishStep := by
  obtain ⟨y, hy, -, hxcap, hblocks⟩ := issueCur_word hdead hcap hf
  exact step_kept_back hon ht hm hr (hy.trans (issueWord_blocked hd hxcap ((hblocks i).trans hb)))

omit hon ht hm hr in
/-- The decoded instruction runs in the state after the fetch. -/
theorem issueCur_execWith (hb : (issuing s ts c.val k.val).cw.blocks v i = false) : ∃ x, AfterFetch (issuing s ts c.val k.val) x v ∧
    ({ s with turns := ts, cur := (c.val, k.val) } : State).issueCur = some (x.execWith i) := by
  obtain ⟨y, hy, hx, hxcap, hblocks⟩ := issueCur_word hdead hcap hf
  exact ⟨y.withWord v, hx, hy.trans (issueWord_runs hd hxcap ((hblocks i).trans hb))⟩

end Fetched

end Turn

/-! ### The other turns -/

section Others

variable {s : State} {ts : List Turn} (hon : s.hm.power = .on)
include hon

theorem step_event {i : Instr} (ht : s.turns = .event i :: ts) (hi : Instr.isEvent i = true) :
    (∀ t, exec i { s with turns := ts } = .next t → t.short = false → step s = .next t.finishStep) ∧
    (∀ r, exec i { s with turns := ts } = .refused r → step s = .refused r) ∧
    (∀ f, exec i { s with turns := ts } = .fault f → step s = .fault f) := by
  rw [step_turn hon ht]
  refine ⟨fun t h hs => takeTurn_event hi h hs, fun r h => ?_, fun f h => ?_⟩
  all_goals simp only [State.takeTurn, hi, State.takeEvent, h, if_true]

theorem step_far {c : CoreId} {n : Nat} {q : FarStore} (ht : s.turns = .far c n :: ts) (hq : (s.core c.val).far[n]? = some q) :
    step s = .next ((({ s with turns := ts } : State).setCore c.val
      { s.core c.val with far := (s.core c.val).far.eraseIdx n }).write q.place q.bytes).finishStep := by
  have hcore : ({ s with turns := ts } : State).core c.val = s.core c.val := rfl
  rw [step_turn hon ht]
  simp only [State.takeTurn, State.takeFar, hcore, hq]
  rfl

theorem step_copy {p : PartId} {q : QueueNo} {x : CopyOp} {t : State} (ht : s.turns = .copy p q :: ts)
    (hx : ({ s with turns := ts } : State).copyOf p.val q.val = some x) (hp : x.pos + 4096 < x.len)
    (hc : ({ s with turns := ts } : State).copyChunk x = some t) (hs : t.short = false) : step s = .next t.finishStep := by
  rw [step_turn hon ht]
  simp only [State.takeTurn, State.takeCopy, hx, hp, if_true, hc, hs]
  rfl

theorem step_upset {e : Upset} {t : State} (ht : s.turns = .upset e :: ts) (hu : ({ s with turns := ts } : State).upset e = some t) :
    step s = .next t.finishStep := by
  rw [step_turn hon ht]
  simp only [State.takeTurn, State.takeUpset, hu]
  rfl

end Others

/-- Settles O57: the turn of a warp is its slot's issue, which is reconvergence, the fetch, and the decoded instruction; every other
turn is its own action. -/
theorem stepRunsTheDecodedInstruction : Obligations.StepRunsTheDecodedInstruction := by
  unfold Obligations.StepRunsTheDecodedInstruction
  intro s ts hon s'
  refine ⟨fun c k v ht => ⟨step_not_chosen hon ht, step_not_granted hon ht, step_not_ready hon ht, fun hm hr => ?_⟩,
    fun i ht hi => step_event hon ht hi, fun c n q ht hq => step_far hon ht hq,
    fun p q x t ht hx hp hc hs => step_copy hon ht hx hp hc hs, fun e t ht hu => step_upset hon ht hu⟩
  refine ⟨step_fetchDead hon ht hm hr, fun hdead hcap hbad hf =>
    ⟨fun i hd => ⟨step_blocked hon ht hm hr hdead hcap hf hd, fun hb => ?_⟩,
    fun r hd => step_bad_word hon ht hm hr hdead hcap hf hd⟩, fun hdead hcap hf i hd hb => ?_⟩
  · obtain ⟨x, hx, hrun⟩ := issueCur_execWith hdead hcap hf hd hb
    rw [execWith_sound i (by rw [afterFetch_cw hx]; exact hbad)] at hrun
    refine ⟨x, hx, fun t h hs => step_issues hon ht hm hr (by rw [hrun, h]) hs,
      fun t h hs => step_short hon ht hm hr (by rw [hrun, h]) hs,
      fun r h => step_refused hon ht hm hr (by rw [hrun, h]), fun f h => step_fault hon ht hm hr (by rw [hrun, h])⟩
  · obtain ⟨x, hx, hrun⟩ := issueCur_execWith hdead hcap hf hd hb
    refine ⟨x, hx, fun key hsub hk hs => ?_, fun t hsub h hs => ?_⟩
    · rw [execWith_poison hsub hk] at hrun
      exact step_issues hon ht hm hr hrun ((poisonNow_short _).trans hs)
    · rw [execWith_decodeTrap hsub, h] at hrun
      exact step_issues hon ht hm hr hrun hs

end Sys2Proof.Machine
end

section
/-! ## O58: the state after reset (R25, R384, R405, R409, R411, R413, R420, R427, R432, R434) -/

namespace Sys2Proof.Machine

/-- A map that lists nothing reads as zeroes. -/
theorem readN_nil (n : Nat) : ∀ a, readN [] a n = List.replicate n 0 := by
  induction n with
  | zero => exact fun _ => rfl
  | succ n ih => exact fun a => congrArg (List.cons 0) (ih (a + 1))

/-- Settles O58: every table of the state after reset is empty, so that what is looked up has its default value. -/
theorem resetLeavesTheFirstStage : Obligations.ResetLeavesTheFirstStage := by
  unfold Obligations.ResetLeavesTheFirstStage
  exact ⟨rfl, rfl, rfl, rfl, rfl, rfl, rfl, rfl, reset_memoryOk, fun _ _ => rfl, fun _ => ⟨rfl, rfl⟩,
    fun _ => ⟨rfl, rfl, rfl, fun _ => rfl⟩, fun a n => readN_nil n a, fun _ => rfl⟩

end Sys2Proof.Machine
end

section
/-! ## O33: the end of warps and tasks (R40, R217, R280) -/

namespace Sys2Proof.Machine

open Sys2Proof.Slice0

/-! ### A handler warp that its own origin's end wakes

`State.slots` is a list of keyed entries, and nothing in O33 says that a key stands in it once. Where the key of a sleeping
handler warp stands in it a second time, shadowed, as a warp of the scope of a team barrier, a phase of that barrier reaches
the handler warp and wakes it: EXIT in that warp kills its origin, whose departure completes the phase. -/

/-- The HELD warp in slot 0: the only member of team barrier 0. -/
def exitOrigin : Warp := { st := .held, ctl := { live := 1 }, trap := { mask := 1 } }

/-- The handler warp in slot 64: lane 0 serves the warp in slot 0; lane 1 is live as well. It sleeps on team barrier 0. -/
def exitHandler : Warp :=
  { st := .asleep
    wait := .barrier (.team 0 0) false true false
    id := { handler := true }
    ctl := { exec := 3, live := 3, path := 3, reexec := some 1 }
    origins := FMap.ins [] 0 { lane := 0, slot := 0, sgen := 0 } }

/-- Both, with a second, shadowed entry of slot 64, and the barrier. -/
def exitState : State :=
  { cur := (0, 64)
    slots := [(0, exitOrigin), (64, exitHandler), (64, { st := .active })]
    cores := [(0, { bars := [(0, { memb := 1, exp := 1 })] })] }

theorem exitState_cw : exitState.cw = exitHandler := by decide +kernel

theorem exitState_originsElsewhere : OriginsElsewhere exitState := by
  intro l o ho
  rw [exitState_cw] at ho
  have hlook : exitHandler.origins.look l = if l = 0 then some {} else none := by
    simp only [exitHandler, FMap.look_ins, FMap.look_nil]
  obtain ⟨-, ho⟩ := Option.ite_none_right_eq_some.mp (hlook.symm.trans ho)
  obtain rfl := Option.some.inj ho
  decide

/-- Lane 1 stays live, and in the execution mask. -/
theorem exitHandler_goesOn : ¬ ExitEnds exitHandler := by
  have hlive : liveAfter exitHandler ≠ 0 := by decide
  have hexec : execAfter exitHandler ≠ 0 := by decide
  exact fun h => h.elim hlive fun e => hexec e.1

/-- EXIT goes on to a state in which the handler warp is awake. -/
theorem execExit_exitState_st :
    (match execExit exitState with | .next t => t.cw.st | _ => .asleep) = SlotState.active := by
  decide +kernel

/-- Refutes O33: EXIT need not leave the state of a handler warp that goes on as it was. In `exitState` the handler warp
sleeps on a team barrier; the end of its origin, the barrier's last member, completes a phase that wakes it. -/
theorem not_warpsAndTasksEnd : ¬ Obligations.WarpsAndTasksEnd := by
  unfold Obligations.WarpsAndTasksEnd ExitRetiresLanes
  rintro ⟨hexit, -⟩
  obtain ⟨hgo, -⟩ := hexit exitState fun _ => exitState_originsElsewhere
  rw [exitState_cw] at hgo
  obtain ⟨t, ht, -, -, -, -, -, hst, -⟩ := hgo exitHandler_goesOn
  rw [exec_exit] at ht
  have hawake := execExit_exitState_st
  rw [ht] at hawake
  exact absurd (hst.symm.trans hawake) (by decide)

end Sys2Proof.Machine
end

section
/-! ## O38: logged instructions complete (R36, R137, R203, R219, R222, R301) -/

namespace Sys2Proof.Machine

open Sys2Proof.Slice0

/-! ### A load leaves its warp awake (R290) -/

/-- What plain reads leave as it was: the warps, and which of them issues. -/
def WarpsKept (s t : State) : Prop := t.slots = s.slots ∧ t.cur = s.cur

theorem WarpsKept.refl (s : State) : WarpsKept s s := ⟨rfl, rfl⟩

theorem WarpsKept.trans {s t u : State} (h : WarpsKept s t) (k : WarpsKept t u) : WarpsKept s u :=
  ⟨k.1.trans h.1, k.2.trans h.2⟩

theorem WarpsKept.of_slice {s t : State} (h : SliceFrame s t) : WarpsKept s t := ⟨h.slots, by rw [h.rest]⟩

theorem l1Drop_frame (s : State) (c line : Nat) : SliceFrame s (s.l1Drop c line) :=
  (writeBackN_frame _ s c _).trans (setL1_frame _ c _)

theorem l1Room_frame (s : State) (c line : Nat) : SliceFrame s (s.l1Room c line) := by
  unfold State.l1Room
  dsimp only
  split
  · exact .refl s
  split
  · exact .refl s
  split
  · exact .refl s
  · exact (SliceFrame.upd ..).trans (l1Drop_frame _ c _)

theorem l1Fill_frame (s : State) (c line : Nat) : SliceFrame s (s.l1Fill c line) :=
  (l1Room_frame s c line).trans (setL1_frame _ c _)

theorem l1Read_frame (s : State) (c a n : Nat) (noalloc : Bool) : SliceFrame s (s.l1Read c a n noalloc).2 := by
  unfold State.l1Read
  dsimp only
  split
  · exact .refl s
  · have h := ((charge_frame s c n).trans (obtain_frame _ (dieOf c) (lineOf a) false)).trans
      (l2Keep_frame _ (s.corePart c) (lineOf a))
    split
    · exact h
    · exact h.trans (l1Fill_frame _ c _)

theorem farAt_warps (s : State) (c a n : Nat) : WarpsKept s (s.farAt c a n) := by
  unfold State.farAt State.farFlush
  dsimp only
  split
  · exact .refl s
  · refine WarpsKept.trans ?_ (.of_slice (SliceFrame.foldl (fun u (q : FarStore) => write_frame u q.place q.bytes) _ _))
    exact ⟨rfl, rfl⟩

theorem chargeAt_warps (s : State) (c a n : Nat) : WarpsKept s (s.chargeAt c a n) := by
  unfold State.chargeAt
  split
  · exact .refl s
  · exact .of_slice (charge_frame s c n)

theorem plainRead_warps (s : State) (c : Nat) (noalloc : Bool) (p : Nat × Nat) : WarpsKept s (s.plainRead c noalloc p).2 := by
  unfold State.plainRead
  dsimp only
  split
  · split
    · split <;> exact .refl s
    · exact .of_slice (l1Read_frame s c _ _ noalloc)
  · exact (farAt_warps s c _ _).trans (chargeAt_warps _ c _ _)

theorem plainReads_warps (s : State) (c : Nat) (noalloc : Bool) (segs : Segs) : WarpsKept s (s.plainReads c noalloc segs).2 :=
  List.foldlRecOn segs _ (motive := fun acc : List Byte × State => WarpsKept s acc.2) (.refl s)
    fun acc h p _ => h.trans (plainRead_warps acc.2 c noalloc p)

theorem readLanes_warps {rd : State → Segs → List Byte × State} (hr : ∀ u g, WarpsKept u (rd u g).2) :
    ∀ (zs : List (Nat × Located)) (s : State), WarpsKept s (s.readLanes rd zs).2
  | [], s => .refl s
  | p :: ps, s => (hr s p.2.segs).trans (readLanes_warps hr ps _)

theorem putLoad_st (w : Warp) (fn d l v : Nat) : (w.putLoad fn d l v).st = w.st := by
  unfold Warp.putLoad
  split
  · rfl
  · rfl
  · exact List.foldlRecOn _ _ (motive := fun u : Warp => u.st = w.st) rfl fun u h p _ => h

/-- The loaded values reach the registers of a warp, whose state stays. -/
theorem putLoads_st (as : List (Nat × Option Nat)) (w : Warp) (fn d : Nat) (v : Nat → Nat) :
    (as.foldl (fun w p => w.putLoad fn d p.1 (v p.1)) w).st = w.st :=
  List.foldlRecOn as _ (motive := fun u : Warp => u.st = w.st) rfl fun u h p _ => (putLoad_st u fn d p.1 _).trans h

/-- No line of the lanes belongs to an engine (R122). -/
theorem unowned_ok {s : State} {zs : List (Nat × Located)} (h : ∀ p ∈ zs, ∀ q ∈ p.2.segs, s.owned.has (lineOf q.1) = false) :
    s.unowned zs = .ok () := by
  refine if_neg fun hany => ?_
  obtain ⟨p, hpz, hp⟩ := List.any_eq_true.mp hany
  obtain ⟨q, hqs, hq⟩ := List.any_eq_true.mp hp
  exact Bool.false_ne_true ((h p hpz q hqs).symm.trans hq)

/-- A load whose lanes are placed, owned by no engine and not poisoned is performed, and its warp's state stays (R290). -/
theorem performLoad_ok {s : State} {fn d : Nat} {x : VReg} {b : BReg} {as : List (Nat × Option Nat)} {zs : List (Nat × Located)}
    (hp : Placed s b x (loadSize fn) .read false as zs) (hc : Clean s zs) :
    ∃ t, performLoad fn d x.val b.val s.ctx s = .ok t ∧ t.cw.st = s.cw.st := by
  obtain ⟨has, hzs, hown⟩ := hp
  let vs := s.readLanes (fun u g => u.plainReads s.cur.1 (recNoalloc (s.cw.regs.rdB b.val)) g) zs
  obtain ⟨hslots, hcur⟩ : WarpsKept s vs.2 := readLanes_warps (fun u g => plainReads_warps u s.cur.1 _ g) zs s
  have hcw : vs.2.warpOf s.ctx = s.cw := by
    show vs.2.slots.getD _ {} = _
    rw [hslots]
    rfl
  refine ⟨vs.2.updWarp s.ctx fun w => as.foldl (fun w p => w.putLoad fn d p.1 (laneVal vs.1 p.1)) w, ?_, ?_⟩
  · unfold performLoad
    rw [has]
    show (s.locateAll s.ctx (s.cw.regs.rdB b.val) .read (loadSize fn) (okLanes as) >>= _) = _
    rw [hzs]
    show (s.unowned zs >>= fun _ => s.unpoisoned s.cur.1 zs >>= _) = _
    rw [unowned_ok hown, show s.unpoisoned s.cur.1 zs = .ok () from hc]
    rfl
  · have h : (vs.2.updWarp s.ctx fun w => as.foldl (fun w p => w.putLoad fn d p.1 (laneVal vs.1 p.1)) w).cw =
        as.foldl (fun w p => w.putLoad fn d p.1 (laneVal vs.1 p.1)) (vs.2.warpOf s.ctx) := by
      rw [State.cw, State.updWarp, show (State.setWarp _ _ _ _).cur = s.cur from hcur]
      exact State.warp_setWarp ..
    rw [h, hcw, putLoads_st]

theorem dataChecks_ok {w : Warp} {d x : VReg} {n : Nat} (h : DataReady w d x n) : dataChecks d.val x.val n w = .ok () := by
  obtain ⟨hd, hal, hx⟩ := h
  have hin : w.has (regsOf d.val n ++ [x.val]) = .ok () := by
    refine if_pos (List.all_eq_true.mpr fun v hv => decide_eq_true ?_)
    rcases List.mem_append.mp hv with hv | hv
    · obtain ⟨i, hi, rfl⟩ := List.mem_map.mp hv
      have := List.mem_range.mp hi
      omega
    · rwa [List.mem_singleton.mp hv]
  have heven : aligned ((n + 3) / 4) [d.val] = .ok () := if_pos (by simp [hal])
  rw [dataChecks, hin]
  exact heven

/-! ### A load that is performed late (R137) -/

/-- A load that can be performed, and that the agenda has performed late in its window, enters the log (R137, R219). -/
theorem loadOp_late {s t : State} {fn : Fin 7} {d x : VReg} {b : BReg} {la : La}
    (hd : DataReady s.cw d x (loadSize fn.val)) (hroom : LogRoom s (.load fn d x b)) (hla : la.val ≠ 0)
    (hlate : s.late.headD false = true) (hrun : performLoad fn.val d.val x.val b.val s.ctx s = .ok t)
    (hst : t.cw.st = s.cw.st) :
    loadOp fn d x b la s = .next (({ s with late := s.late.tail } : State).enterLog (.load fn d x b) la.val []) := by
  obtain ⟨hawake, hlog⟩ := hroom
  have hhas : s.hasRoom (.load fn d x b) = true := decide_eq_true hlog
  have htake : s.takeLate = (true, { s with late := s.late.tail }) := by
    unfold State.takeLate
    cases hl : s.late with
    | nil => rw [hl] at hlate; exact absurd hlate (by decide)
    | cons y ys => rw [hl] at hlate; rw [show y = true from hlate]; rfl
  have hlag : ((LongOp.load fn d x b).mayLag && la.val != 0) = true := by simp [LongOp.mayLag, hla]
  unfold loadOp issueLong
  rw [dataChecks_ok hd]
  simp only [Bool.false_and, hhas, Bool.not_true, Bool.or_self, Bool.false_eq_true, if_false, hrun, hst, hawake, hlag, if_true,
    htake]

/-- What the issue of a load that waits on no page leaves of its warp: the registers, the next pc, and its entry, last in the
log (R219). -/
theorem enterLog_load (s : State) (fn : Fin 7) (d x : VReg) (b : BReg) (la : Nat) :
    (s.enterLog (.load fn d x b) la []).cw =
      { s.cw.advance.issued with
        log := s.cw.log.map (fun y => { y with used := y.used + 1 }) ++ [s.entry (.load fn d x b) la []]
        logNum := s.cw.logNum + 1 } :=
  State.cw_setCw ..

theorem loadTable_size {p : (VReg → VReg → BReg → La → Instr) × Fin 7 × Nat × (Nat → List W32)} (hp : p ∈ loadTable) :
    p.2.2.1 = loadSize p.2.1.val := by
  simp only [loadTable, List.mem_cons, List.not_mem_nil, or_false] at hp
  rcases hp with rfl | rfl | rfl | rfl | rfl | rfl | rfl <;> rfl

theorem exec_loadTable {p : (VReg → VReg → BReg → La → Instr) × Fin 7 × Nat × (Nat → List W32)} (hp : p ∈ loadTable)
    (d x : VReg) (b : BReg) (la : La) (s : State) : exec (p.1 d x b la) s = loadOp p.2.1 d x b la s := by
  simp only [loadTable, List.mem_cons, List.not_mem_nil, or_false] at hp
  rcases hp with rfl | rfl | rfl | rfl | rfl | rfl | rfl <;> rfl

/-- The late loads of O38. -/
theorem lateLoad_logged {s : State} {d x : VReg} {b : BReg} {la : La}
    {p : (VReg → VReg → BReg → La → Instr) × Fin 7 × Nat × (Nat → List W32)} (hmem : p ∈ loadTable)
    {as : List (Nat × Option Nat)} {zs : List (Nat × Located)}
    (hd : DataReady s.cw d x p.2.2.1) (hroom : LogRoom s (.load p.2.1 d x b)) (hla : la.val ≠ 0)
    (hlate : s.late.headD false = true) (hp : Placed s b x p.2.2.1 .read false as zs) (hc : Clean s zs) :
    ∃ t e, exec (p.1 d x b la) s = .next t ∧ MemoryKept s t ∧ t.cw.regs = s.cw.regs ∧ t.cw.ctl.pc = s.cw.ctl.pc + 4 ∧
      t.cw.log = (s.cw.log.map fun y => { y with used := y.used + 1 }) ++ [e] ∧ e.op = .load p.2.1 d x b ∧
      e.regs = s.cw.regs ∧ e.active = s.cw.active ∧ e.la = la.val ∧ e.pages = [] ∧ e.used = 0 ∧ t.late = s.late.tail := by
  rw [loadTable_size hmem] at hd hp
  obtain ⟨u, hrun, hst⟩ := performLoad_ok (d := d.val) hp hc
  have hcw := enterLog_load { s with late := s.late.tail } p.2.1 d x b la.val
  refine ⟨_, ({ s with late := s.late.tail } : State).entry (.load p.2.1 d x b) la.val [],
    (exec_loadTable hmem d x b la s).trans (loadOp_late hd hroom hla hlate hrun hst), ⟨rfl, rfl, rfl, rfl, rfl⟩, ?_, ?_, ?_,
    rfl, rfl, rfl, rfl, rfl, rfl, rfl⟩
  · rw [hcw]
    rfl
  · rw [hcw]
    rfl
  · rw [hcw]
    rfl

/-! ### The completion of an entry (R137, R222) -/

section Entry

variable {s u : State} {c k : Nat} {e : LogEntry}

/-- An entry that is performed and whose warp does not sleep in it leaves the log; one whose warp sleeps on stays. -/
theorem complete_of_ok {ack : Bool} (hdead : e.dead = none) (hpages : e.pages = []) (hmma : ∀ x y q z, e.op ≠ .mma x y q z)
    (hok : s.performEntry c k e ack = .ok u) :
    s.complete c k e ack =
      if e.op.sleeps && (u.warp c k).st == .asleep then some (u.sleepOn c k e) else some (u.finishEntry c k e) := by
  unfold State.complete
  rw [hdead]
  simp only [hpages, List.isEmpty_nil, Bool.not_true, Bool.false_eq_true, if_false, hok]

/-- An entry whose checks fail delivers its deferred trap, once it may (R203, R204). -/
theorem complete_of_trap {ack : Bool} {ti : TrapInfo} (hdead : e.dead = none) (hpages : e.pages = [])
    (hmma : ∀ x y q z, e.op ≠ .mma x y q z) (hdefer : e.op.sleeps = false ∨ e.replay = true)
    (htrap : s.performEntry c k e ack = .error (.trap ti)) (hcan : s.canTrap c k e = true) :
    s.complete c k e ack = some (s.deferTrap c k e ti) := by
  have hwoken : (e.op.sleeps && !e.replay) = false := by
    rcases hdefer with h | h <;> simp [h]
  unfold State.complete
  rw [hdead]
  simp only [hpages, List.isEmpty_nil, Bool.not_true, Bool.false_eq_true, if_false, htrap, hcan, hwoken]

/-- An entry whose page was declared unresolvable delivers its deferred trap, once it may (R222). -/
theorem complete_of_dead {ack : Bool} {sub page : Nat} {lanes : W64} (hdead : e.dead = some (sub, lanes, page))
    (hcan : s.canTrap c k e = true) : s.complete c k e ack = some (s.deferTrap c k e (e.deadTrap sub lanes page)) := by
  unfold State.complete
  rw [hdead]
  exact if_pos hcan

/-- A warp that an entry has left: its log is without it, its registers are as they were. -/
theorem finishEntry_warp (u : State) (c k : Nat) (e : LogEntry) :
    ((u.finishEntry c k e).warp c k).log = (u.warp c k).log.filter (fun y => y.num != e.num) ∧
      ((u.finishEntry c k e).warp c k).regs = (u.warp c k).regs := by
  unfold State.finishEntry
  dsimp only
  rw [State.warp, pulse_eq]
  dsimp only
  rw [← State.warp, State.warp_setWarp, State.dropEntry, State.warp_setWarp]
  split <;> exact ⟨rfl, rfl⟩

theorem finishEntry_memory (u : State) (c k : Nat) (e : LogEntry) :
    (u.finishEntry c k e).mem = u.mem ∧ (u.finishEntry c k e).tags = u.tags := by
  unfold State.finishEntry
  dsimp only
  rw [pulse_eq]
  exact ⟨rfl, rfl⟩

/-- No entry with its number is left in the log. -/
theorem finishEntry_gone (u : State) (c k : Nat) (e : LogEntry) : ∀ y ∈ ((u.finishEntry c k e).warp c k).log, y.num ≠ e.num := by
  intro y hy
  rw [(finishEntry_warp u c k e).1] at hy
  exact bne_iff_ne.mp (List.mem_filter.mp hy).2

theorem sleepOn_warp (u : State) (c k : Nat) (e : LogEntry) :
    ((u.sleepOn c k e).warp c k).st = (u.warp c k).st ∧ ((u.sleepOn c k e).warp c k).regs = (u.warp c k).regs ∧
      ((u.sleepOn c k e).warp c k).log.length = (u.warp c k).log.length := by
  unfold State.sleepOn
  dsimp only
  rw [State.warp_setWarp]
  exact ⟨rfl, rfl, List.length_map _⟩

end Entry

/-! ### The event LONG_LATENCY_COMPLETE -/

section Event

variable {s t : State} {c : CoreId} {n : Nat} {e : LogEntry}

/-- The event completes the entry that it names, unless its warp sleeps in it with no check failed. -/
theorem longLatencyComplete_next (he : (s.warp c.val (n % 66)).log[n / 66]? = some e)
    (hfree : (s.warp c.val (n % 66)).sleepsIn ≠ some e ∨ s.entryFails c.val (n % 66) e = true)
    (hc : s.complete c.val (n % 66) e false = some t) : exec (.longLatencyComplete c n) s = .next t := by
  have hno : ¬ ((s.warp c.val (n % 66)).sleepsIn = some e ∧ (!s.entryFails c.val (n % 66) e) = true) := by
    rintro ⟨hin, hfails⟩
    rcases hfree with h | h
    · exact h hin
    · rw [h] at hfails
      exact absurd hfails (by decide)
  rw [exec_longLatencyComplete]
  unfold execLongLatencyComplete
  simp only [he, if_neg hno, hc]

/-- An entry that is performed (R137). -/
theorem longLatencyComplete_performed {u : State} (he : (s.warp c.val (n % 66)).log[n / 66]? = some e) (hdead : e.dead = none)
    (hpages : e.pages = []) (hmma : ∀ x y q z, e.op ≠ .mma x y q z) (hin : (s.warp c.val (n % 66)).sleepsIn ≠ some e)
    (hok : s.performEntry c.val (n % 66) e false = .ok u) :
    let waits := e.op.sleeps = true ∧ (u.warp c.val (n % 66)).st = .asleep
    ∃ t, exec (.longLatencyComplete c n) s = .next t ∧ t.mem = u.mem ∧ t.tags = u.tags ∧
      (t.warp c.val (n % 66)).regs = (u.warp c.val (n % 66)).regs ∧
      (¬ waits → ∀ y ∈ (t.warp c.val (n % 66)).log, y.num ≠ e.num) ∧
      (waits → (t.warp c.val (n % 66)).st = .asleep ∧
        (t.warp c.val (n % 66)).log.length = (u.warp c.val (n % 66)).log.length) := by
  intro waits
  have hc := complete_of_ok hdead hpages hmma hok
  have hiff : (e.op.sleeps && (u.warp c.val (n % 66)).st == .asleep) = true ↔ waits := by simp [waits]
  by_cases hw : waits
  · rw [if_pos (hiff.mpr hw)] at hc
    obtain ⟨hst, hregs, hlen⟩ := sleepOn_warp u c.val (n % 66) e
    exact ⟨_, longLatencyComplete_next he (.inl hin) hc, rfl, rfl, hregs, fun h => absurd hw h, fun _ => ⟨hst.trans hw.2, hlen⟩⟩
  · rw [if_neg fun h => hw (hiff.mp h)] at hc
    obtain ⟨hmem, htags⟩ := finishEntry_memory u c.val (n % 66) e
    exact ⟨_, longLatencyComplete_next he (.inl hin) hc, hmem, htags, (finishEntry_warp ..).2,
      fun _ => finishEntry_gone u c.val (n % 66) e, fun h => absurd h hw⟩

theorem entryFails_of_trap {k : Nat} {ti : TrapInfo} (hpages : e.pages = [])
    (htrap : s.performEntry c.val k e false = .error (.trap ti)) : s.entryFails c.val k e = true := by
  simp [State.entryFails, hpages, htrap]

theorem entryFails_of_dead {k : Nat} {x : Nat × W64 × Nat} (hdead : e.dead = some x) : s.entryFails c.val k e = true := by
  simp [State.entryFails, hdead]

end Event

/-! ### The host's acknowledgement (R301, R423) -/

theorem hostWait_cache {e : LogEntry} (h : e.hostWait = true) :
    e.dead = none ∧ e.pages = [] ∧ e.op.sleeps = false ∧ ∀ x y q z, e.op ≠ .mma x y q z := by
  unfold LogEntry.hostWait at h
  obtain ⟨h, hop⟩ := Bool.and_eq_true_iff.mp h
  obtain ⟨hpages, hdead⟩ := Bool.and_eq_true_iff.mp h
  refine ⟨Option.isNone_iff_eq_none.mp hdead, List.isEmpty_iff.mp hpages, ?_⟩
  split at hop
  · rename_i hcache
    exact ⟨by rw [hcache]; rfl, fun x y q z hm => LongOp.noConfusion (hcache.symm.trans hm)⟩
  · exact absurd hop (by decide)

/-- The entry that waits for the acknowledgement completes with it. -/
theorem hostCompletion_performed {s u : State} {c : CoreId} {k : Nat} {e : LogEntry}
    (hfound : (List.range 66).findSome? (fun k => ((s.warp c.val k).log.find? LogEntry.hostWait).map fun e => (k, e)) =
      some (k, e)) (hok : s.performEntry c.val k e true = .ok u) :
    ∃ t, exec (.hostCompletion c) s = .next t ∧ t.mem = u.mem ∧ ∀ y ∈ (t.warp c.val k).log, y.num ≠ e.num := by
  have hwait : e.hostWait = true := by
    obtain ⟨i, -, hi⟩ := List.exists_of_findSome?_eq_some hfound
    obtain ⟨y, hy, hye⟩ := Option.map_eq_some_iff.mp hi
    obtain ⟨-, rfl⟩ := Prod.mk.inj hye
    exact List.find?_some hy
  obtain ⟨hdead, hpages, hsleeps, hmma⟩ := hostWait_cache hwait
  have hc := complete_of_ok hdead hpages hmma hok
  rw [hsleeps, Bool.false_and, if_neg Bool.false_ne_true] at hc
  refine ⟨u.finishEntry c.val k e, ?_, (finishEntry_memory ..).1, finishEntry_gone u c.val k e⟩
  rw [exec_hostCompletion]
  unfold execHostCompletion
  simp only [hfound, hc]

/-- Settles O38: what the log does with an entry, case by case, through `State.complete`. -/
theorem loggedInstructionsComplete : Obligations.LoggedInstructionsComplete := by
  unfold Obligations.LoggedInstructionsComplete
  intro s c slot n
  refine ⟨fun d x b la p hmem as zs hd hroom hla hlate hp hc => lateLoad_logged hmem hd hroom hla hlate hp hc, ?_,
    fun k e u hfound hok => hostCompletion_performed hfound hok, ?_⟩
  · intro e k w he
    refine ⟨?_, ?_, ?_⟩
    · exact fun u hdead hpages hmma hin hok => longLatencyComplete_performed he hdead hpages hmma hin hok
    · exact fun ti hdead hpages hmma hdefer htrap hcan => longLatencyComplete_next he
        (.inr (entryFails_of_trap hpages htrap)) (complete_of_trap hdead hpages hmma hdefer htrap hcan)
    · exact fun sub lanes page hdead hcan => longLatencyComplete_next he (.inr (entryFails_of_dead hdead))
        (complete_of_dead hdead hcan)
  · intro w hwait hpromo hst
    rw [exec_warpPromotion]
    unfold execWarpPromotion
    refine eventIf_pos _ _ ?_
    rw [decide_eq_true hwait, show (s.warp c.val slot.val).ctl.promo = false from hpromo,
      show (s.warp c.val slot.val).st = .active from hst]
    rfl

end Sys2Proof.Machine
end

section
/-! ## Drains put nothing into an L1 (R139, R446) -/

namespace Sys2Proof.Machine

open Sys2Proof.Slice0

/-- The L1s that hold no dirty bytes, and those that hold no clean lines, still hold none. -/
structure L1sStayEmpty (s t : State) : Prop where
  dirty : ∀ c, (s.core c).l1.dirty = [] → (t.core c).l1.dirty = []
  clean : ∀ c, (s.core c).l1.clean = [] → (t.core c).l1.clean = []

namespace L1sStayEmpty

variable {s t u : State}

theorem of_core (h : ∀ c, ((s.core c).l1.dirty = [] → (t.core c).l1.dirty = []) ∧
    ((s.core c).l1.clean = [] → (t.core c).l1.clean = [])) : L1sStayEmpty s t := ⟨fun c => (h c).1, fun c => (h c).2⟩

theorem of_cores (h : t.cores = s.cores) : L1sStayEmpty s t := of_core fun c => by
  rw [State.core, State.core, h]
  exact ⟨id, id⟩

theorem refl (s : State) : L1sStayEmpty s s := of_cores rfl

theorem trans (h : L1sStayEmpty s t) (k : L1sStayEmpty t u) : L1sStayEmpty s u :=
  ⟨fun c hs => k.dirty c (h.dirty c hs), fun c hs => k.clean c (h.clean c hs)⟩

theorem foldl {β : Type} {f : State → β → State} (hf : ∀ u x, L1sStayEmpty u (f u x)) (xs : List β) (s : State) :
    L1sStayEmpty s (xs.foldl f s) :=
  foldl_keeps (L1sStayEmpty s) f (fun u x h => h.trans (hf u x)) xs s (refl s)

end L1sStayEmpty

/-! ### What changes no core -/

theorem hostWrite_cores (s : State) (a : Nat) (bs : List Byte) : (s.hostWrite a bs).cores = s.cores := by
  unfold State.hostWrite
  split <;> rfl

theorem hostFlush_cores (s : State) (line : Nat) : (s.hostFlush line).cores = s.cores :=
  foldl_keeps (fun u => u.cores = s.cores) (fun u (r : Nat × List Byte) => u.hostWrite r.1 r.2)
    (fun u r h => (hostWrite_cores u r.1 r.2).trans h) _ s rfl

theorem l2Room_cores (s : State) (p line : Nat) : (s.l2Room p line).cores = s.cores := by
  unfold State.l2Room
  dsimp only
  split
  · rfl
  split
  · rfl
  split
  · rfl
  · exact hostFlush_cores _ _

theorem slicePut_cores (s : State) (p a : Nat) (bs : List Byte) : (s.slicePut p a bs).cores = s.cores := by
  unfold State.slicePut
  dsimp only
  split
  · split
    · exact l2Room_cores s p _
    · exact (hostWrite_cores _ a bs).trans (l2Room_cores s p _)
  · rfl

/-! ### Drains -/

/-- A drain of a core leaves it no dirty byte that the test names, and no line that it did not have. -/
theorem takeDirty_empty (s : State) (c : Nat) (f : Nat → Bool) : L1sStayEmpty s (s.takeDirty c f).2.2 := .of_core fun e => by
  rw [State.takeDirty, setCore_core]
  dsimp only
  split
  · subst e
    exact ⟨fun h => by rw [h]; rfl, fun h => by rw [h]; rfl⟩
  · exact ⟨id, id⟩

/-- Nothing dirty is left of a drained core. -/
theorem takeDirty_all (s : State) (c : Nat) : ((s.takeDirty c fun _ => true).2.2.core c).l1.dirty = [] := by
  rw [State.takeDirty, setCore_core, if_pos rfl]
  exact List.filter_eq_nil_iff.mpr fun p _ => by simp

section Drains

variable {dr : State → Nat → State} (hd : ∀ s x, L1sStayEmpty s (dr s x))
include hd

theorem drainSome_empty (s : State) (d line : Nat) (f : Nat × Nat → Option Bool) : L1sStayEmpty s (s.drainSome dr d line f) := by
  refine L1sStayEmpty.foldl (fun u p => ?_) _ s
  cases f p with
  | none =>
    dsimp only
    split
    · exact L1sStayEmpty.of_cores (s := u) (t := u.takeBit.2) rfl |>.trans (hd u.takeBit.2 p.1) |>.trans (.of_cores rfl)
    · exact .of_cores rfl
  | some b =>
    dsimp only
    split
    · exact (hd u p.1).trans (.of_cores rfl)
    · exact .refl u

theorem gatherBy_empty (s : State) (line except scope : Nat) : L1sStayEmpty s (s.gatherBy dr line except scope) :=
  L1sStayEmpty.foldl (fun u d => drainSome_empty hd u d line _) _ s

theorem direct_empty (s : State) (d line : Nat) (write : Bool) : L1sStayEmpty s (s.direct dr d line write) := by
  unfold State.direct
  dsimp only
  split
  · exact .of_cores rfl
  split
  · exact .of_cores rfl
  split
  · rename_i v _
    exact (L1sStayEmpty.foldl (fun u e => drainSome_empty hd u e v.line fun _ => some true) (List.range 4) s).trans (.of_cores rfl)
  · exact .refl s

theorem request_empty (s : State) (q line : Nat) (write : Bool) : L1sStayEmpty s (s.request dr q line write) := by
  have h := direct_empty hd { s with hd := (s.hd.nextSeq q).2 } q line write
  have hcores : (s.request dr q line write).cores =
      (({ s with hd := (s.hd.nextSeq q).2 } : State).direct dr q line write).cores := by
    unfold State.request
    rfl
  exact L1sStayEmpty.of_cores (s := s) (t := { s with hd := (s.hd.nextSeq q).2 }) rfl |>.trans h |>.trans (.of_cores hcores)

theorem obtainBy_empty (s : State) (d line scope : Nat) (write : Bool) : L1sStayEmpty s (s.obtainBy dr d line scope write) := by
  have h := (gatherBy_empty hd s line d scope).trans (request_empty hd _ d line write)
  unfold State.obtainBy
  split
  · exact .refl s
  extract_lets free
  split
  · exact .of_cores rfl
  split
  · split
    · split
      · exact .of_cores rfl
      · exact .refl s
    · exact .refl s
  · exact h

end Drains

theorem writeBackN_empty : ∀ (n : Nat) (s : State) (c : Nat) (f : Nat → Bool), L1sStayEmpty s (State.writeBackN n s c f)
  | 0, s, _, _ => .refl s
  | n + 1, s, c, f => by
    have step : ∀ (t : State) (rs : List (Nat × List Byte)), L1sStayEmpty t (rs.foldl (fun (u : State) r =>
        (u.obtainBy (fun s x => State.writeBackN n s x fun _ => true) (dieOf c) (lineOf r.1) 3 true).slicePut
          (s.corePart c) r.1 r.2) t) := fun t rs =>
      L1sStayEmpty.foldl (fun u r =>
        (obtainBy_empty (fun s x => writeBackN_empty n s x _) u _ _ _ _).trans (.of_cores (slicePut_cores _ _ _ _))) rs t
    have ht := takeDirty_empty s c f
    simp only [State.writeBackN]
    generalize s.takeDirty c f = x at ht ⊢
    have hu : ∀ k, L1sStayEmpty s (if x.1.isEmpty then x.2.2 else x.2.2.spend (dieOf c) (s.corePart c) k) := fun k => by
      split
      · exact ht
      · exact ht.trans (.of_cores rfl)
    split
    · exact (hu _).trans (step _ _)
    · exact ((hu _).trans (step _ _)).trans (.of_cores rfl)

theorem sliceWrite_empty (s : State) (c a : Nat) (bs : List Byte) : L1sStayEmpty s (s.sliceWrite c a bs) :=
  (obtainBy_empty (fun u x => writeBackN_empty _ u x _) s _ _ 3 true).trans (.of_cores (slicePut_cores _ _ _ _))

theorem sliceWrite_frame (s : State) (c a : Nat) (bs : List Byte) : SliceFrame s (s.sliceWrite c a bs) :=
  (obtain_frame s _ _ true).trans (slicePut_frame _ _ a bs)

theorem selfInvalidate_empty (s : State) (c : Nat) : L1sStayEmpty s (s.selfInvalidate c) := .of_core fun e => by
  rw [State.selfInvalidate, setCore_core]
  split
  · subst e
    exact ⟨id, fun _ => rfl⟩
  · exact ⟨id, id⟩

theorem selfInvalidate_clean (s : State) (c : Nat) :
    ((s.selfInvalidate c).core c).l1.clean = [] ∧ ((s.selfInvalidate c).core c).l1.dirty = (s.core c).l1.dirty := by
  rw [State.selfInvalidate, setCore_core, if_pos rfl]
  exact ⟨rfl, rfl⟩

/-! ### The drains of a job's end (R446) -/

/-- A run of bytes that a core gives up changes what drains change. -/
theorem drainRun_state (c : Nat) (acc : State × FMap Bool) (r : Nat × List Byte) :
    SliceFrame acc.1 (State.drainRun c acc r).1 ∧ L1sStayEmpty acc.1 (State.drainRun c acc r).1 := by
  unfold State.drainRun
  dsimp only
  have h := List.foldlRecOn ((r.2.zip (acc.1.sliceRead r.1 r.2.length)).zipIdx r.1)
    (fun (z : List Byte × State × FMap Bool) p =>
      let (keep, s) := if z.2.2.has p.2 then z.2.1.takeBit else (false, z.2.1)
      (z.1 ++ [if keep then p.1.2 else p.1.1], s, z.2.2.ins p.2 true))
    (motive := fun z : List Byte × State × FMap Bool => SliceFrame acc.1 z.2.1 ∧ z.2.1.cores = acc.1.cores)
    (b := ([], acc)) ⟨.refl acc.1, rfl⟩ fun z hz p _ => by
      dsimp only
      split
      · exact ⟨hz.1.trans (.upd ..), hz.2⟩
      · exact hz
  exact ⟨h.1.trans (sliceWrite_frame _ c r.1 _), (L1sStayEmpty.of_cores h.2).trans (sliceWrite_empty _ c r.1 _)⟩

theorem drainRuns_state (c : Nat) (rs : List (Nat × List Byte)) (acc : State × FMap Bool) :
    SliceFrame acc.1 (rs.foldl (State.drainRun c) acc).1 ∧ L1sStayEmpty acc.1 (rs.foldl (State.drainRun c) acc).1 :=
  List.foldlRecOn rs _ (motive := fun z : State × FMap Bool => SliceFrame acc.1 z.1 ∧ L1sStayEmpty acc.1 z.1)
    ⟨.refl _, .refl _⟩ fun z hz r _ =>
      have h := drainRun_state c z r
      ⟨hz.1.trans h.1, hz.2.trans h.2⟩

/-- The state in which a core's dirty bytes have reached their slices, but its poison and its clean copies are still to go. -/
def drainedRuns (acc : State × FMap Bool) (c : Nat) : State × FMap Bool :=
  (runsOf (acc.1.takeDirty c fun _ => true).1).foldl (State.drainRun c) ((acc.1.takeDirty c fun _ => true).2.2, acc.2)

theorem drainEnd_state (acc : State × FMap Bool) (c : Nat) : (State.drainEnd acc c).1 =
    ((drainedRuns acc c).1.poisonAt (acc.1.takeDirty c fun _ => true).2.1.keys).selfInvalidate c := rfl

theorem drainedRuns_frame (acc : State × FMap Bool) (c : Nat) : SliceFrame acc.1 (drainedRuns acc c).1 :=
  (takeDirty_frame acc.1 c fun _ => true).trans
    (drainRuns_state c (runsOf (acc.1.takeDirty c fun _ => true).1) ((acc.1.takeDirty c fun _ => true).2.2, acc.2)).1

theorem drainedRuns_empty (acc : State × FMap Bool) (c : Nat) : L1sStayEmpty acc.1 (drainedRuns acc c).1 :=
  (takeDirty_empty acc.1 c fun _ => true).trans
    (drainRuns_state c (runsOf (acc.1.takeDirty c fun _ => true).1) ((acc.1.takeDirty c fun _ => true).2.2, acc.2)).2

theorem drainedRuns_dirty (acc : State × FMap Bool) (c : Nat) : ((drainedRuns acc c).1.core c).l1.dirty = [] :=
  (drainRuns_state c (runsOf (acc.1.takeDirty c fun _ => true).1) ((acc.1.takeDirty c fun _ => true).2.2, acc.2)).2.dirty c
    (takeDirty_all acc.1 c)

theorem drainEnd_frame (acc : State × FMap Bool) (c : Nat) : SliceFrame acc.1 (State.drainEnd acc c).1 := by
  rw [drainEnd_state]
  exact ((drainedRuns_frame acc c).trans (poisonAt_frame _ _)).trans (setL1_frame _ c _)

theorem drainEnd_empty (acc : State × FMap Bool) (c : Nat) : L1sStayEmpty acc.1 (State.drainEnd acc c).1 := by
  rw [drainEnd_state]
  have hpoison := L1sStayEmpty.of_cores (s := (drainedRuns acc c).1)
    (t := (drainedRuns acc c).1.poisonAt (acc.1.takeDirty c fun _ => true).2.1.keys) rfl
  exact ((drainedRuns_empty acc c).trans hpoison).trans (selfInvalidate_empty _ c)

/-- The core that is drained holds nothing after it. -/
theorem drainEnd_core (acc : State × FMap Bool) (c : Nat) :
    ((State.drainEnd acc c).1.core c).l1.dirty = [] ∧ ((State.drainEnd acc c).1.core c).l1.clean = [] := by
  rw [drainEnd_state]
  obtain ⟨hclean, hdirty⟩ := selfInvalidate_clean
    ((drainedRuns acc c).1.poisonAt (acc.1.takeDirty c fun _ => true).2.1.keys) c
  exact ⟨hdirty.trans (drainedRuns_dirty acc c), hclean⟩

theorem drainEnds_frame (cs : List Nat) (acc : State × FMap Bool) : SliceFrame acc.1 (cs.foldl State.drainEnd acc).1 :=
  List.foldlRecOn cs _ (motive := fun z : State × FMap Bool => SliceFrame acc.1 z.1) (.refl _)
    fun z hz c _ => hz.trans (drainEnd_frame z c)

/-- Every core of those that are drained in turn holds nothing after the last drain. -/
theorem drainEnds_core : ∀ (cs : List Nat) (acc : State × FMap Bool), L1sStayEmpty acc.1 (cs.foldl State.drainEnd acc).1 ∧
    ∀ c ∈ cs, (((cs.foldl State.drainEnd acc).1.core c).l1.dirty = [] ∧ ((cs.foldl State.drainEnd acc).1.core c).l1.clean = [])
  | [], acc => ⟨.refl _, fun _ h => absurd h List.not_mem_nil⟩
  | c :: cs, acc => by
    obtain ⟨hstay, hrest⟩ := drainEnds_core cs (State.drainEnd acc c)
    refine ⟨(drainEnd_empty acc c).trans hstay, fun e he => ?_⟩
    rcases List.mem_cons.mp he with rfl | he
    · exact ⟨hstay.dirty e (drainEnd_core acc e).1, hstay.clean e (drainEnd_core acc e).2⟩
    · exact hrest e he

theorem flushHost_frame (s : State) : SliceFrame s s.flushHost :=
  SliceFrame.foldl (fun u _ => SliceFrame.foldl hostFlush_frame _ u) _ s

theorem flushHost_cores (s : State) : s.flushHost.cores = s.cores :=
  foldl_keeps (fun u => u.cores = s.cores) _
    (fun u _ h => foldl_keeps (fun v => v.cores = s.cores) State.hostFlush (fun v l hv => (hostFlush_cores v l).trans hv) _ u h)
    _ s rfl

theorem drainJob_frame (s : State) (j : Nat) : SliceFrame s (s.drainJob j) :=
  (drainEnds_frame (s.job j).cores (s, [])).trans (flushHost_frame _)

/-- The cores that a job occupied hold nothing after its drains. -/
theorem drainJob_core (s : State) (j : Nat) {c : Nat} (hc : c ∈ (s.job j).cores) :
    ((s.drainJob j).core c).l1.dirty = [] ∧ ((s.drainJob j).core c).l1.clean = [] := by
  have h := (drainEnds_core (s.job j).cores (s, [])).2 c hc
  rw [State.drainJob, State.core, flushHost_cores]
  exact h

end Sys2Proof.Machine
end

section
/-! ## The front end's writes change no job (R386, R389, R392, R393) -/

namespace Sys2Proof.Machine

open Sys2Proof.Slice0

theorem SliceFrame.jobs {s t : State} (h : SliceFrame s t) : t.jobs = s.jobs := by rw [h.rest]

/-- The jobs are as they were after a front-end write that has been made. -/
def FeOut.KeepsJobs (s : State) : FeOut → Prop
  | .done t => t.jobs = s.jobs
  | .wait _ => True
  | .fail => True

theorem hostWrite_jobs (s : State) (a : Nat) (bs : List Byte) : (s.hostWrite a bs).jobs = s.jobs :=
  (hostWrite_frame s a bs).jobs

theorem feReadSeg_jobs (s : State) (p : Nat × Nat) : (s.feReadSeg p).2.jobs = s.jobs := by
  have h := drainAll_frame s (lineOf p.1)
  unfold State.feReadSeg
  dsimp only
  split
  · exact h.jobs
  split
  · exact (h.trans (obtain_frame (s.drainAll (lineOf p.1)) (homeDie (lineOf p.1)) (lineOf p.1) false)).jobs
  · exact h.jobs

theorem feReads_jobs : ∀ (segs : Segs) (s : State), (s.feReads segs).2.jobs = s.jobs
  | [], _ => rfl
  | p :: ps, s => (feReads_jobs ps _).trans (feReadSeg_jobs s p)

theorem feWrites_jobs : ∀ (segs : Segs) (bs : List Byte) (s : State), (s.feWrites segs bs).jobs = s.jobs
  | [], _, _ => rfl
  | p :: ps, bs, s => by
    rw [State.feWrites]
    refine (feWrites_jobs ps _ _).trans ?_
    split
    · exact hostWrite_jobs s _ _
    · exact (obtainHome_frame s (lineOf p.1)).jobs

theorem sendMsix_jobs (s : State) (part vec : Nat) : (s.sendMsix part vec).jobs = s.jobs := by
  unfold State.sendMsix State.sendVector
  split
  · rfl
  split <;> rfl

theorem feWrite_jobs (s : State) (part : Nat) (kind : AccessKind) (addr : W64) (bs : List Byte) :
    (s.feWrite part kind addr bs).KeepsJobs s := by
  unfold State.feWrite
  dsimp only
  split
  · split
    · trivial
    · exact feWrites_jobs _ _ _
  · split <;> trivial

theorem feSignal_jobs (s : State) (part op : Nat) (addr val : W64) : (s.feSignal part op addr val).KeepsJobs s := by
  unfold State.feSignal
  split
  · split
    · trivial
    dsimp only
    split
    · split
      · trivial
      split
      · trivial
      · exact foldl_keeps (fun u => u.jobs = s.jobs) (fun u (p : Nat × Nat) => u.setTag p.1 true) (fun u p h => h) _ _
          (feWrites_jobs _ _ _)
    · split <;> trivial
  · dsimp only
    split
    · split
      · trivial
      · exact (feWrites_jobs _ _ _).trans (feReads_jobs _ _)
    · split <;> trivial
  · exact feWrite_jobs s part .write addr _
  · rfl

theorem feReport_jobs (s : State) (part : Nat) (bs : List Byte) : (s.feReport part bs).KeepsJobs s := by
  have h := feWrite_jobs s part .write ((s.part part).rqbase +
    BitVec.ofNat 64 (64 * ((s.part part).rqwidx.toNat % 2 ^ (s.part part).rqlog2.toNat))) bs
  unfold State.feReport
  dsimp only
  split
  · trivial
  split
  · rename_i t ht
    rw [ht] at h
    exact (sendMsix_jobs _ _ _).trans h
  · exact h

theorem feDo_jobs (s : State) (part : Nat) : ∀ w, (s.feDo part w).KeepsJobs s
  | .bytes addr bs => feWrite_jobs s part .write addr bs
  | .signal op addr val => feSignal_jobs s part op addr val
  | .report bs => feReport_jobs s part bs

theorem stopQueue_jobs (s : State) (part q err idx : Nat) : (s.stopQueue part q err idx).jobs = s.jobs := by
  unfold State.stopQueue
  dsimp only
  split <;> rfl

theorem feFails_jobs (s : State) (part q idx : Nat) (w : FeWrite) : (s.feFails part q idx w).jobs = s.jobs := by
  unfold State.feFails
  split
  · rfl
  · exact stopQueue_jobs s part q 6 idx

theorem feRun_jobs (part q idx : Nat) : ∀ (ws : List FeWrite) (dead : Bool) (s : State),
    (s.feRun part q idx dead ws).2.2.jobs = s.jobs
  | [], _, _ => rfl
  | w :: ws, dead, s => by
    have h := feDo_jobs s part w
    have hfail := (feRun_jobs part q idx ws false (s.feFails part q idx w)).trans (feFails_jobs s part q idx w)
    rw [State.feRun]
    split
    · rename_i t ht
      rw [ht] at h
      exact (feRun_jobs part q idx ws false t).trans h
    · exact hfail
    · split
      · exact hfail
      · rfl

theorem packetEnds_jobs (s : State) (part q idx : Nat) (intr : Bool) : (s.packetEnds part q idx intr).jobs = s.jobs := by
  unfold State.packetEnds
  dsimp only
  split
  · exact sendMsix_jobs _ _ _
  · rfl

theorem endCommand_jobs (s : State) (part j : Nat) (res : Nat → Nat) : (s.endCommand part j res).jobs = s.jobs := by
  unfold State.endCommand
  dsimp only
  split <;> rfl

theorem feGo_jobs (s : State) (o : FeOp) : (s.feGo o).2.jobs = s.jobs := by
  have hrun := feRun_jobs o.part o.q o.idx o.steps o.dead s
  unfold State.feGo
  split
  · rfl
  dsimp only
  split
  · have hend : (match o.tells with
        | some j => (s.feRun o.part o.q o.idx o.dead o.steps).2.2.endCommand o.part j fun _ => 1
        | none => (s.feRun o.part o.q o.idx o.dead o.steps).2.2).jobs = s.jobs := by
      cases o.tells with
      | none => exact hrun
      | some j => exact (endCommand_jobs _ _ _ _).trans hrun
    split
    · exact (packetEnds_jobs _ _ _ _ _).trans hend
    · exact hend
  · exact hrun

theorem feStart_jobs (s : State) (o : FeOp) : (s.feStart o).jobs = s.jobs := by
  have h := feGo_jobs s o
  unfold State.feStart
  split
  · rfl
  · split
    · rename_i t ht
      rw [ht] at h
      exact h
    · rename_i p t ht
      rw [ht] at h
      exact h

theorem endPacket_jobs (s : State) (part : Nat) (pk : Pkt) (code reason detail : Nat) :
    (s.endPacket part pk code reason detail).jobs = s.jobs := feStart_jobs s _

/-- The job is gone when it has left the machine (R393). -/
theorem endJob_look (s : State) (j code reason detail : Nat) : (s.endJob j code reason detail).jobs.look j = none := by
  unfold State.endJob
  dsimp only
  rw [endPacket_jobs, endCommand_jobs]
  exact FMap.look_del_self _ _

end Sys2Proof.Machine
end

section
/-! ## O41: teams start and jobs end (R26, R46, R47, R84, R85, R215, R353, R359, R393, R396, R446) -/

namespace Sys2Proof.Machine

open Sys2Proof.Slice0

/-! ### A change of one job -/

section UpdJob

variable {s : State} {j : Nat} (f : Job → Job)

theorem updJob_core (s : State) (j c : Nat) : (s.updJob j f).core c = s.core c := by
  unfold State.updJob
  split <;> rfl

theorem updJob_of_has (h : s.jobs.has j = true) : s.updJob j f = { s with jobs := s.jobs.ins j (f (s.job j)) } := by
  obtain ⟨jb, hjb⟩ := Option.isSome_iff_exists.mp h
  have hget : s.job j = jb := by rw [State.job, FMap.getD, hjb]; rfl
  simp only [State.updJob, hjb, hget]

theorem updJob_has (h : s.jobs.has j = true) : (s.updJob j f).jobs.has j = true := by
  rw [updJob_of_has f h]
  exact Option.isSome_iff_exists.mpr ⟨_, FMap.look_ins_self ..⟩

theorem updJob_job (h : s.jobs.has j = true) : (s.updJob j f).job j = f (s.job j) := by
  rw [updJob_of_has f h]
  exact FMap.getD_ins_self ..

theorem setTeams_has (h : s.jobs.has j = true) (d : Nat) (x : DieTeams) : (s.setTeams j d x).jobs.has j = true :=
  updJob_has _ h

theorem setTeams_unst (h : s.jobs.has j = true) (d : Nat) (x : DieTeams) :
    ((s.setTeams j d x).job j).unst = (s.job j).unst.ins d x := by
  rw [State.setTeams, updJob_job _ h]

end UpdJob

/-! ### Distributors (R84, R353, R359) -/

section Teams

variable {s : State} {d : DieId} {j : Nat}

/-- A distributor that holds a team and has a core for it starts it; the job's first start is its placement (R353). -/
theorem distributorStartTeam_next (hhas : s.jobs.has j = true) (hruns : (s.job j).runs = true) {n c : Nat} {x : DieTeams}
    (hlow : takeLowest (s.job j) d.val = some (n, x)) (hplace : s.placeFor j d.val = some c) (hhere : s.dieAway j d.val = false) :
    exec (.distributorStartTeam d j) s =
      .next (if (s.job j).cores = [] then s.startAll j else (s.setTeams j d.val x).startTeam j n c) := by
  have hone : s.startOne j d.val = some ((s.setTeams j d.val x).startTeam j n c) := by
    simp only [State.startOne, hlow, hplace]
  rw [exec_distributorStartTeam]
  unfold execDistributorStartTeam
  simp only [hruns, hhas, hhere, hone, Bool.not_false, and_self, if_true, List.isEmpty_iff]

/-- On a die whose part of the job is pre-empted or saved no team starts, and none is asked for (R359). -/
theorem teams_refused (haway : s.dieAway j d.val = true) :
    exec (.distributorStartTeam d j) s = .refused (.notEnabled "DISTRIBUTOR_START_TEAM") ∧
      exec (.teamRequest d j) s = .refused (.notEnabled "TEAM_REQUEST") := by
  constructor
  · rw [exec_distributorStartTeam]
    exact if_neg fun h => by simp [haway] at h
  · rw [exec_teamRequest]
    exact if_neg fun h => by simp [haway] at h

/-- The distributors that a distributor asks, in the order in which it asks them (R84). -/
def askedDies (s : State) (j d : Nat) : List Nat :=
  [(d + 1) % 4, (d + 2) % 4, (d + 3) % 4].filter fun e => decide (e ∈ (s.job j).onDies) && !s.dieAway j e

/-- The first of them that holds a team, with its highest and what it then holds. -/
def teamOffer (s : State) (j d : Nat) : Option (Nat × Nat × DieTeams) :=
  (askedDies s j d).findSome? fun e => (takeHighest (s.job j) e).map fun p => (e, p)

section Request

variable (hhas : s.jobs.has j = true) (hruns : (s.job j).runs = true) (hhere : s.dieAway j d.val = false)
  (hon : d.val ∈ (s.job j).onDies) (hask : ((s.job j).unst.getD d.val {}).asked = false)
  (hlow : takeLowest (s.job j) d.val = none) (hplace : (s.placeFor j d.val).isSome = true)
include hhas hruns hhere hon hask hlow hplace

/-- A request that no distributor answers is not made again. -/
theorem teamRequest_none (hoffer : teamOffer s j d.val = none) :
    exec (.teamRequest d j) s = .next (s.setTeams j d.val { (s.job j).unst.getD d.val {} with asked := true }) := by
  rw [exec_teamRequest]
  unfold execTeamRequest
  simp only [hruns, hhas, hhere, hon, hask, hlow, hplace, Bool.not_false, Option.isNone_none, and_self, if_true]
  change (match teamOffer s j d.val with | some (e, t, x) => _ | none => _) = _
  rw [hoffer]

/-- The team that a distributor gives goes to the one that asked (R84). -/
theorem teamRequest_some {e n : Nat} {x : DieTeams} (hoffer : teamOffer s j d.val = some (e, n, x)) :
    exec (.teamRequest d j) s = .next ((s.setTeams j e x).setTeams j d.val
      { (s.job j).unst.getD d.val {} with extra := insertTeam n ((s.job j).unst.getD d.val {}).extra }) := by
  rw [exec_teamRequest]
  unfold execTeamRequest
  simp only [hruns, hhas, hhere, hon, hask, hlow, hplace, Bool.not_false, Option.isNone_none, and_self, if_true]
  change (match teamOffer s j d.val with | some (e, t, x) => _ | none => _) = _
  rw [hoffer]

end Request

theorem teamOffer_none (h : ∀ b ∈ (s.job j).onDies, b ≠ d.val → s.dieAway j b = true ∨ takeHighest (s.job j) b = none) :
    teamOffer s j d.val = none := by
  refine List.findSome?_eq_none_iff.mpr fun e he => ?_
  obtain ⟨hmem, hok⟩ := List.mem_filter.mp he
  obtain ⟨hon, hhere⟩ := Bool.and_eq_true_iff.mp hok
  have hne : e ≠ d.val := by
    have := d.isLt
    simp only [List.mem_cons, List.not_mem_nil, or_false] at hmem
    omega
  rcases h e (of_decide_eq_true hon) hne with haway | hnone
  · rw [haway] at hhere
    exact absurd hhere (by decide)
  · rw [hnone]
    rfl

theorem teamOffer_first (hon : (d.val + 1) % 4 ∈ (s.job j).onDies) (hhere : s.dieAway j ((d.val + 1) % 4) = false)
    {n : Nat} {x : DieTeams} (hhigh : takeHighest (s.job j) ((d.val + 1) % 4) = some (n, x)) :
    teamOffer s j d.val = some ((d.val + 1) % 4, n, x) := by
  rw [teamOffer, askedDies, List.filter_cons_of_pos (by simp [hon, hhere]), List.findSome?_cons, hhigh]
  rfl

theorem mem_insertTeam (t : Nat) : ∀ xs : List Nat, t ∈ insertTeam t xs
  | [] => List.mem_singleton.mpr rfl
  | x :: xs => by
    rw [insertTeam]
    split
    · exact List.mem_cons_self
    · exact List.mem_cons_of_mem _ (mem_insertTeam t xs)

end Teams

/-! ### A job's end (R85, R393, R446) -/

/-- A job whose work is done is drained, and waits for its record (R85, R446). -/
theorem jobEnd_gives {s : State} {j : Nat} (hhas : s.jobs.has j = true) (hruns : (s.job j).runs = true)
    (hgate : (s.job j).gate = .open) (hover : s.jobOver j = true) :
    EventGives s (.jobEnd j) fun t => (t.job j).phase = .ending ∧
      ∀ c ∈ (s.job j).cores, (t.core c).l1.dirty = [] ∧ (t.core c).l1.clean = [] := by
  have hkept : (s.drainJob j).jobs.has j = true := by rw [(drainJob_frame s j).jobs, hhas]
  refine ⟨(s.drainJob j).updJob j fun jb => { jb with phase := .ending }, ?_, ?_, fun c hc => ?_⟩
  · rw [exec_jobEnd]
    exact if_pos ⟨hhas, hruns, hgate, hover⟩
  · rw [updJob_job _ hkept]
  · rw [updJob_core]
    exact drainJob_core s j hc

/-- The registers with which a team warp starts (R396). -/
theorem teamWarp_rdS (j : Nat) (jb : Job) (n i role : Nat) : let w := teamWarp j jb n i role
    w.rdS 1 = BitVec.ofNat 64 (addrOf jb.args) ∧ w.rdS 2 = BitVec.ofNat 64 jb.argLen ∧ w.rdS 3 = BitVec.ofNat 64 jb.r.code := by
  simp [Warp.rdS, teamWarp, Regs.rdS_wrS]

/-! ### Handler warps that start by age (R215) -/

theorem originAgeExpiry_next {s : State} {c : CoreId} {k : Nat} {cause : Byte} {entry : Nat}
    (hfree : s.freeHandler c.val = some k) (hstop : ((s.job (s.occJob c.val)).stop).isNone = true)
    (hold : ((s.core c.val).causes.find? fun y => ((s.core c.val).oldestOf y).any (s.aged c.val)) = some cause)
    (hentry : (s.job (s.occJob c.val)).handlers.look cause.toNat = some entry) :
    ∃ u os, exec (.originAgeExpiry c) s =
      .next (State.placeWarp u c.val k (handlerWarp (s.job (s.occJob c.val)) (s.occJob c.val) entry os)) := by
  rw [exec_originAgeExpiry]
  unfold execOriginAgeExpiry
  simp only [hfree, hold, eventIf_pos _ _ hstop, State.startHandler, hentry]
  exact ⟨_, _, rfl⟩

theorem placeWarp_warp (u : State) (c k : Nat) (w : Warp) :
    (u.placeWarp c k w).warp c k = { w with st := .active, gen := (u.warp c k).gen + 1 } := State.warp_setWarp ..

/-! ### Clocks (R46, R47) -/

/-- The state with other requested clocks. -/
def State.withReqs (s : State) (m : FMap Nat) : State := { s with clockReq := m }

theorem mem_byScore {y : Nat × Int} : ∀ {xs : List (Nat × Int)}, y ∈ byScore xs → y ∈ xs
  | [], h => h
  | x :: xs, h => by
    rw [byScore, List.mem_append, List.mem_append, List.mem_singleton] at h
    rcases h with (h | rfl) | h
    · exact List.mem_cons_of_mem _ (mem_byScore ((List.takeWhile_sublist _).subset h))
    · exact List.mem_cons_self
    · exact List.mem_cons_of_mem _ (mem_byScore ((List.dropWhile_sublist _).subset h))

/-- t differs from s at most in the requested clocks, and there only in those of some clusters. -/
def AsksOnly (p : Nat → Prop) (s t : State) : Prop :=
  t = s.withReqs t.clockReq ∧ ∀ k, ¬ p k → t.clockReq.look k = s.clockReq.look k

theorem AsksOnly.refl (p : Nat → Prop) (s : State) : AsksOnly p s s := ⟨rfl, fun _ _ => rfl⟩

theorem AsksOnly.trans {p : Nat → Prop} {s t u : State} (h : AsksOnly p s t) (k : AsksOnly p t u) : AsksOnly p s u := by
  obtain ⟨ht, hl⟩ := h
  obtain ⟨hu, hm⟩ := k
  rw [ht] at hu
  exact ⟨hu, fun i hi => (hm i hi).trans (hl i hi)⟩

theorem askClock_only {p : Nat → Prop} {k : Nat} (hk : p k) (s : State) (step : Nat) : AsksOnly p s (s.askClock k step) :=
  ⟨rfl, fun _ hi => FMap.look_ins_ne _ _ fun h => hi (h ▸ hk)⟩

theorem raiseClocks_only {p : Nat → Prop} (share : Nat) : ∀ (xs : List (Nat × Int)) (est : Nat) (s : State),
    (∀ x ∈ xs, p x.1) → AsksOnly p s (State.raiseClocks share xs est s)
  | [], _, s, _ => .refl p s
  | x :: xs, est, s, h => by
    rw [State.raiseClocks]
    split
    · exact (askClock_only (h x List.mem_cons_self) s _).trans
        (raiseClocks_only share xs _ _ fun y hy => h y (List.mem_cons_of_mem _ hy))
    · exact .refl p s

/-- The clusters that scored low are slowed. -/
def State.slowClocks (s : State) (down : List (Nat × Int)) : State :=
  down.foldl (fun s x => s.askClock x.1 (s.clockGoal x.1 - 1)) s

theorem slowClocks_only {p : Nat → Prop} (down : List (Nat × Int)) (h : ∀ x ∈ down, p x.1) (s : State) :
    AsksOnly p s (s.slowClocks down) :=
  List.foldlRecOn down _ (motive := AsksOnly p s) (.refl p s) fun u hu x hx => hu.trans (askClock_only (h x hx) u _)

/-- The scores of a partition's clusters. -/
def partScores (s : State) (p : Nat) : FMap Int := s.scores.filter fun x => (s.part p).clus.getLsbD x.1

/-- The requests that a balance of a partition makes (R46). -/
def balanced (s : State) (p : Nat) : State :=
  (State.raiseClocks (s.powerShare p) (byScore ((partScores s p).filter fun x => decide (0 < x.2))) s.takeNat.1
    s.takeNat.2).slowClocks ((partScores s p).filter fun x => decide (x.2 < 0))

theorem clockBalance_eq (s : State) (p : PartId) : exec (.clockBalance p) s =
    eventIf (!(s.part p.val).pin && decide (16 ≤ (s.part p.val).scored)) "CLOCK_BALANCE"
      (({ balanced s p.val with scores := (balanced s p.val).scores.keep fun k _ => !(s.part p.val).clus.getLsbD k } :
        State).setPart p.val { s.part p.val with scored := (s.part p.val).scored - 16 }) := by
  rw [exec_clockBalance]
  rfl

/-- A balance asks for clocks of the partition's own clusters alone. -/
theorem balanced_only (s : State) (p : Nat) :
    AsksOnly (fun k => (s.part p).clus.getLsbD k = true) s.takeNat.2 (balanced s p) := by
  have hown : ∀ x ∈ partScores s p, (s.part p).clus.getLsbD x.1 = true := fun x hx => (List.mem_filter.mp hx).2
  exact (raiseClocks_only _ _ _ _ fun x hx => hown x (List.mem_filter.mp (mem_byScore hx)).1).trans
    (slowClocks_only _ (fun x hx => hown x (List.mem_filter.mp hx).1) _)

/-- A single cluster that scored below zero is slowed by a step. -/
theorem balanced_down {s : State} {p k : Nat} {v : Int} (h : partScores s p = [(k, v)]) (hv : v < 0) :
    (balanced s p).clockReq.look k = some (min (s.clockGoal k - 1) 18) := by
  have hup : ¬ 0 < v := by omega
  simp only [balanced, h, List.filter_cons, List.filter_nil, hv, hup, decide_true, decide_false, Bool.false_eq_true, if_true,
    if_false]
  exact FMap.look_ins_self ..

/-- A single cluster that scored above zero is sped up by a step, as far as the partition's power reaches. -/
theorem balanced_up {s : State} {p k : Nat} {v : Int} (h : partScores s p = [(k, v)]) (hv : 0 < v) :
    (balanced s p).clockReq.look k = s.clockReq.look k ∨
      (balanced s p).clockReq.look k = some (min (s.clockGoal k + 1) 18) := by
  have hdown : ¬ v < 0 := by omega
  simp only [balanced, h, List.filter_cons, List.filter_nil, hv, hdown, decide_true, decide_false, Bool.false_eq_true, if_true,
    if_false]
  change (State.raiseClocks _ [(k, v)] _ _).clockReq.look k = _ ∨ (State.raiseClocks _ [(k, v)] _ _).clockReq.look k = _
  rw [State.raiseClocks]
  split
  · exact .inr (FMap.look_ins_self ..)
  · exact .inl rfl

theorem clockBalance_next {s : State} {p : PartId} (hpin : (s.part p.val).pin = false) (hscored : 16 ≤ (s.part p.val).scored) :
    EventGives s (.clockBalance p) fun t => (t.part p.val).scored = (s.part p.val).scored - 16 ∧
      (∀ k, (s.part p.val).clus.getLsbD k = true → t.scores.look k = none) ∧
      (∀ k, (s.part p.val).clus.getLsbD k = false →
        t.scores.look k = s.scores.look k ∧ t.clockReq.look k = s.clockReq.look k) ∧
      (∀ k v, (s.scores.filter fun x => (s.part p.val).clus.getLsbD x.1) = [(k, v)] →
        (v < 0 → t.clockReq.look k = some (min (s.clockGoal k - 1) 18)) ∧
        (0 < v → t.clockReq.look k = s.clockReq.look k ∨ t.clockReq.look k = some (min (s.clockGoal k + 1) 18))) := by
  obtain ⟨hrest, hreq⟩ := balanced_only s p.val
  have hscores : (balanced s p.val).scores = s.scores := by rw [hrest]; rfl
  refine ⟨_, (clockBalance_eq s p).trans (eventIf_pos _ _ (by rw [hpin, decide_eq_true hscored]; rfl)), ?_, ?_, ?_, ?_⟩
  · rw [setPart_part, if_pos rfl]
  · intro k hk
    rw [State.setPart_scores, FMap.look_keep, hk]
    rfl
  · intro k hk
    rw [State.setPart_scores, State.setPart_clockReq, FMap.look_keep, hk, hscores]
    exact ⟨rfl, hreq k fun h => Bool.false_ne_true (hk.symm.trans h)⟩
  · exact fun k v hone => ⟨balanced_down hone, balanced_up hone⟩

/-- Settles O41: each event of the launch and of the end of jobs by its own lemma; `drainJob_core` has the caches of an ending
job's cores empty, `endJob_look` the job gone. -/
theorem teamsStartAndJobsEnd : Obligations.TeamsStartAndJobsEnd := by
  unfold Obligations.TeamsStartAndJobsEnd
  intro s d j jb
  refine ⟨fun hhas hruns => ⟨?_, teams_refused, ?_, ?_⟩, ?_, ?_, ?_, ?_, ?_, ?_⟩
  · exact fun n x c hlow hplace hhere => distributorStartTeam_next hhas hruns hlow hplace hhere
  · intro hhere hon hask hlow hplace
    refine ⟨fun hnone => ?_, fun n x hon1 hhere1 hhigh => ?_⟩
    · refine ⟨_, teamRequest_none hhas hruns hhere hon hask hlow hplace (teamOffer_none hnone), ?_⟩
      dsimp only
      rw [setTeams_unst hhas, FMap.getD_ins_self]
    · have hne : (d.val + 1) % 4 ≠ d.val := by
        have := d.isLt
        omega
      refine ⟨_, teamRequest_some hhas hruns hhere hon hask hlow hplace (teamOffer_first hon1 hhere1 hhigh), ?_⟩
      dsimp only
      rw [setTeams_unst (setTeams_has hhas _ x), setTeams_unst hhas]
      refine ⟨?_, ?_⟩
      · rw [FMap.getD_ins, if_neg hne, FMap.getD_ins_self]
      · rw [FMap.getD_ins_self]
        exact mem_insertTeam n _
  · exact fun hgate hover => jobEnd_gives hhas hruns hgate hover
  · intro n i role w
    obtain ⟨h1, h2, h3⟩ := teamWarp_rdS j jb n i role
    exact ⟨h1, h2, h3, rfl, rfl, rfl⟩
  · intro hhas hphase
    refine ⟨_, ?_, endJob_look s j 0 0 (s.job j).late⟩
    rw [exec_jobEndRecord]
    exact eventIf_pos _ _ (by rw [hhas, show (s.job j).phase = .ending from hphase]; rfl)
  · intro c k cause entry hfree hstop hold hentry
    obtain ⟨u, os, hnext⟩ := originAgeExpiry_next hfree hstop hold hentry
    refine ⟨_, hnext, ?_⟩
    dsimp only
    rw [placeWarp_warp]
    exact ⟨rfl, rfl, rfl⟩
  · intro p hpin
    rw [clockBalance_eq]
    exact eventIf_neg _ _ (by rw [hpin]; rfl)
  · exact fun p hpin hscored => clockBalance_next hpin hscored
  · intro k v hv
    have hnext : exec (.clusterClockChange k) s = execClusterClockChange k s := exec_clusterClockChange k s
    simp only [execClusterClockChange, hv] at hnext
    refine ⟨_, hnext, FMap.look_del_self _ _, ?_⟩
    rw [State.clock, FMap.getD_put_self]
    simp only [decide_eq_true_eq]

end Sys2Proof.Machine
end
